-- ==== Sys2Proof/Word.lean ====
section
/-! DEFINITION. Word types and sparse maps: the plain data every other file is written over. -/

namespace Sys2Proof

/-- A 32-bit register value (R5). -/
abbrev Word32 := BitVec 32

/-- A 64-bit value, an even/odd register pair (R2) or an instruction word (R326). -/
abbrev Word64 := BitVec 64

/-- One byte. -/
abbrev Byte := BitVec 8

/-- A set of lanes of one heat: bit i stands for lane i (R31). -/
abbrev LaneSet := BitVec 32

/-- Sparse data by number: entries in strictly rising order of their keys. -/
abbrev AMap (α : Type) := List (Nat × α)

/-- The two host ports (R292). -/
inductive Port where
  | p0
  | p1
deriving DecidableEq, Repr

end Sys2Proof
end

