-- ==== Sys2Proof/Syntax.lean ====
section
/-! DEFINITION. The instructions: one constructor per row of spec/opcode_table.json. A program
instruction carries the fields of its layout (R330 to R333, R341 to R346); a host, front-end or
device event carries what the event brings from outside. -/

namespace Sys2Proof

/-- Rounding modes (R98). -/
inductive Rnd where
  | rne
  | rtz
  | rup
  | rdn
deriving DecidableEq, Repr

/-- The predicate of a word: selector 0 to 11 names P0 to P11, 12 is PT (R330). -/
structure Pred where
  sel : BitVec 4
  neg : Bool
deriving DecidableEq, Repr

/-- Layout REG with its MOD field (R331, R332). -/
structure RegF where
  pred : Pred
  la : BitVec 4
  d : Byte
  a : Byte
  b : Byte
  c : Byte
  ty : BitVec 3
  rnd : Rnd
  sat : Bool
  sa : Bool
  sb : Bool
  sc : Bool
  u : Bool
  opx : BitVec 3
deriving DecidableEq, Repr

/-- Layout IMM (R331). -/
structure ImmF where
  pred : Pred
  la : BitVec 4
  d : Byte
  a : Byte
  imm : BitVec 29
deriving DecidableEq, Repr

/-- Layout CMP (R331): CC and PD stand in the place of D. -/
structure CmpF where
  pred : Pred
  cc : BitVec 4
  pd : BitVec 4
  a : Byte
  b : Byte
  c : Byte
  ty : BitVec 3
  rnd : Rnd
  sat : Bool
  sa : Bool
  sb : Bool
  sc : Bool
  u : Bool
  opx : BitVec 3
deriving DecidableEq, Repr

/-- Layout CMPI (R331). -/
structure CmpiF where
  pred : Pred
  cc : BitVec 4
  pd : BitVec 4
  a : Byte
  imm : BitVec 29
deriving DecidableEq, Repr

/-- Layout CHN of the chain instructions (R331, R403); LCMP's PD is the low half of D. -/
structure ChnF where
  pred : Pred
  la : BitVec 4
  d : Byte
  a : Byte
  b : Byte
  pc : BitVec 4
  sa : Bool
  sb : Bool
  opx : Bool
deriving DecidableEq, Repr

/-- Layout CAPN of CNARROW (R331, R366). -/
structure CapnF where
  pred : Pred
  cs : BitVec 4
  cd : BitVec 4
  a : Byte
  b : Byte
  c : Byte
deriving DecidableEq, Repr

/-- Layout JMP (R331): a branch offset in words. -/
structure JmpF where
  pred : Pred
  off : BitVec 29
deriving DecidableEq, Repr

/-- Layout NIL (R331); OPX is fixed by the constructor. -/
structure NilF where
  pred : Pred
deriving DecidableEq, Repr

/-- Layout MEM with its MMOD field (R331, R333); OPX is fixed by the constructor except in PREF. -/
structure MemF where
  pred : Pred
  la : BitVec 4
  d : Byte
  a : Byte
  cap : BitVec 4
  imm : BitVec 12
  size : BitVec 3
  ord : BitVec 3
  sa : Bool
  wide : Bool
  scope : BitVec 3
  opx : BitVec 2
deriving DecidableEq, Repr

/-- Layout ATM (R331, R350). -/
structure AtmF where
  pred : Pred
  la : BitVec 4
  d : Byte
  a : Byte
  cap : BitVec 4
  b : Byte
  aop : BitVec 4
  size : BitVec 3
  ord : BitVec 3
  sa : Bool
  wide : Bool
  scope : BitVec 3
deriving DecidableEq, Repr

/-- Extended LDK (R346, R411). -/
structure LdkF where
  pred : Pred
  la : BitVec 4
  d : Byte
  a : Byte
  size : BitVec 3
  sa : Bool
  wide : Bool
  off : Word64
deriving DecidableEq, Repr

/-- Extended CQW (R346, R368). -/
structure CqwxF where
  pred : Pred
  slot : Byte
  val : Word64
deriving DecidableEq, Repr

/-- Extended TDESC (R346, R455). -/
structure TdescF where
  pred : Pred
  t : Byte
  a : Byte
  hi : Word64
deriving DecidableEq, Repr

/-- Extended MOVI (R346, R424). -/
structure MovixF where
  pred : Pred
  d : Byte
  ty : BitVec 3
  u : Bool
  val : Word64
deriving DecidableEq, Repr

/-- One half of a pair word (R341): HPRED 7 is PT. -/
structure HalfF where
  hop : BitVec 6
  hpred : BitVec 3
  d : Byte
  s : Byte
  hmod : BitVec 6
deriving DecidableEq, Repr

/-- The host registers (R8, R295); a write of those that have a row of their own is that row's. -/
inductive HostReg where
  | hcmd (i : Fin 8)
  | hres
  | qctl
  | fctl
  | flogw
  | flogr
  | qstat
  | tdstat
  | placemap
  | sstat
  /-- a doubleword of the function's configuration space -/
  | config (i : Fin 1024)
  /-- a base address register of the function: BAR0, or BAR2 where `two` -/
  | bar (two : Bool)
  | flog
  | life
  | sched
  | domain
  | doorbell
  | start
  | dbgctl
deriving DecidableEq, Repr

/-- What a reading of the environment names (row SENSOR_SAMPLE, R271, R286). -/
inductive Sensor where
  | core (p : Nat)
  | pacer (cluster : Nat)
  | array (cluster : Nat)
  | slice (i : Nat)
  | link (i : Nat)
  | stack (die : Nat) (i : Nat)
deriving DecidableEq, Repr

/-- A unit that issues words: a heat, a relay's pacer, or the warm-up of a queue (R155, R230). -/
inductive UnitRef where
  | heat (relay : Nat) (squad : Nat) (heat : Nat)
  | pacer (relay : Nat)
  | warm (queue : Nat)
deriving DecidableEq, Repr

/-- A read whose data has been forwarded to a unit (R261). -/
structure ReadRef where
  unit : UnitRef
  read : Nat
deriving DecidableEq, Repr

/-- Where a storage error or an integrity failure is found (R259). -/
inductive ErrorSite where
  | vreg (u : UnitRef) (lane : Nat) (reg : Nat)
  | preg (u : UnitRef) (lane : Nat) (reg : Nat)
  | sreg (u : UnitRef) (reg : Nat)
  | command (relay : Nat) (queue : Nat)
  | heatState (relay : Nat) (squad : Nat) (heat : Nat)
  | squadState (relay : Nat) (squad : Nat)
  | relayState (relay : Nat)
  | pageEntry (pa : Nat)
  | queueState (q : Nat)
  | matrixData (relay : Nat) (frame : Option Nat)
  | contextState (ctx : Nat) (frame : Nat)
  | codeFetch (ctx : Nat) (frame : Nat)
  | scrub (frame : Nat)
  | saveArea (relay : Nat)
  /-- data forwarded to a unit under read number `read` and not yet verified -/
  | forwarded (u : UnitRef) (read : Nat)
  | correctable
deriving DecidableEq, Repr

/-- One peer's contribution to a collective (R211 to R213): the key generation it was sealed
under, whether its definition of the group agrees, the shape it named, and its element codes. -/
structure Contribution where
  keygen : Nat
  agrees : Bool
  /-- the participant's queue has been reset: it contributes nothing -/
  cancelled : Bool
  cop : Nat
  cfmt : Nat
  rows : Nat
  rowBytes : Nat
  bytes : List Byte
deriving DecidableEq, Repr

/-- What an access of a peer device does (R306, R155). -/
inductive PeerOp where
  | read (pa : Nat) (n : Nat)
  | write (pa : Nat) (bytes : List Byte)
deriving DecidableEq, Repr

/-- A peer's access through one of the link ports (R306). -/
structure PeerAccess where
  link : Nat
  op : PeerOp
deriving DecidableEq, Repr

/-- A request to exchange keys: the requester's nonce, and of a peer device the link key's generation (R303, R305). -/
structure KeyRequest where
  nonce : Nat
  linkKey : Option (BitVec 16)
deriving DecidableEq, Repr

/-- A kind of monitored unit (R268). -/
inductive WearKind where
  | core
  | pacer
  | array
  | slice
  | link
deriving DecidableEq, Repr

/-- The steps of the machine, one constructor per row of spec/opcode_table.json. -/
inductive Instr where
  -- start, doorbells and queues
  | deviceReset
  | vxStart (port : Port) (value : Word64)
  | vxDoorbell (port : Port) (value : Word64)
  | clearQuar (port : Port) (value : Word32)
  | queueReset (port : Port) (value : Word32)
  | queueResetReport (queue : Nat)
  -- host commands, performing the block the port has submitted
  | ctxCreate (port : Port)
  | ctxEnd (port : Port)
  | qCreate (port : Port)
  | qDestroy (port : Port)
  | frameAssign (port : Port)
  | frameRelease (port : Port)
  | frameScrub (port : Port)
  | capSet (port : Port)
  | tlbInval (port : Port)
  | cgrpSet (port : Port)
  | hostCommandDone (port : Port)
  -- host registers
  | fctlRetry (port : Port) (value : Word64)
  | fctlSkip (port : Port) (value : Word64)
  | fctlKill (port : Port) (value : Word64)
  | hostTeardown (port : Port) (value : Word64)
  | vxDbgctl (port : Port) (value : Word32)
  | vxLife (port : Port) (value : Word64)
  | vxSched (port : Port) (value : Word32)
  | vxDomain (port : Port) (value : Word64)
  | vxFlog (port : Port) (value : Word64)
  | registerWrite (port : Port) (reg : HostReg) (value : Word64)
  | bar2Access (port : Port) (tee : Bool) (addr : Nat) (len : Nat) (write : Option (List Byte))
  -- trusted interface and attestation
  | lockInterface (port : Port)
  | startInterface (port : Port)
  | stopInterface (port : Port)
  | linkSecurityError (port : Port)
  | getCertificate (port : Port)
  | challenge (port : Port) (nonce : Nat)
  /-- a session between peer devices gives a link key of generation `linkKey` too (R305) -/
  | keyExchange (port : Port) (peer : KeyRequest)
  | getMeasurements (port : Port) (index : Byte) (nonce : Nat)
  -- front end
  | batchValidation (queue : Nat)
  | meetDispatch (queue : Nat)
  | launch (queue : Nat)
  | wait (queue : Nat)
  | signal (meet : Nat) (index : Nat)
  | copy (meet : Nat) (index : Nat)
  | copyDone (meet : Nat) (index : Nat)
  -- distributor
  | relayPlacement (field : Nat) (linear : Nat)
  | relayRetirement (relay : Nat)
  | concurrencyLost (field : Nat)
  | sliceExpiry (relay : Nat) (squad : Nat)
  | preemption (field : Nat) (linear : Nat)
  | yieldDeadline (relay : Nat) (squad : Nat)
  | migration (relay : Nat) (cluster : Nat)
  -- rotation, wear, clocks, sensors
  | rotationSlotEnd (group : Nat)
  | rotationScanDone (group : Nat) (pass : Bool)
  | tileArrayScan (cluster : Nat) (pass : Bool)
  | wearIntegration (kind : WearKind) (index : Nat) (mv : Nat) (activity : Nat) (mon : BitVec 16)
  | boostLevelReached (cluster : Nat)
  | boostGrantEnd (cluster : Nat)
  | sensorSample (sensor : Sensor) (value : Int)
  -- memory and units
  | translationWalkDone (walk : Nat)
  | fragmentReplay (u : UnitRef) (fid : Nat)
  | scratchRefill (relay : Nat) (page : Nat)
  | storageError (site : ErrorSite)
  | longLatencyCompletion (u : UnitRef) (index : Nat)
  | handlerEntry (u : UnitRef)
  | copyEngineTransfer (relay : Nat) (queue : Nat)
  | commandCompletion (relay : Nat) (queue : Nat)
  | collectiveRun (relay : Nat) (peers : List Contribution)
  | matrixEntryBegin (relay : Nat)
  | matrixEntryComplete (relay : Nat) (residueOk : Bool)
  -- program instructions
  | pairWord (h0 : HalfF) (h1 : HalfF)
  | iadd (f : RegF)
  | iaddImm (f : ImmF)
  | iaddImmUniform (f : ImmF)
  | isub (f : RegF)
  | iabs (f : RegF)
  | imin (f : RegF)
  | iminImm (f : ImmF)
  | iminImmUniform (f : ImmF)
  | imax (f : RegF)
  | imaxImm (f : ImmF)
  | imaxImmUniform (f : ImmF)
  | iaddc (f : RegF)
  | icmp (f : CmpF)
  | icmpImm (f : CmpiF)
  | icmpImmUniform (f : CmpiF)
  | idot4 (f : RegF)
  | qdot4 (f : RegF)
  | imul (f : RegF)
  | imulImm (f : ImmF)
  | imulImmUniform (f : ImmF)
  | imulhi (f : RegF)
  | imad (f : RegF)
  | and (f : RegF)
  | andImm (f : ImmF)
  | andImmUniform (f : ImmF)
  | or (f : RegF)
  | orImm (f : ImmF)
  | orImmUniform (f : ImmF)
  | xor (f : RegF)
  | xorImm (f : ImmF)
  | xorImmUniform (f : ImmF)
  | not (f : RegF)
  | shl (f : RegF)
  | shlImm (f : ImmF)
  | shlImmUniform (f : ImmF)
  | shr (f : RegF)
  | shrImm (f : ImmF)
  | shrImmUniform (f : ImmF)
  | sar (f : RegF)
  | sarImm (f : ImmF)
  | sarImmUniform (f : ImmF)
  | rotl (f : RegF)
  | rotlImm (f : ImmF)
  | rotlImmUniform (f : ImmF)
  | bfx (f : RegF)
  | bfi (f : RegF)
  | brev (f : RegF)
  | clz (f : RegF)
  | popc (f : RegF)
  | sel (f : RegF)
  | mov (f : RegF)
  | movi (f : ImmF)
  | moviUniform (f : ImmF)
  | moviExt (f : MovixF)
  | fadd (f : RegF)
  | fsub (f : RegF)
  | fmul (f : RegF)
  | ffma (f : RegF)
  | fmin (f : RegF)
  | fmax (f : RegF)
  | fcmp (f : CmpF)
  | fdiv (f : RegF)
  | fsqrt (f : RegF)
  | frcp (f : RegF)
  | frsq (f : RegF)
  | fexp2 (f : RegF)
  | flog2 (f : RegF)
  | vfma2 (f : RegF)
  | dadd (f : RegF)
  | dmul (f : RegF)
  | dfma (f : RegF)
  | cvt (f : RegF)
  | sladd (f : RegF)
  | slmul (f : RegF)
  | slrcp (f : RegF)
  | slcmp (f : CmpF)
  | slcvt (f : RegF)
  | ld (f : MemF)
  | lds (f : MemF)
  | ldu (f : MemF)
  | ldk (f : LdkF)
  | st (f : MemF)
  | sts (f : MemF)
  | atom (f : AtmF)
  | atoms (f : AtmF)
  | pref (f : MemF)
  | lea (f : MemF)
  | leaS (f : MemF)
  | cld (f : MemF)
  | cldMemory (f : MemF)
  | cnarrow (f : CapnF)
  | fence (f : MemF)
  | facqF (f : RegF)
  | facqE (f : RegF)
  | frelF (f : RegF)
  | frelE (f : RegF)
  | bankmode (f : RegF)
  | bankmodeQ (f : RegF)
  | pgpin (f : RegF)
  | pgunpin (f : RegF)
  | shfl (f : RegF)
  | vote (f : RegF)
  | redux (f : RegF)
  | lbind (f : ImmF)
  | lunbind (f : NilF)
  | ladd (f : ChnF)
  | lsub (f : ChnF)
  | lshl (f : ChnF)
  | lshr (f : ChnF)
  | lcmp (f : ChnF)
  | lmac (f : ChnF)
  | nop (f : NilF)
  | bra (f : JmpF)
  | brx (f : RegF)
  | call (f : JmpF)
  | ret (f : NilF)
  | exit (f : ImmF)
  | reconv (f : NilF)
  | yield (f : NilF)
  | yieldPoint (f : NilF)
  | bar (f : ImmF)
  | bara (f : ImmF)
  | barw (f : ImmF)
  | rbar (f : NilF)
  | fork (f : ImmF)
  | rdv (f : ImmF)
  | fretRetry (f : NilF)
  | fretSkip (f : NilF)
  | fkill (f : NilF)
  | xrv (f : RegF)
  | xwv (f : RegF)
  | cqw (f : RegF)
  | cqwExt (f : CqwxF)
  | cqgo (f : ImmF)
  | cwait (f : RegF)
  | gset (f : ImmF)
  | qfence (f : ImmF)
  | mzero (f : RegF)
  | mlda (f : RegF)
  | mma (f : RegF)
  | mstore (f : RegF)
  | mcommit (f : RegF)
  | mwait (f : ImmF)
  | tdesc (f : TdescF)
  | tinv (f : RegF)
  | srd (f : RegF)
  | swr (f : RegF)
  | trap (f : NilF)
  | bkpt (f : NilF)
  | boost (f : RegF)
  | boostSpare (f : RegF)
  | therm (f : RegF)
  | wrd (f : RegF)
  -- events of power, supply and verification
  | powerLoss (tornKind : WearKind) (tornIndex : Nat) (torn : Bool)
  | supplyDroop (cluster : Nat) (mhz : Nat)
  | mappingDeclined (walk : Nat)
  | bankmodeTransitionDone (relay : Nat) (bank : Nat)
  | zeroingComplete (frame : Nat)
  | accessPerformed (u : UnitRef)
  | dataVerified (u : ReadRef)
  | peerUnreachable (relay : Nat)
  | cacheSectorEviction (sector : Nat)
  | peerDeviceAccess (op : PeerAccess)
deriving DecidableEq, Repr

end Sys2Proof
end

