-- ==== Sys2Proof/Machine/Fields.lean ====
section
/-! DEFINITION. Which fields each instruction uses: the static checks behind 0x04 FIELD_RESERVED
and 0x03 PAIR_RULE (R93, R157, R331 to R337, R343, R346, R347 and the reference entries). -/

namespace Sys2Proof.Machine

/-- The classes of type codes (R95). -/
inductive TyClass where
  | int
  | float
  | sli
deriving DecidableEq, Repr

/-- How many registers an operand covers (R93). -/
inductive Wd where
  | one
  | two
  | byTy
deriving DecidableEq, Repr

/-- What a register field of layout REG names (R331, R334, R335). -/
inductive Use where
  /-- unused: the field and its scalar bit must be 0 -/
  | none
  /-- a destination, V, or S with U -/
  | dst (w : Wd)
  /-- a source, V, or S with its scalar bit or with U -/
  | src (w : Wd)
  /-- a V register -/
  | vreg (w : Wd)
  /-- an S register of a scalar-only word -/
  | sreg (w : Wd)
  /-- any number below the limit -/
  | num (lim : Nat)
deriving DecidableEq, Repr

/-- The fields an instruction of layout REG or CMP uses. -/
structure Shape where
  cls : TyClass := .int
  la : Bool := false
  u : Bool := false
  types : List Nat := [0]
  rnd : Bool := false
  sat : Bool := false
  opx : List Nat := [0]
  d : Use := .none
  a : Use := .none
  b : Use := .none
  c : Use := .none
deriving DecidableEq, Repr

/-- Whether type code `ty` of class `cls` is 64 bits wide (R93, R95, R96). -/
def tyWide (cls : TyClass) (ty : BitVec 3) : Bool :=
  match cls with
  | .int => ty = 3#3 || ty = 7#3
  | .float => ty = 1#3
  | .sli => false

/-- How many registers an operand of width `w` covers under type `ty`. -/
def Wd.count (w : Wd) (cls : TyClass) (ty : BitVec 3) : Nat :=
  match w with
  | .one => 1
  | .two => 2
  | .byTy => if tyWide cls ty then 2 else 1

/-- An operand of two registers is named by its even register, one of four by a multiple of 4 (R93, R408). -/
def aligned (count n : Nat) : Bool := n % count = 0

/-- One register field against its use: number, scalar bit and U (R334 to R336). -/
def Use.ok (use : Use) (cls : TyClass) (ty : BitVec 3) (u sbit : Bool) (n : Byte) : Bool :=
  match use with
  | .none => n = 0#8 && !sbit
  | .dst w => !sbit && (!u || n.toNat < 64) && aligned (w.count cls ty) n.toNat
  | .src w => (!u || !sbit) && (!(u || sbit) || n.toNat < 64) && aligned (w.count cls ty) n.toNat
  | .vreg w => !sbit && aligned (w.count cls ty) n.toNat
  | .sreg w => !sbit && n.toNat < 64 && aligned (w.count cls ty) n.toNat
  | .num lim => !sbit && n.toNat < lim

/-- A usable predicate: P0 to P11 or PT (R330). -/
def predOk (p : Pred) : Bool := p.sel.toNat ≤ 12

/-- A word of layout REG against its shape (R331, R332, R334 to R336, R340). -/
def regOk (sh : Shape) (f : RegF) : Bool :=
  predOk f.pred && (sh.la || f.la = 0#4) && (sh.u || !f.u) && sh.types.contains f.ty.toNat &&
  (sh.rnd || f.rnd = .rne) && (sh.sat || !f.sat) && sh.opx.contains f.opx.toNat &&
  sh.d.ok sh.cls f.ty f.u false f.d && sh.a.ok sh.cls f.ty f.u f.sa f.a &&
  sh.b.ok sh.cls f.ty f.u f.sb f.b && sh.c.ok sh.cls f.ty f.u f.sc f.c

/-- A compare as the REG word with the same operands. -/
def cmpAsReg (f : CmpF) : RegF :=
  { pred := f.pred, la := 0#4, d := 0#8, a := f.a, b := f.b, c := f.c, ty := f.ty, rnd := f.rnd,
    sat := f.sat, sa := f.sa, sb := f.sb, sc := f.sc, u := f.u, opx := f.opx }

/-- A word of layout CMP: CC from the list, PD from 0 to 11 (R331, R337). -/
def cmpOk (sh : Shape) (ccs : List Nat) (f : CmpF) : Bool :=
  ccs.contains f.cc.toNat && f.pd.toNat < 12 && regOk sh (cmpAsReg f)

/-- A word of layout CMPI (R336, R337). -/
def cmpiOk (uniform : Bool) (f : CmpiF) : Bool :=
  predOk f.pred && f.cc.toNat < 10 && f.pd.toNat < 12 && (!uniform || f.a.toNat < 64)

/-- The integer immediates of layout IMM (R336). -/
def immOk (uniform : Bool) (f : ImmF) : Bool :=
  predOk f.pred && f.la = 0#4 && (!uniform || (f.d.toNat < 64 && f.a.toNat < 64))

/-- Shift and rotate amounts lie from 0 to 31 (R336). -/
def immShiftOk (uniform : Bool) (f : ImmF) : Bool := immOk uniform f && f.imm.toNat < 32

/-- Layout IMM with D and A zero (BAR, EXIT, RDV and others). -/
def immBareOk (f : ImmF) : Bool := predOk f.pred && f.la = 0#4 && f.d = 0#8 && f.a = 0#8

/-! ### Shapes of the REG and CMP words, in the order of the opcode map (R338) -/

def allInt : List Nat := [0, 1, 2, 3, 4, 5, 6, 7]
def int3264 : List Nat := [2, 3, 6, 7]

def dab : Shape := { u := true, d := .dst .byTy, a := .src .byTy, b := .src .byTy }
def da : Shape := { u := true, d := .dst .byTy, a := .src .byTy }

/-- IADD, ISUB (R395). -/
def shAdd : Shape := { dab with types := allInt, sat := true }
/-- IABS (R395). -/
def shAbs : Shape := { da with types := [0, 1, 2, 3], sat := true }
/-- IMIN, IMAX (R395). -/
def shMinMax : Shape := { dab with types := allInt }
/-- The shifts (R440): the amount is B[7:0] of one register, whatever the type (R441). -/
def shShift : Shape := { dab with types := allInt, b := .src .one }
/-- IADDC (R397): C names a predicate. -/
def shAddc : Shape := { dab with types := int3264, opx := [0, 1, 2, 3], c := .num 12 }
/-- IMULHI (R400). -/
def shMulhi : Shape := { dab with types := int3264 }
/-- IMAD (R400). -/
def shMad : Shape := { dab with types := int3264, sat := true, c := .src .byTy }
/-- ICMP (R398). -/
def shIcmp : Shape := { u := true, types := allInt, a := .src .byTy, b := .src .byTy }
/-- IDOT4, QDOT4 (R399, R431). -/
def shDot : Shape := { dab with types := [2], sat := true, opx := [0, 1, 2, 3], c := .src .one }
/-- AND, OR, XOR (R348). -/
def shLogic : Shape := { dab with types := int3264 }
/-- NOT, MOV (R348, R423). -/
def shNot : Shape := { da with types := int3264 }
/-- BFX, BFI (R359). -/
def shBf : Shape := { dab with types := [2, 6], c := .src .one }
/-- BREV (R364). -/
def shBrev : Shape := { da with types := [6, 7] }
/-- CLZ, POPC (R364): a 32-bit destination. -/
def shClz : Shape := { da with types := [6, 7], d := .dst .one }
/-- SEL (R442): C names a predicate. -/
def shSel : Shape := { dab with types := int3264, c := .num 12 }
/-- FADD, FSUB, FMUL (R381). -/
def shFadd : Shape := { dab with cls := .float, types := [0, 2, 3], rnd := true, sat := true }
/-- FFMA (R381). -/
def shFfma : Shape := { shFadd with opx := [0, 1, 2, 3], c := .src .byTy }
/-- FMIN, FMAX (R381). -/
def shFmin : Shape := { dab with cls := .float, types := [0, 1, 2, 3] }
/-- FCMP (R384). -/
def shFcmp : Shape := { cls := .float, u := true, types := [0, 1, 2, 3], a := .src .byTy, b := .src .byTy }
/-- FDIV (R385). -/
def shFdiv : Shape := { dab with cls := .float, la := true, types := [0, 1], rnd := true, sat := true }
/-- FSQRT (R385). -/
def shFsqrt : Shape := { da with cls := .float, la := true, types := [0, 1], rnd := true, sat := true }
/-- FRCP, FRSQ, FEXP2, FLOG2 (R385). -/
def shFsfu : Shape := { shFsqrt with types := [0] }
/-- VFMA2 (R459). -/
def shVfma2 : Shape :=
  { dab with cls := .float, types := [2, 3], rnd := true, sat := true, opx := [0, 1, 2, 3], c := .src .one }
/-- DADD (R374). -/
def shDadd : Shape := { dab with cls := .float, types := [1], rnd := true, sat := true, opx := [0, 1] }
/-- DMUL (R374). -/
def shDmul : Shape := { shDadd with opx := [0] }
/-- DFMA (R374). -/
def shDfma : Shape := { shDadd with opx := [0, 1, 2, 3], c := .src .byTy }
/-- SLADD (R445). -/
def shSladd : Shape := { dab with cls := .sli, la := true, types := [0, 1], opx := [0, 1] }
/-- SLMUL (R445). -/
def shSlmul : Shape := { shSladd with opx := [0] }
/-- SLRCP (R445). -/
def shSlrcp : Shape := { da with cls := .sli, types := [0, 1] }
/-- SLCMP (R445). -/
def shSlcmp : Shape := { cls := .sli, u := true, types := [0, 1], a := .src .one, b := .src .one }
/-- FACQ (R378): A is a bank number. -/
def shFacq (opx : Nat) : Shape := { opx := [opx], d := .sreg .one, a := .num 32 }
/-- FREL (R378). -/
def shFrel (opx : Nat) : Shape := { opx := [opx], a := .num 32 }
/-- BANKMODE, set form (R355). -/
def shBankmode : Shape := { d := .sreg .one, a := .sreg .one, b := .sreg .one }
/-- BANKMODE.Q (R355). -/
def shBankmodeQ : Shape := { opx := [1], d := .sreg .one, a := .sreg .one }
/-- PGPIN, PGUNPIN (R426). -/
def shPgpin : Shape := { a := .sreg .one, b := .sreg .one }
/-- SHFL (R443): the selector may be an S register. -/
def shShfl : Shape :=
  { types := int3264, opx := [0, 1, 2, 3], d := .vreg .byTy, a := .vreg .byTy, b := .src .one }
/-- BRX (R362). -/
def shBrx : Shape := { a := .src .one }
/-- CQW (R368): D is a slot number. -/
def shCqw : Shape := { d := .num 4, a := .sreg .two }
/-- CWAIT (R372): A is a counter number. -/
def shCwait : Shape := { la := true, a := .num 16, b := .sreg .two }
/-- MZERO (R418). -/
def shMzero : Shape := { d := .num 256 }
/-- MLDA (R418). -/
def shMlda : Shape := { d := .num 256, a := .num 256 }
/-- MMA (R418). -/
def shMma : Shape := { d := .num 256, a := .num 256, b := .num 256, c := .sreg .one }
/-- MSTORE (R418). -/
def shMstore : Shape := { opx := [0, 1], d := .num 256, a := .num 256 }
/-- MCOMMIT (R415). -/
def shMcommit : Shape := { d := .sreg .one }
/-- TINV (R455). -/
def shTinv : Shape := { d := .num 256 }
/-- BOOST (R361). -/
def shBoost (opx : Nat) : Shape := { opx := [opx], d := .sreg .one, a := .sreg .one, b := .sreg .one }
/-- THERM (R457). -/
def shTherm : Shape := { d := .sreg .one, a := .sreg .one }
/-- WRD (R462). -/
def shWrd : Shape := { d := .sreg .two, a := .sreg .one, b := .sreg .one }

/-! ### Words whose fields depend on one another -/

/-- Conditions of FCMP and SLCMP (R337). -/
def ccFloat : List Nat := [0, 1, 2, 3, 4, 5, 10, 11]
/-- Conditions of ICMP in layout CMP (R337). -/
def ccInt : List Nat := [0, 1, 2, 3, 4, 5]

/-- CVT's class bits: DCL is bit 22 and SCL bit 21 of the word, bits 1 and 0 of field B (R369). -/
def cvtDcl (f : RegF) : Bool := f.b.getLsbD 1
def cvtScl (f : RegF) : Bool := f.b.getLsbD 0

/-- The pairs of types CVT offers (R107); floating codes of R95. -/
def cvtPairOk (dcl scl : Bool) (dt st : Nat) : Bool :=
  match dcl, scl with
  | false, false => dt ≠ st
  | true, false => dt ≤ 3
  | false, true => st ≤ 3
  | true, true =>
    dt ≠ st && dt ≤ 6 && st ≤ 6 &&
    (if dt = 6 then st = 0 || st = 3
     else if st = 6 then dt = 0 || dt = 3
     else !((dt = 1 && 4 ≤ st) || (st = 1 && 4 ≤ dt)))

/-- How many registers CVT's destination and source cover. -/
def cvtCount (fl : Bool) (ty : BitVec 3) : Nat :=
  if tyWide (if fl then .float else .int) ty then 2 else 1

/-- CVT (R369, R371). A block conversion with U has no meaning and is refused (see the log). -/
def cvtOk (f : RegF) : Bool :=
  let toBlock := cvtDcl f && f.ty = 6#3
  let ofBlock := cvtScl f && f.opx = 6#3
  predOk f.pred && f.la = 0#4 && f.b.toNat < 4 && !f.sb &&
  cvtPairOk (cvtDcl f) (cvtScl f) f.ty.toNat f.opx.toNat &&
  Use.ok (.dst .one) .int f.ty f.u false f.d && aligned (cvtCount (cvtDcl f) f.ty) f.d.toNat &&
  Use.ok (.src .one) .int f.ty f.u f.sa f.a && aligned (cvtCount (cvtScl f) f.opx) f.a.toNat &&
  (if toBlock then f.sc && f.c.toNat < 64 && f.rnd = .rne else !f.sc && f.c = 0#8) &&
  (!(toBlock || ofBlock) || (!f.sat && !f.u))

/-- SLCVT (R445): OPX [0] direction, OPX [1] binary format. -/
def slcvtOk (f : RegF) : Bool :=
  let toBin := f.opx.getLsbD 0
  let wide := f.opx.getLsbD 1
  predOk f.pred && f.ty.toNat < 2 && f.opx.toNat < 4 && !f.sb && !f.sc && f.b = 0#8 && f.c = 0#8 &&
  (toBin || (f.rnd = .rne && !f.sat)) &&
  Use.ok (.dst .one) .sli f.ty f.u false f.d && aligned (if toBin && wide then 2 else 1) f.d.toNat &&
  Use.ok (.src .one) .sli f.ty f.u f.sa f.a && aligned (if !toBin && wide then 2 else 1) f.a.toNat

/-- REDUX (R437). -/
def reduxOk (f : RegF) : Bool :=
  predOk f.pred && f.la = 0#4 && !f.u && f.rnd = .rne && !f.sb && !f.sc && f.b = 0#8 && f.c = 0#8 &&
  f.opx.toNat < 6 && (if f.opx.toNat < 3 then int3264 else [6, 7]).contains f.ty.toNat &&
  (!f.sat || f.opx = 0#3) &&
  Use.ok (.vreg .byTy) .int f.ty false false f.d && Use.ok (.src .byTy) .int f.ty false f.sa f.a

/-- VOTE (R460): OPX [1:0] the mode, OPX [2] .NOT. -/
def voteOk (f : RegF) : Bool :=
  let mode := f.opx.toNat % 4
  predOk f.pred && f.la = 0#4 && f.ty = 0#3 && f.rnd = .rne && !f.sat && !f.sa && !f.sb && !f.sc &&
  f.b = 0#8 && f.c = 0#8 && (!f.u || (mode = 0 && f.d.toNat < 64)) &&
  (mode = 0 || f.d.toNat < 12) && (if mode = 3 then f.opx = 3#3 else f.a.toNat < 13)

/-- XRV (R463). -/
def xrvOk (f : RegF) : Bool :=
  predOk f.pred && f.la = 0#4 && f.ty = 0#3 && f.rnd = .rne && !f.sat && !f.sa && !f.sb && !f.sc && !f.u &&
  f.c = 0#8 && f.a.toNat < 64 && f.opx.toNat < 6 &&
  (match f.opx.toNat with
   | 0 => true
   | 1 => f.b.toNat < 12
   | 5 => f.b = 0#8 && aligned 2 f.d.toNat
   | _ => f.b = 0#8)

/-- XWV (R463). -/
def xwvOk (f : RegF) : Bool :=
  predOk f.pred && f.la = 0#4 && f.ty = 0#3 && f.rnd = .rne && !f.sat && !f.sa && !f.sb && !f.sc && !f.u &&
  f.c = 0#8 && f.a.toNat < 64 && f.opx.toNat < 4 &&
  (match f.opx.toNat with
   | 0 => true
   | 1 => f.d.toNat < 12
   | _ => f.d = 0#8)

/-- The special registers of 64 bits (R449). -/
def srWide (n : Nat) : Bool :=
  n = 0x17 || n = 0x20 || n = 0x28 || n = 0x2A || (0x30 ≤ n && n ≤ 0x3F)

/-- The numbers that name a special register (R449). -/
def srListed (n : Nat) : Bool :=
  n ≤ 0x0C || (0x10 ≤ n && n ≤ 0x1A) || (0x20 ≤ n && n ≤ 0x24) || (0x28 ≤ n && n ≤ 0x2C) ||
  (0x30 ≤ n && n ≤ 0x81)

/-- The special registers SWR accepts (R449). -/
def srWritable (n : Nat) : Bool :=
  (0x10 ≤ n && n ≤ 0x13) || n = 0x22 || n = 0x23 || (0x30 ≤ n && n ≤ 0x3F) || (0x40 ≤ n && n ≤ 0x80)

/-- SRD (R448, R449). -/
def srdOk (f : RegF) : Bool :=
  predOk f.pred && f.la = 0#4 && f.ty = 0#3 && f.rnd = .rne && !f.sat && !f.sa && !f.sb && !f.sc &&
  f.opx = 0#3 && f.b = 0#8 && f.c = 0#8 && srListed f.a.toNat && (!f.u || f.d.toNat < 64) &&
  (!srWide f.a.toNat || aligned 2 f.d.toNat)

/-- SWR (R448, R449). A number with a dash is the meaning's to refuse, since a warm-up refuses it otherwise (R231). -/
def swrOk (f : RegF) : Bool :=
  predOk f.pred && f.la = 0#4 && f.ty = 0#3 && f.rnd = .rne && !f.sat && !f.sa && !f.sb && !f.sc && !f.u &&
  f.opx = 0#3 && f.b = 0#8 && f.c = 0#8 && srListed f.d.toNat && f.a.toNat < 64 &&
  (!srWide f.d.toNat || aligned 2 f.a.toNat)

/-! ### Memory words -/

/-- Bytes of a SIZE code (R333). -/
def sizeBytes (size : BitVec 3) : Nat :=
  match size.toNat with
  | 0 => 1
  | 1 => 2
  | 2 => 4
  | 3 => 8
  | 4 => 16
  | 5 => 1
  | 6 => 2
  | _ => 0

/-- Registers a value of a SIZE covers (R408). -/
def sizeRegs (size : BitVec 3) : Nat :=
  match size.toNat with
  | 3 => 2
  | 4 => 4
  | _ => 1

/-- ORD and SCOPE (R157, R333): the order is in the list, a marked access has at least 4 bytes. -/
def ordOk (ords : List Nat) (size ord scope : BitVec 3) : Bool :=
  ords.contains ord.toNat && scope.toNat ≤ 4 && (ord ≠ 0#3 || scope = 0#3) &&
  (ord = 0#3 || 4 ≤ sizeBytes size)

/-- The address register of a MEM or ATM word (R333, R335). -/
def addrOk (a : Byte) (sa wide : Bool) : Bool :=
  (!sa || a.toNat < 64) && (!wide || aligned 2 a.toNat)

/-- LD, LDS, ST, STS (R408, R452). -/
def accessOk (scratch : Bool) (sizes ords : List Nat) (f : MemF) : Bool :=
  predOk f.pred && sizes.contains f.size.toNat && ordOk ords f.size f.ord f.scope &&
  addrOk f.a f.sa f.wide && aligned (sizeRegs f.size) f.d.toNat && (!scratch || f.cap = 0#4) && f.opx = 0#2

def loadOk (scratch : Bool) (f : MemF) : Bool := accessOk scratch [0, 1, 2, 3, 4, 5, 6] [0, 1, 2] f
def storeOk (scratch : Bool) (f : MemF) : Bool :=
  f.la = 0#4 && accessOk scratch [0, 1, 2, 3, 4] [0, 1, 3] f

/-- LDU (R412). -/
def lduOk (f : MemF) : Bool :=
  accessOk false [0, 1, 2, 3, 5, 6] [0, 1, 2] f && f.sa && f.d.toNat < 64

/-- PREF (R429). -/
def prefOk (f : MemF) : Bool :=
  predOk f.pred && f.la = 0#4 && f.d = 0#8 && f.size = 0#3 && f.ord = 0#3 && f.scope = 0#3 &&
  f.opx.toNat < 2 && addrOk f.a f.sa f.wide

/-- LEA and LEA.S (R413). -/
def leaOk (scratch : Bool) (f : MemF) : Bool :=
  predOk f.pred && f.la = 0#4 && f.size.toNat < 7 && f.ord = 0#3 && f.scope = 0#3 && addrOk f.a f.sa f.wide &&
  (if scratch then f.opx = 1#2 && f.cap = 0#4 else f.opx = 0#2 && aligned 2 f.d.toNat)

/-- CLD in both forms (R365). -/
def cldOk (memory : Bool) (f : MemF) : Bool :=
  predOk f.pred && f.la = 0#4 && f.size = 4#3 && f.ord = 0#3 && f.scope = 0#3 && !f.sa && !f.wide &&
  f.d.toNat < 16 && f.a.toNat < 64 &&
  (if memory then f.opx = 1#2 else f.opx = 0#2 && f.cap = 0#4 && f.imm = 0#12)

/-- FENCE (R388). -/
def fenceOk (f : MemF) : Bool :=
  predOk f.pred && f.la = 0#4 && f.d = 0#8 && f.a = 0#8 && f.cap = 0#4 && f.imm = 0#12 && f.size = 0#3 &&
  !f.sa && !f.wide && f.opx = 0#2 && [2, 3, 4].contains f.ord.toNat && f.scope.toNat ≤ 4

/-- The sizes of each ATOM operation (R351). -/
def atomSizes (aop : BitVec 4) : List Nat :=
  match aop.toNat with
  | 8 => [2, 3, 4]
  | 9 => [2, 3, 4]
  | 10 => [2]
  | 11 => [2]
  | 12 => [2]
  | n => if n ≤ 7 then [2, 3] else []

/-- ATOM, ATOMS (R350 to R352). -/
def atomOk (scratch : Bool) (f : AtmF) : Bool :=
  predOk f.pred && (atomSizes f.aop).contains f.size.toNat && ordOk [1, 2, 3, 4] f.size f.ord f.scope &&
  addrOk f.a f.sa f.wide && (!scratch || f.cap = 0#4) && aligned (sizeRegs f.size) f.d.toNat &&
  aligned (if f.aop = 9#4 then 2 * sizeRegs f.size else sizeRegs f.size) f.b.toNat

/-- CNARROW (R366). -/
def cnarrowOk (f : CapnF) : Bool :=
  predOk f.pred && f.a.toNat < 64 && f.b.toNat < 64 && f.c.toNat < 64 && aligned 2 f.a.toNat && aligned 2 f.b.toNat

/-- The chain instructions but LCMP (R403). -/
def chnOk (opx wide : Bool) (f : ChnF) : Bool :=
  predOk f.pred && f.pc.toNat < 12 && (opx || !f.opx) && (!f.sa || f.a.toNat < 64) && (!f.sb || f.b.toNat < 64) &&
  (!wide || aligned 2 f.d.toNat)

/-- LCMP (R403): PD stands in the low half of D. -/
def lcmpOk (f : ChnF) : Bool := chnOk true false f && f.d.toNat < 12

/-! ### Extended words (R346) -/

def ldkOk (f : LdkF) : Bool :=
  predOk f.pred && f.size.toNat < 7 && addrOk f.a f.sa f.wide && aligned (sizeRegs f.size) f.d.toNat

def cqwxOk (f : CqwxF) : Bool := predOk f.pred && f.slot.toNat < 4

def tdescOk (f : TdescF) : Bool :=
  predOk f.pred && f.a.toNat ≤ 58 && aligned 2 f.a.toNat && !f.hi.getLsbD 15

def movixOk (f : MovixF) : Bool :=
  predOk f.pred && int3264.contains f.ty.toNat && (!f.u || f.d.toNat < 64) &&
  aligned (Wd.count .byTy .int f.ty) f.d.toNat &&
  (if f.ty = 2#3 then f.val = (f.val.truncate 32).signExtend 64
   else if f.ty = 6#3 then f.val.toNat < 2 ^ 32 else true)

/-! ### Pair words (R341 to R343) -/

/-- The classes of half-opcodes (R342). -/
inductive HalfClass where
  | integer
  | logical
  | float
  | special
deriving DecidableEq, Repr

/-- The class of a half-opcode; none where it is unassigned (R342). -/
def hopClass (hop : Nat) : Option HalfClass :=
  if 1 ≤ hop && hop ≤ 5 then some .integer
  else if 6 ≤ hop && hop ≤ 0x0A then some .logical
  else if 0x0B ≤ hop && hop ≤ 0x0F then some .integer
  else if 0x10 ≤ hop && hop ≤ 0x13 then some .float
  else if 0x18 ≤ hop && hop ≤ 0x1B then some .special
  else none

/-- Whether the half reads D (R342). -/
def hopReadsD (hop : Nat) : Bool :=
  (1 ≤ hop && hop ≤ 8) || (0x0B ≤ hop && hop ≤ 0x13)

def halfSS (h : HalfF) : Bool := h.hmod.getLsbD 2
def halfTy (h : HalfF) : BitVec 3 := h.hmod.extractLsb' 3 3

/-- Fields of a half that 0x04 FIELD_RESERVED judges (R342). A half acts exactly as its single
word, so IMIN and IMAX accept no SAT and FMIN and FMAX no RND. -/
def halfFieldsOk (h : HalfF) : Bool :=
  let hop := h.hop.toNat
  let lo := h.hmod.toNat % 4
  let hi := (halfTy h).toNat
  (!halfSS h || h.s.toNat < 64) &&
  (if 1 ≤ hop && hop ≤ 3 then lo % 2 = 0
   else if hop = 4 || hop = 5 then lo = 0
   else if 6 ≤ hop && hop ≤ 0x0A then hi = 0 && lo = 0
   else if 0x0B ≤ hop && hop ≤ 0x0E then lo = 0
   else if hop = 0x0F then hi ≠ 7 && lo = 0
   else if hop = 0x10 || hop = 0x11 then hi ≠ 7
   else if hop = 0x12 || hop = 0x13 then hi ≠ 7 && lo = 0
   else if hop = 0x18 then hi % 2 = 0
   else hi = 0 && lo = 0)

/-- The V registers a half reads (R343). -/
def halfReads (h : HalfF) : List Nat :=
  (if hopReadsD h.hop.toNat then [h.d.toNat] else []) ++ (if halfSS h then [] else [h.s.toNat])

/-- The type rules of one half (R343). -/
def halfTypeOk (h : HalfF) : Bool :=
  match hopClass h.hop.toNat with
  | some .integer => h.hop = 0x0F#6 || !(halfTy h = 3#3 || halfTy h = 7#3)
  | some .float => [0, 2, 3, 7].contains (halfTy h).toNat
  | _ => true

/-- At most two of the distinct registers read stand in each bank (R343). -/
def banksOk (reads : List Nat) : Bool :=
  (List.range 4).all fun k => ((reads.eraseDups).filter (fun v => v % 4 = k)).length ≤ 2

/-- The rules of composition (R343). -/
def pairRulesOk (h0 h1 : HalfF) : Bool :=
  !(hopClass h0.hop.toNat = some .special && hopClass h1.hop.toNat = some .special) &&
  h0.d ≠ h1.d && halfTypeOk h0 && halfTypeOk h1 && banksOk (halfReads h0 ++ halfReads h1)

def pairHopsOk (h0 h1 : HalfF) : Bool :=
  (hopClass h0.hop.toNat).isSome && (hopClass h1.hop.toNat).isSome

/-! ### Every instruction -/

/-- The static checks of an instruction: no 0x02, 0x03, 0x04 or 0x05 arises from its encoding alone.
Events carry no encoding and are always accepted. -/
def fieldsOk (i : Instr) : Bool :=
  match i with
  | .pairWord h0 h1 => pairHopsOk h0 h1 && pairRulesOk h0 h1 && halfFieldsOk h0 && halfFieldsOk h1
  | .iadd f => regOk shAdd f
  | .isub f => regOk shAdd f
  | .iabs f => regOk shAbs f
  | .imin f => regOk shMinMax f
  | .imax f => regOk shMinMax f
  | .iaddc f => regOk shAddc f
  | .imul f => regOk shAdd f
  | .imulhi f => regOk shMulhi f
  | .imad f => regOk shMad f
  | .iaddImm f => immOk false f
  | .iaddImmUniform f => immOk true f
  | .iminImm f => immOk false f
  | .iminImmUniform f => immOk true f
  | .imaxImm f => immOk false f
  | .imaxImmUniform f => immOk true f
  | .imulImm f => immOk false f
  | .imulImmUniform f => immOk true f
  | .andImm f => immOk false f
  | .andImmUniform f => immOk true f
  | .orImm f => immOk false f
  | .orImmUniform f => immOk true f
  | .xorImm f => immOk false f
  | .xorImmUniform f => immOk true f
  | .shlImm f => immShiftOk false f
  | .shlImmUniform f => immShiftOk true f
  | .shrImm f => immShiftOk false f
  | .shrImmUniform f => immShiftOk true f
  | .sarImm f => immShiftOk false f
  | .sarImmUniform f => immShiftOk true f
  | .rotlImm f => immShiftOk false f
  | .rotlImmUniform f => immShiftOk true f
  | .movi f => immOk false f && f.a = 0#8
  | .moviUniform f => immOk true f && f.a = 0#8
  | .moviExt f => movixOk f
  | .icmp f => cmpOk shIcmp ccInt f
  | .icmpImm f => cmpiOk false f
  | .icmpImmUniform f => cmpiOk true f
  | .idot4 f => regOk shDot f
  | .qdot4 f => regOk shDot f
  | .and f => regOk shLogic f
  | .or f => regOk shLogic f
  | .xor f => regOk shLogic f
  | .not f => regOk shNot f
  | .shl f => regOk shShift f
  | .shr f => regOk shShift f
  | .sar f => regOk shShift f
  | .rotl f => regOk shShift f
  | .bfx f => regOk shBf f
  | .bfi f => regOk shBf f
  | .brev f => regOk shBrev f
  | .clz f => regOk shClz f
  | .popc f => regOk shClz f
  | .sel f => regOk shSel f
  | .mov f => regOk shNot f
  | .fadd f => regOk shFadd f
  | .fsub f => regOk shFadd f
  | .fmul f => regOk shFadd f
  | .ffma f => regOk shFfma f
  | .fmin f => regOk shFmin f
  | .fmax f => regOk shFmin f
  | .fcmp f => cmpOk shFcmp ccFloat f
  | .fdiv f => regOk shFdiv f
  | .fsqrt f => regOk shFsqrt f
  | .frcp f => regOk shFsfu f
  | .frsq f => regOk shFsfu f
  | .fexp2 f => regOk shFsfu f
  | .flog2 f => regOk shFsfu f
  | .vfma2 f => regOk shVfma2 f
  | .dadd f => regOk shDadd f
  | .dmul f => regOk shDmul f
  | .dfma f => regOk shDfma f
  | .cvt f => cvtOk f
  | .sladd f => regOk shSladd f
  | .slmul f => regOk shSlmul f
  | .slrcp f => regOk shSlrcp f
  | .slcmp f => cmpOk shSlcmp ccFloat f
  | .slcvt f => slcvtOk f
  | .ld f => loadOk false f
  | .lds f => loadOk true f
  | .ldu f => lduOk f
  | .ldk f => ldkOk f
  | .st f => storeOk false f
  | .sts f => storeOk true f
  | .atom f => atomOk false f
  | .atoms f => atomOk true f
  | .pref f => prefOk f
  | .lea f => leaOk false f
  | .leaS f => leaOk true f
  | .cld f => cldOk false f
  | .cldMemory f => cldOk true f
  | .cnarrow f => cnarrowOk f
  | .fence f => fenceOk f
  | .facqF f => regOk (shFacq 0) f
  | .facqE f => regOk (shFacq 1) f
  | .frelF f => regOk (shFrel 0) f
  | .frelE f => regOk (shFrel 1) f
  | .bankmode f => regOk shBankmode f
  | .bankmodeQ f => regOk shBankmodeQ f
  | .pgpin f => regOk shPgpin f
  | .pgunpin f => regOk shPgpin f
  | .shfl f => regOk shShfl f
  | .vote f => voteOk f
  | .redux f => reduxOk f
  | .lbind f => immBareOk f
  | .lunbind f => predOk f.pred
  | .ladd f => chnOk true false f
  | .lsub f => chnOk true false f
  | .lshl f => chnOk false false f
  | .lshr f => chnOk true false f
  | .lcmp f => lcmpOk f
  | .lmac f => chnOk true true f
  | .nop f => predOk f.pred
  | .bra f => predOk f.pred
  | .brx f => regOk shBrx f
  | .call f => predOk f.pred
  | .ret f => predOk f.pred
  | .exit f => immBareOk f
  | .reconv f => predOk f.pred
  | .yield f => predOk f.pred
  | .yieldPoint f => predOk f.pred
  | .bar f => immBareOk f && f.imm.toNat < 16
  | .bara f => immBareOk f && f.imm.toNat < 16
  | .barw f => immBareOk f && f.imm.toNat < 16
  | .rbar f => predOk f.pred
  | .fork f =>
    predOk f.pred && f.la = 0#4 && f.d = 0#8 && f.imm.toNat ≤ 8 && f.a.toNat < 64 &&
    f.a.toNat + f.imm.toNat ≤ 64 && (f.imm ≠ 0#29 || f.a = 0#8)
  | .rdv f => immBareOk f && f.imm.toNat < 256
  | .fretRetry f => predOk f.pred
  | .fretSkip f => predOk f.pred
  | .fkill f => predOk f.pred
  | .xrv f => xrvOk f
  | .xwv f => xwvOk f
  | .cqw f => regOk shCqw f
  | .cqwExt f => cqwxOk f
  | .cqgo f =>
    immBareOk f && f.imm.toNat < 512 && (f.imm.getLsbD 4 || f.imm.toNat < 16)
  | .cwait f => regOk shCwait f
  | .gset f => predOk f.pred && f.la = 0#4 && f.d = 0#8 && f.a.toNat < 64 && f.imm.toNat < 3
  | .qfence f => immBareOk f && f.imm.toNat < 2048
  | .mzero f => regOk shMzero f
  | .mlda f => regOk shMlda f
  | .mma f => regOk shMma f
  | .mstore f => regOk shMstore f
  | .mcommit f => regOk shMcommit f
  | .mwait f => predOk f.pred && f.d = 0#8 && f.a = 0#8
  | .tdesc f => tdescOk f
  | .tinv f => regOk shTinv f
  | .srd f => srdOk f
  | .swr f => swrOk f
  | .trap f => predOk f.pred
  | .bkpt f => predOk f.pred
  | .boost f => regOk (shBoost 0) f
  | .boostSpare f => regOk (shBoost 1) f
  | .therm f => regOk shTherm f
  | .wrd f => regOk shWrd f
  | .deviceReset => true
  | .vxStart _ _ => true
  | .vxDoorbell _ _ => true
  | .clearQuar _ _ => true
  | .queueReset _ _ => true
  | .queueResetReport _ => true
  | .ctxCreate _ => true
  | .ctxEnd _ => true
  | .qCreate _ => true
  | .qDestroy _ => true
  | .frameAssign _ => true
  | .frameRelease _ => true
  | .frameScrub _ => true
  | .capSet _ => true
  | .tlbInval _ => true
  | .cgrpSet _ => true
  | .hostCommandDone _ => true
  | .fctlRetry _ _ => true
  | .fctlSkip _ _ => true
  | .fctlKill _ _ => true
  | .hostTeardown _ _ => true
  | .vxDbgctl _ _ => true
  | .vxLife _ _ => true
  | .vxSched _ _ => true
  | .vxDomain _ _ => true
  | .vxFlog _ _ => true
  | .registerWrite _ _ _ => true
  | .bar2Access _ _ _ _ _ => true
  | .lockInterface _ => true
  | .startInterface _ => true
  | .stopInterface _ => true
  | .linkSecurityError _ => true
  | .getCertificate _ => true
  | .challenge _ _ => true
  | .keyExchange _ _ => true
  | .getMeasurements _ _ _ => true
  | .batchValidation _ => true
  | .meetDispatch _ => true
  | .launch _ => true
  | .wait _ => true
  | .signal _ _ => true
  | .copy _ _ => true
  | .copyDone _ _ => true
  | .relayPlacement _ _ => true
  | .relayRetirement _ => true
  | .concurrencyLost _ => true
  | .sliceExpiry _ _ => true
  | .preemption _ _ => true
  | .yieldDeadline _ _ => true
  | .migration _ _ => true
  | .rotationSlotEnd _ => true
  | .rotationScanDone _ _ => true
  | .tileArrayScan _ _ => true
  | .wearIntegration _ _ _ _ _ => true
  | .boostLevelReached _ => true
  | .boostGrantEnd _ => true
  | .sensorSample _ _ => true
  | .translationWalkDone _ => true
  | .fragmentReplay _ _ => true
  | .scratchRefill _ _ => true
  | .storageError _ => true
  | .longLatencyCompletion _ _ => true
  | .handlerEntry _ => true
  | .copyEngineTransfer _ _ => true
  | .commandCompletion _ _ => true
  | .collectiveRun _ _ => true
  | .matrixEntryBegin _ => true
  | .matrixEntryComplete _ _ => true
  | .powerLoss _ _ _ => true
  | .supplyDroop _ _ => true
  | .mappingDeclined _ => true
  | .bankmodeTransitionDone _ _ => true
  | .zeroingComplete _ => true
  | .accessPerformed _ => true
  | .dataVerified _ => true
  | .peerUnreachable _ => true
  | .cacheSectorEviction _ => true
  | .peerDeviceAccess _ => true

end Sys2Proof.Machine
end

