-- ==== Sys2Proof/Machine/Map.lean ====
section
/-! DEFINITION. Sparse maps in one canonical form (keys strictly rising), bit lists, and the
field packing that the encodings, registers and memory records are written with. -/

namespace Sys2Proof.Machine

/-! ### Sparse maps -/

/-- The entry at key `k`. -/
def find {α : Type} : AMap α → Nat → Option α
  | [], _ => none
  | (j, x) :: m, k => if k = j then some x else find m k

/-- Insert or replace the entry at key `k`, keeping the keys rising. -/
def put {α : Type} : AMap α → Nat → α → AMap α
  | [], k, a => [(k, a)]
  | (j, x) :: m, k, a =>
    if k = j then (k, a) :: m else if k < j then (k, a) :: (j, x) :: m else (j, x) :: put m k a

/-- Remove the entry at key `k`. -/
def del {α : Type} (m : AMap α) (k : Nat) : AMap α := m.filter (fun e => e.1 ≠ k)

/-- The entry at `k`, or the value an unlisted key stands for. -/
def getD {α : Type} (d : α) (m : AMap α) (k : Nat) : α := (find m k).getD d

/-- Write `a` at `k`; an entry equal to the unlisted value is not listed. -/
def setD {α : Type} [DecidableEq α] (d : α) (m : AMap α) (k : Nat) (a : α) : AMap α :=
  if a = d then del m k else put m k a

/-- Change the entry at `k`, where there is one. -/
def modify {α : Type} (m : AMap α) (k : Nat) (f : α → α) : AMap α :=
  match find m k with
  | some x => put m k (f x)
  | none => m

/-- The entries of one map written over another. -/
def layOver {α : Type} (n m : AMap α) : AMap α := n.foldl (fun m e => put m e.1 e.2) m

/-- The entries of `new` that differ from what `old` holds. -/
def changed {α : Type} [DecidableEq α] (d : α) (old new : AMap α) : AMap α := new.filter fun e => getD d old e.1 ≠ e.2

/-- Keys strictly rising, every key at least `lo`. -/
def rising {α : Type} : Nat → AMap α → Bool
  | _, [] => true
  | lo, (j, _) :: m => decide (lo ≤ j) && rising (j + 1) m

/-! ### Bit fields as numbers, least significant field first -/

/-- Pack (width, value) fields, the first in the lowest bits. -/
def pack : List (Nat × Nat) → Nat
  | [] => 0
  | (w, v) :: fs => v + 2 ^ w * pack fs

/-- Split a number into fields of the given widths, the first from the lowest bits. -/
def unpack : List Nat → Nat → List Nat
  | [], _ => []
  | w :: ws, n => n % 2 ^ w :: unpack ws (n / 2 ^ w)

/-- Bits [hi:lo] of a number. -/
def bits (n hi lo : Nat) : Nat := n / 2 ^ lo % 2 ^ (hi + 1 - lo)

/-- Bit `i` of a number. -/
def bit (n i : Nat) : Bool := n.testBit i

def boolBit (b : Bool) : Nat := if b then 1 else 0

/-! ### Lane sets -/

/-- The lanes of a heat. -/
def laneIds : List Nat := List.range 32

/-- The lanes of a set, ascending. -/
def lanesOf (m : LaneSet) : List Nat := laneIds.filter (fun i => m.getLsbD i)

/-- The set of the lanes that satisfy `p`. -/
def laneSet (p : Nat → Bool) : LaneSet :=
  laneIds.foldl (fun m i => if p i then m ||| (1#32 <<< i) else m) 0#32

/-- The lowest lane of a set. -/
def lowest (m : LaneSet) : Option Nat := (lanesOf m).head?

/-- Sign extension of the low `w` bits of a number. -/
def signed (w n : Nat) : Int :=
  let x := n % 2 ^ w
  if 2 ^ (w - 1) ≤ x then (x : Int) - (2 ^ w : Nat) else x

/-- The residue of an integer modulo 2^w. -/
def wrap (w : Nat) (z : Int) : Nat := (z % ((2 ^ w : Nat) : Int)).toNat

end Sys2Proof.Machine
end

