-- ==== Sys2Proof/Machine/State.lean ====
section
/-! DEFINITION. The state of the machine: plain data holding every piece of state the spec names
(INVENTORY.md lists each with its rule and reset value), the faults and refusals, and reset. -/

namespace Sys2Proof.Machine

/-- Why a step stops. -/
inductive Fault where
  /-- An instruction is executed while no unit is in focus or the focused unit does not exist.
  Raised by every program word's meaning through `Ops.withUnit`; `step` never raises it, because it sets
  the focus before it executes. Safe: the machine stops where the hardware has no such situation. -/
  | noIssuer
deriving DecidableEq, Repr

/-- Why an instruction has no meaning. -/
inductive Refusal where
  /-- The named instruction has no meaning yet. Raised by refused arms of `exec` only. Safe. -/
  | notModelled (mnemonic : String)
deriving DecidableEq, Repr

/-! ### Registers -/

/-- Poison (R260), and data forwarded before its verification ended (R261), with the reads it comes from. -/
inductive Taint where
  | clean
  | unverified (reads : List Nat)
  | poisoned
deriving DecidableEq, Repr

/-- A 32-bit register of a lane or a unit with its poison bit (R5, R260). -/
structure Reg where
  val : Word32
  taint : Taint
deriving DecidableEq, Repr

/-- A predicate with its poison bit (R260). -/
structure PBit where
  val : Bool
  taint : Taint
deriving DecidableEq, Repr

/-- A command slot with its poison bit (R199, R260). -/
structure KSlot where
  val : Word64
  taint : Taint
deriving DecidableEq, Repr

/-- A capability: 128 bits and a tag held apart (R124). -/
structure Cap where
  data : BitVec 128
  tag : Bool
deriving DecidableEq, Repr

/-! ### Lanes -/

/-- LSTATE (R56). -/
inductive LState where
  | running
  | parked
  | exited
  | deferred
deriving DecidableEq, Repr

/-- What a held lane waits for (R57). -/
inductive Hold where
  | bar (n : Nat)
  | barw (n : Nat)
  | rbar
  | reconv
  /-- `issued` is the issuing set of the word, executing or not (R62, R80) -/
  | lunbind (issued : LaneSet)
  | rdv (tag : Nat)
  /-- `lead` is the lowest lane of the word, which tells one FACQ from another; `t` is the poison of its predicate -/
  | facq (filled : Bool) (bank : Nat) (d : Nat) (lead : Nat) (t : Taint)
  | cwait (counter : Nat) (target : Nat) (lead : Nat)
  | mwait (n : Nat)
  | mcommit (d : Nat) (t : Taint)
  | yieldPoint
  /-- the word has issued in the window of an open CWAIT or MWAIT; it executes when that has completed (R86) -/
  | window
deriving DecidableEq, Repr

/-- One lane (R42, R56, R57, R71, R248, R357, R363). -/
structure Lane where
  lpc : Word32
  ls : LState
  v : AMap Reg
  p : AMap PBit
  /-- the return stack, newest first -/
  stack : List Word32
  held : Option Hold
  arrived : BitVec 16
  arrivedR : Bool
  /-- the fragment the lane belongs to -/
  frag : Option Nat
  /-- the lane's own cause (LCAUSE) -/
  own : BitVec 7
  fva : BitVec 57
deriving DecidableEq, Repr

/-! ### Units that issue words -/

/-- Where an access goes: a physical address with its page's attribute, or a scratch or FIFO-window offset. -/
inductive Loc where
  | dev (pa : Nat) (attr : BitVec 2)
  | scr (off : Nat)
deriving DecidableEq, Repr

/-- What kind of access is made: marked or not, its orders and scope (R157). -/
structure Order where
  marked : Bool
  acq : Bool
  rel : Bool
  scope : Nat
deriving DecidableEq, Repr

/-- What a word finds of its unit: the lanes and the scalar registers. -/
structure View where
  lanes : AMap Lane
  s : AMap Reg
  c : AMap Cap
  k : AMap KSlot
  kset : Bool
deriving DecidableEq, Repr

/-- What a word of the window of a CWAIT or MWAIT will do once that has completed (R86). -/
inductive Late where
  /-- a store of a lane: where, how many bytes, their value, its order, the lane as the word found it, the address that a
  fault of it reports, and the handler it is of -/
  | store (lane : Nat) (l : Loc) (n v : Nat) (o : Order) (was : Lane) (fva : Nat) (handler : Option Nat)
  /-- an arrival at barrier n of lanes that have gone on (BARA) -/
  | arrive (n : Nat) (lanes : LaneSet)
  /-- a word with the unit as it found it; `stays`: its lanes have not gone on, but wait at it; the handler it is of -/
  | word (i : Instr) (lanes : LaneSet) (view : View) (stays : Bool) (handler : Option Nat)
deriving DecidableEq, Repr

/-- What window words have written of the unit's scalar registers (R86). -/
structure Over where
  s : AMap Reg
  c : AMap Cap
  k : AMap KSlot
  kset : Bool
deriving DecidableEq, Repr

/-- What kind of long-latency instruction is outstanding. -/
inductive OpKind where
  | plain
  | cwait (counter : Nat) (target : Nat)
  | mwait (n : Nat)
deriving DecidableEq, Repr

/-- The register results of one lane. -/
structure LaneWrite where
  lane : Nat
  v : List (Nat × Reg)
  p : List (Nat × PBit)
deriving DecidableEq, Repr

/-- A long-latency instruction outstanding, with the window places left (R84 to R86). -/
structure LongOp where
  kind : OpKind
  lpc : Word32
  lanes : LaneSet
  left : Nat
  writes : List LaneWrite
  swrites : List (Nat × Reg)
  fpf : BitVec 5
  slf : BitVec 4
  /-- of a CWAIT or MWAIT: the lanes as they stood at the instruction, for a discard under R86 -/
  save : AMap Lane
  /-- what the words of its window have written of the scalar registers -/
  laid : Over
  /-- what they will do outside the unit's registers, in order -/
  late : List Late
  /-- the entries they have placed in queue 10 (R417) -/
  placed : Nat
  /-- the handler whose instruction it is -/
  handler : Option Nat
deriving DecidableEq, Repr

/-- Where a fragment stands (R72 to R75, R86, R250). -/
inductive FragPhase where
  /-- awaits its pages (REPLAY) or the handler -/
  | waiting
  /-- its elected lane runs the handler at `pc` -/
  | handler (pc : Word32) (lane : Nat)
  /-- escalated to the front end -/
  | escalated
  /-- a window instruction of one of its lanes is still open (R86) -/
  | blocked
deriving DecidableEq, Repr

/-- A fragment entry (R69 to R71). -/
structure Frag where
  gen : BitVec 4
  bound : Bool
  replay : Bool
  fcause : BitVec 7
  phase : FragPhase
  /-- allocation order (R74) -/
  order : Nat
  /-- the lanes that are in it for a replayable miss (R72) -/
  misses : LaneSet
deriving DecidableEq, Repr

/-- Keys of the race table (R175): an agent number, or a group of agents. -/
inductive RaceKey where
  | agent (a : Nat)
  | squad (relay : Nat) (squad : Nat)
  | relay (relay : Nat)
deriving DecidableEq, Repr

/-- An entry of the race table: settled and pending counts, 0 standing for none (R175). -/
structure RaceEntry where
  key : RaceKey
  n : Nat
  p : Nat
deriving DecidableEq, Repr

/-- The race state of an agent (R175, R178). -/
structure RaceTable where
  count : Nat
  entries : List RaceEntry
  ovf : Bool
  wv : Bool
  wagent : BitVec 24
  /-- the scope of the agent's latest release (RSCOPE of its writes, R174) -/
  rscope : Nat
  /-- barrier groups to be added at the next BARW or BAR (R175, step 4): barrier number and entry -/
  deferred : List (Nat × RaceEntry)
deriving DecidableEq, Repr

/-- The bytes of a sector that the recorded writer's accesses of one kind have written at its count: MARKED, and of
marked ones the scope ASCOPE (R174). -/
structure RacePart where
  mask : BitVec 32
  marked : Bool
  ascope : Nat
deriving DecidableEq, Repr

/-- An earlier writer of a sector whose marked writes of some of its bytes only marked writes have followed, and what an
acquirer of those bytes takes of it: its release synchronises with that acquire too (R164, R179). -/
structure RaceLink where
  agent : Nat
  mask : BitVec 32
  rscope : Nat
  gives : List RaceEntry
deriving DecidableEq, Repr

/-- A write record (R174); AGENT NONE is `none`. MASK is the union of the masks of the parts. R175, step 2, does not say
whose MARKED and ASCOPE stay when the same agent writes again at the same count: DESIGN CHOICE (log, entry 8), each part
keeps its own, which no race-free program and no race can tell from R179 and R180. -/
structure RaceRec where
  agent : Option Nat
  count : Nat
  epoch : Nat
  parts : List RacePart
  rscope : Nat
  /-- the writers before the recorded one, as R164 counts them -/
  chain : List RaceLink
deriving DecidableEq, Repr

/-- Why a unit issues nothing more (R255, R263). -/
inductive Stop where
  | none
  | debug
  | lost
deriving DecidableEq, Repr

/-- What a unit waits for before it issues its next word (R141, R143, R427). -/
inductive Wait where
  | none
  | bank (b : Nat)
  | page (n : Nat)
  /-- a PGPIN is held until its `count` pages from `first` are resident -/
  | pins (first count : Nat)
  /-- a FENCE that the lanes have executed has not completed (R389) -/
  | fence (rel acq : Bool) (scope : Nat) (lanes : LaneSet)
deriving DecidableEq, Repr

/-- A unit that issues words: a heat, a pacer, or a warm-up (R5, R42, R199). -/
structure Strand where
  lanes : AMap Lane
  s : AMap Reg
  c : AMap Cap
  k : AMap KSlot
  kset : Bool
  fpf : BitVec 5
  fpe : BitVec 7
  slf : BitVec 4
  g : BitVec 3
  ovfe : Bool
  streak : Nat
  nextMode : Bool
  group : LaneSet
  /-- words issued since a barrier (R91) -/
  count : Nat
  ops : List LongOp
  /-- what window words have still to do, their CWAIT or MWAIT having completed (R86) -/
  due : List Late
  frags : AMap Frag
  nextOrder : Nat
  race : RaceTable
  /-- for each barrier a lane has arrived at, the settled entries that the latest arrival found; RBAR is number 16 -/
  arrivals : AMap (List RaceEntry)
  /-- accesses issued and not yet performed for every agent (R389) -/
  inflight : Nat
  stopped : Stop
  waiting : Wait
  /-- the lanes of a single-stepped word that has been carried out and still waits to complete (R254) -/
  stepped : LaneSet
deriving DecidableEq, Repr

/-! ### Banks, scratch, engines -/

/-- Bank modes (R140). -/
inductive BankMode where
  | cache
  | scratch
  | fifo
deriving DecidableEq, Repr

/-- One bank of a relay (R139 to R141, R148, R149). -/
structure Bank where
  mode : BankMode
  slot : Nat
  free : Nat
  filled : Nat
  prod : Nat
  cons : Nat
  /-- slots acquired at the producer end and not yet published, oldest first; the engine queue that holds it, if any -/
  heldP : List Nat
  heldC : List Nat
  /-- filled slots returned to the head of the consumer order (R195, R196) -/
  again : List Nat
  /-- swizzle records of the slots -/
  swz : AMap Nat
  /-- the race entries that the acquirer of a slot takes from its last publisher or consumer (R171, R179) -/
  hand : AMap (List RaceEntry)
  /-- a mode transition is still running -/
  busy : Bool
deriving DecidableEq, Repr

/-- A scratch page (R142 to R146, R190). -/
structure Page where
  resident : Bool
  dirty : Bool
  pinned : Bool
  /-- the page frame it occupies while resident: bank × 32 + frame -/
  frame : Nat
  last : Nat
  swz : Nat
deriving DecidableEq, Repr

inductive Guard where
  | unresolved
  | yes
  | no
deriving DecidableEq, Repr

/-- A tensor table entry and the capability captured beside it (R186). -/
structure Tensor where
  bits : BitVec 256
  cap : Cap
deriving DecidableEq, Repr

/-- One side of a command or matrix entry, captured (R188, R203). -/
inductive Place where
  | device (cap : Cap) (off : Nat)
  | scratch (off : Nat)
  | fifo (bank : Nat)
  | bstore (boff : Nat)
deriving DecidableEq, Repr

/-- A command of queues 0 to 9 with its captured slots (R200 to R203). -/
structure Command where
  src : Place
  dst : Place
  rows : Nat
  rowBytes : Nat
  sstride : Nat
  dstride : Nat
  /-- span codes of the source and of the destination (R189) -/
  sswz : Nat
  swz : Nat
  /-- scale regions of E2M1X tensor sides -/
  sscale : Option Nat
  dscale : Option Nat
  /-- the offset of a gather's index list -/
  idxOff : Nat
  cgrp : Nat
  cop : Nat
  cfmt : Nat
  ctrap : Bool
  cnt : Option Nat
  guard : Option Nat
  /-- the squad whose heat placed the command, none for the pacer's: it counts where the squad runs (R204, R237) -/
  squad : Option Nat
  /-- the definition of the collective group in force at placement (R298) -/
  group : List Nat
  /-- 16-byte units moved so far -/
  done : Nat
  /-- the source row being read: of a gather, the index read for it -/
  row : Nat
  /-- FIFO slots the command holds at each end, oldest first, and how many it has given back -/
  srcHeld : List Nat
  dstHeld : List Nat
  srcBack : Nat
  dstBack : Nat
  /-- of a collective: the bytes of its contribution read so far, and the result it has to write (R211) -/
  got : List Byte
  result : Option (List Byte)
  /-- what its guard said at the head, noted when the guard changes after that (R209) -/
  ruled : Option Bool
  /-- of a collective: the status of an abort that awaits its turn in the queue (R213) -/
  aborted : Option Nat
deriving DecidableEq, Repr

/-- An entry of an engine queue: a command, or the marker of a QFENCE (R433). -/
inductive QItem where
  | command (c : Command)
  | marker (id : Nat)
deriving DecidableEq, Repr

/-- An engine queue with the race table of its agent (R170, R175). -/
structure EngineQ where
  items : List QItem
  race : RaceTable
deriving DecidableEq, Repr

/-- What a matrix entry does (R191). -/
inductive MOp where
  | mzero (acc : Nat)
  | mlda (acc : Nat) (t : Tensor)
  | mma (acc : Nat) (a : Tensor) (b : Tensor) (k : Nat)
  | mstore (t : Tensor) (acc : Nat) (sat : Bool)
deriving DecidableEq, Repr

/-- A matrix entry: its group (none while open), position, replays, whether it is in the array, and the
FIFO slots it holds (R191 to R198). -/
structure MEntry where
  op : MOp
  group : Option Nat
  seq : Nat
  replays : Nat
  begun : Bool
  slots : List Nat
  /-- the slots that its failure returned (R195) -/
  back : List Nat
deriving DecidableEq, Repr

inductive MItem where
  | entry (e : MEntry)
  | marker (id : Nat)
deriving DecidableEq, Repr

/-- The pacer's state (R183). -/
inductive PacerState where
  | idle
  | running
  | atRdv
  | draining
deriving DecidableEq, Repr

/-- A squad of a relay (R27, R238, R240). -/
structure Squad where
  core : Nat
  coreL : Nat
  /-- the heat slot of each heat -/
  slots : List Nat
  expired : Option Nat
  yreq : Bool
  deadline : Bool
  evicting : Bool
deriving DecidableEq, Repr

/-- A region of device memory that the front end gives a relay: its scratch backing (R142) or its save area (R243). What
it holds stands in the relay's own fields. -/
structure Region where
  /-- the 64 KiB frames it lies in -/
  frames : List Nat
  attr : BitVec 2
  /-- the offset and the bytes of each part, each on a 4 KiB boundary -/
  parts : List (Nat × Nat)
  /-- it has been written since it was zeroed -/
  written : Bool
  /-- an uncorrectable error or an integrity failure stands in it (R244) -/
  bad : Bool
deriving DecidableEq, Repr

/-- A relay resident or evicted (R25, R37, R42). -/
structure Relay where
  field : Nat
  linear : Nat
  x : Nat
  y : Nat
  z : Nat
  lcluster : Nat
  /-- the physical cluster; none while evicted -/
  place : Option Nat
  squads : AMap Squad
  /-- heats, keyed squad × 32 + heat -/
  heats : AMap Strand
  pacer : Option Strand
  pacerState : PacerState
  guards : AMap Guard
  /-- what the last GSET of each guard released (R171) -/
  guardHand : AMap (List RaceEntry)
  counters : AMap Word64
  /-- what the commands that each counter has counted gave their waiters as they completed (R171, R175, step 5) -/
  counted : AMap (List RaceEntry)
  cqerr : Word32
  mretry : Word32
  mqerr : Word32
  /-- the pacer's fragment reports the failure recorded in SR.MQERR (R195) -/
  mqParked : Bool
  queues : AMap EngineQ
  mq : List MItem
  mqRace : RaceTable
  /-- the number of the last closed group (R198) -/
  groupNo : Nat
  /-- positions given to open entries so far -/
  openSeq : Nat
  /-- closed groups that are incomplete: number and entries left -/
  groups : AMap Nat
  /-- what queue 10 gave as the last of the complete groups completed (R172) -/
  groupHand : List RaceEntry
  banks : AMap Bank
  scratch : AMap Byte
  pages : AMap Page
  pageClock : Nat
  acc : AMap Word32
  bstore : AMap Byte
  rdvTag : Option Nat
  stopped : Bool
  /-- write records of scratch and FIFO sectors (R174) -/
  records : AMap RaceRec
  nextMarker : Nat
  /-- a unit of the cluster it stood on has crossed in this cycle (R291) -/
  crossed : Bool
  backing : Region
  save : Region
deriving DecidableEq, Repr

/-! ### Contexts, queues, meets, fields -/

/-- A context (R25, R126, R130, R186, R253, R298). -/
structure Ctx where
  port : Port
  root : Nat
  capRoot : Nat
  capN : Nat
  /-- the logical cluster map -/
  lmap : AMap Nat
  dbgEn : Bool
  stopHeat : Bool
  step : Bool
  tensors : AMap Tensor
  /-- participant lists of the collective groups -/
  cgrps : AMap (List Nat)
deriving DecidableEq, Repr

/-- A completion record still to be written: its packet's meet and index, its offset within PKCAP, and its 128-bit value
(R220, R480). -/
structure Owed where
  meet : Nat
  index : Nat
  off : Nat
  val : Nat
deriving DecidableEq, Repr

/-- A work queue (R214). -/
structure Queue where
  q0 : Word64
  q1 : Word64
  quar : Bool
  widx : Word32
  ridx : Word32
  cap : Cap
  /-- accepted meets not yet dispatched, in ring order -/
  pending : List Nat
  resetting : Bool
  resetDone : Bool
  /-- completion records still to be written, in order -/
  owed : List Owed
  /-- QUAR has been cleared in this cycle: a placement of the same cycle has the class before it (R241) -/
  cleared : Bool
deriving DecidableEq, Repr

/-- Units a field drew on (R257). -/
inductive UsedUnit where
  | core (p : Nat)
  | slice (i : Nat)
  | array (c : Nat)
deriving DecidableEq, Repr

/-- Why a field ended (R50, R51, R242). -/
inductive FieldEnd where
  | live
  | retired
  | lost
  | reset
deriving DecidableEq, Repr

/-- A field (R218, R229, R257). -/
structure Field where
  queue : Nat
  ctx : Nat
  meet : Nat
  packet : Nat
  tag : Nat
  mode : Nat
  nodet : Bool
  priv : Bool
  quar : Bool
  epoch : Nat
  /-- header quadwords H0 to H11 -/
  hdr : List Word64
  code : Nat
  params : List Reg
  capBase : Nat
  ncap : Nat
  dimX : Nat
  dimY : Nat
  dimZ : Nat
  compl : Nat
  /-- relays placed for the first time, in order of linear index -/
  placed : List Nat
  retired : Nat
  ended : FieldEnd
  /-- units drawn on, with the pass count at the last use -/
  used : List (UsedUnit × Nat)
  suspect : Bool
  /-- its state is lost: no relay of it runs or is placed any more (R263) -/
  stopped : Bool
deriving DecidableEq, Repr

/-- The state of a packet of a meet: `waiting` while an access of it waits for a page (R480). -/
inductive PState where
  | idle
  | armed
  | waiting
  | done
deriving DecidableEq, Repr

/-- An accepted batch (R222 to R228). -/
structure Meet where
  queue : Nat
  /-- each packet as one number of 512 bits -/
  packets : List Nat
  /-- what validation read for each LAUNCH: the field it gives (R223, R229) -/
  protos : AMap Field
  /-- INDEX of the first packet in the list: 1 in a batch opened by BEGIN -/
  grouped : Bool
  pos : Nat
  begun : Bool
  states : AMap PState
  fields : List Nat
  nfield : AMap Nat
  launchOpen : AMap Nat
  /-- the batch record's offset, 0 for none, its TAG and INDEX (R220) -/
  compl : Nat
  tag : Nat
  index : Nat
  recorded : Bool
  /-- of a LAUNCH that has come to an end and whose record is still to be written: its status, reason and cause (R220) -/
  fate : AMap (Nat × Nat × Nat)
  suspect : Bool
  /-- bytes copied so far by each COPY -/
  copied : AMap Nat
deriving DecidableEq, Repr

/-- A warm-up running on the front end's scalar sequencer (R230, R231). -/
structure Warm where
  strand : Strand
  /-- the field the launch would give, as the packet states it -/
  proto : Field
  start : Nat
  words : Nat
  wpar : AMap Word32
  wdimx : Nat
  wrep : Nat
deriving DecidableEq, Repr

/-! ### Memory, translation, ports -/

/-- Who owns a physical frame (R138, R297). -/
inductive Owner where
  | none
  | host (p : Port)
  | ctx (c : Nat)
  /-- the front end keeps it for a relay of the context: scratch backing or save area (R142, R243) -/
  | area (c : Nat)
deriving DecidableEq, Repr

/-- A 64 KiB frame's record (R138, R266). -/
structure Frame where
  owner : Owner
  attr : BitVec 2
  quarantined : Bool
  /-- its scrub met an uncorrectable error: it stays quarantined for good (R266) -/
  dead : Bool
deriving DecidableEq, Repr

/-- A cached translation (R133). -/
structure TlbEntry where
  ctx : Nat
  vbase : Nat
  size : Nat
  pa : Nat
  w : Bool
  cap : Bool
  attr : BitVec 2
deriving DecidableEq, Repr

/-- For whom a page is walked or asked for (R72, R206, R230, R421, R480). -/
inductive Asker where
  | fragment (u : UnitRef) (fid : Nat)
  | warm (q : Nat)
  | engine (relay : Nat) (queue : Nat)
  | front (queue : Nat)
  | place (relay : Nat)
deriving DecidableEq, Repr

/-- A translation walk or a page request put to the host (R133). -/
structure Walk where
  ctx : Nat
  va : Nat
  store : Bool
  who : Asker
  /-- waits for the host to map the page -/
  asked : Bool
  /-- the host has declined to map the page -/
  declined : Bool
deriving DecidableEq, Repr

/-- TDISP states (R300). -/
inductive Iface where
  | unlocked
  | locked
  | run
  | error
deriving DecidableEq, Repr

/-- What a fault log entry names (R251, R252). -/
structure LogRef where
  kind : Nat
  ctx : Nat
  unit : Option UnitRef
  fid : Nat
  gen : BitVec 4
deriving DecidableEq, Repr

/-- SPDM answers (R303). -/
inductive SpdmAnswer where
  | certificate (bytes : List Byte)
  | signature (text : List Byte) (sig : Nat)
  | session (id : Nat)
  | measurement (index : Nat) (bytes : List Byte) (sig : Nat)
  /-- the protocol's error response (R300) -/
  | error
deriving DecidableEq, Repr

/-- The registers and interface of one port (R250, R265, R295, R299, R300). -/
structure PortState where
  hcmd : AMap Word64
  done : Bool
  status : Byte
  /-- the host command performing has had its effect -/
  performed : Bool
  flog : Word64
  flogOvf : Bool
  flogW : Word32
  flogR : Word32
  log : AMap LogRef
  qstat : Word64
  tdstat : Word64
  placemap : Word64
  iface : Iface
  readData : List Byte
  spdm : List SpdmAnswer
  sessions : Nat
  /-- the function's configuration space and base address registers, as written (R301) -/
  config : AMap Word32
  bar0 : Word64
  bar2 : Word64
  /-- the interface report, as the lock found it (R301) -/
  report : List Byte
  /-- fault-log entries whose storage is still being zeroed: address and bits (R154) -/
  logOwed : List (Nat × Nat)
deriving DecidableEq, Repr

/-! ### Clusters and wear -/

inductive ClusterStatus where
  | active
  | spare
  | retired
deriving DecidableEq, Repr

/-- A boost grant (R283). -/
structure Grant where
  level : Nat
  /-- whole intervals granted -/
  left : Nat
  /-- the cycle counter when the level was reached -/
  since : Option Nat
  ctx : Nat
deriving DecidableEq, Repr

/-- A physical cluster (R15, R19, R268, R283, R286, R307). -/
structure Cluster where
  status : ClusterStatus
  mhz : Nat
  cyc : Word64
  grant : Option Grant
  coreT : AMap Int
  pacerT : Int
  arrayT : Int
  arrayPasses : Nat
  arrayPass : Nat
  tlb : List TlbEntry
  /-- a BOOST.SPARE of this cycle has exchanged it: a crossing now retires it (R291) -/
  exchanged : Bool
  /-- a BOOST has been decided here in this cycle, so no integration of the cycle is still to settle (R291) -/
  decided : Bool
deriving DecidableEq, Repr

/-- A physical core (R21, R71, R92, R133). -/
structure CoreState where
  gens : AMap (BitVec 4)
  tlb : List TlbEntry
  rr : Nat
  chosen : List Nat
  passes : Nat
deriving DecidableEq, Repr

/-- A cache slice (R21, R256). -/
structure Slice where
  present : Bool
  passes : Nat
deriving DecidableEq, Repr

/-- A rotation group (R21). -/
structure RotGroup where
  slices : Bool
  die : Nat
  members : List Nat
  current : Nat
  scanning : Bool
deriving DecidableEq, Repr

/-- One written copy of a wear record (R269, R270). -/
structure WearRec where
  bti : Nat
  hci : Nat
  em : Nat
  active : Nat
  rest : Nat
  since : Nat
  state : Nat
  mon : Nat
  check : Word32
  seq : Word32
deriving DecidableEq, Repr

/-- The two copies of a unit's record (R270). -/
structure WearPair where
  a : WearRec
  b : WearRec
deriving DecidableEq, Repr

/-- A die's sensors (R286, R287). -/
structure Die where
  stackT : AMap Int
  refx2 : AMap Bool
deriving DecidableEq, Repr

/-- The device's own registers and stores (R233, R278, R279, R304 to R311). -/
structure Device where
  startState : Nat
  startStep : Nat
  startFails : Nat
  startWarm : Bool
  startSkipped : Nat
  integ1 : Bool
  integ2 : Bool
  memKey : BitVec 512
  macKey : BitVec 256
  /-- the generation of the newest link key, none while no key is held (R305) -/
  linkGen : Option Nat
  rtres : Nat
  domain : Nat
  lifeh : Nat
  capwu : Nat
  bal : Int
  /-- the supply settings of the stored calibration, and the stack temperatures of the stored training where that is
  valid (R310) -/
  calib : Option Nat
  trained : Option (AMap Int)
  epoch : Nat
  /-- sensors of the cache slices and of the link macros (R271) -/
  sliceT : AMap Int
  linkT : AMap Int
  /-- page-table entries that an uncorrectable error has struck (R259) -/
  lostPte : List Nat
  /-- the queue that has the quarantine partition, or had it last (R225) -/
  quarTurn : Nat
deriving DecidableEq, Repr

/-! ### The machine -/

/-- Whose move is next: an event, one issue port of a core, a pacer, or a warm-up; or the end of a cycle of
a cluster's clock. The model's own list (see the log, entry 1). -/
inductive Turn where
  | event (i : Instr)
  | core (p : Nat)
  | cycleEnd (c : Nat)
  | pacer (relay : Nat)
  | warm (queue : Nat)
deriving DecidableEq, Repr

/-- The unit and the lanes whose word is being executed. -/
structure Focus where
  unit : UnitRef
  lanes : LaneSet
  /-- the fragment whose handler issues, in handler mode -/
  handler : Option Nat
deriving DecidableEq, Repr

/-- The whole machine. -/
structure State where
  dev : Device
  clusters : AMap Cluster
  cores : AMap CoreState
  slices : AMap Slice
  links : AMap Bool
  dies : AMap Die
  rot : AMap RotGroup
  wear : AMap WearPair
  mem : AMap Byte
  tags : AMap Bool
  frames : AMap Frame
  zeroing : List Nat
  records : AMap RaceRec
  walks : AMap Walk
  port0 : PortState
  port1 : PortState
  ctxs : AMap Ctx
  queues : AMap Queue
  meets : AMap Meet
  fields : AMap Field
  warms : AMap Warm
  relays : AMap Relay
  agenda : List Turn
  focus : Option Focus
  tick : Nat
  nextId : Nat
deriving DecidableEq, Repr

/-! ### Initial values -/

def regZero : Reg := ⟨0#32, .clean⟩
def pZero : PBit := ⟨false, .clean⟩
def kZero : KSlot := ⟨0#64, .clean⟩
def capNull : Cap := ⟨0#128, false⟩

/-- Nothing written. -/
def overNone : Over := ⟨[], [], [], false⟩

/-- The race state of a new agent (R175). DESIGN CHOICE, entry 96: RSCOPE is HEAT before its first release. -/
def raceInit : RaceTable := ⟨1, [], false, false, 0#24, 0, []⟩

/-- A write record that names nobody (R174). -/
def recNone : RaceRec := ⟨none, 0, 0, [], 0, []⟩

/-- A bank of a relay in cache mode, zeroed (R139, R154). -/
def bankInit : Bank := ⟨.cache, 0, 0, 0, 0, 0, [], [], [], [], [], false⟩

/-- A scratch page not resident (R42, R142). -/
def pageInit : Page := ⟨false, false, false, 0, 0, 0⟩

def frameInit : Frame := ⟨.none, 0#2, false, false⟩

/-- A region not allocated. -/
def regionNone : Region := ⟨[], 0#2, [], false, false⟩

/-- The clusters at first start: 24 and 25 of each die are cold spares (R15). -/
def clusterInit (c : Nat) : Cluster :=
  ⟨if c % 26 < 24 then .active else .spare, 2700, 0#64, none, [], 0, 0, 0, 0, [], false, false⟩

def coreInit : CoreState := ⟨[], [], 0, [], 0⟩
def sliceInit : Slice := ⟨true, 0⟩
def dieInit : Die := ⟨[], []⟩

/-- A new unit's wear record (R269); STATE is 1 in the units of a spare cluster. -/
def wearInit (spare : Bool) : WearRec := ⟨0, 0, 0, 0, 0, 0, if spare then 1 else 0, 0, 0#32, 0#32⟩

def portInit : PortState :=
  ⟨[], true, 0#8, false, 0#64, false, 0#32, 0#32, [], 0#64, 0#64, 0#64, .unlocked, [], [], 0, [], 0#64, 0#64, [], []⟩

def deviceInit : Device :=
  ⟨0, 0, 0, false, 0, false, false, 0#512, 0#256, none, 0, 0, 0, 0, 0, none, none, 0, [], [], [], 0⟩

/-- The machine right after power-on, waiting for VX_START (R309). -/
def State.reset : State :=
  { dev := deviceInit, clusters := [], cores := [], slices := [], links := [], dies := [], rot := [], wear := [],
    mem := [], tags := [], frames := [], zeroing := [], records := [], walks := [], port0 := portInit,
    port1 := portInit, ctxs := [], queues := [], meets := [], fields := [], warms := [], relays := [], agenda := [],
    focus := none, tick := 0, nextId := 0 }

end Sys2Proof.Machine
end

