-- ==== Sys2Proof/Machine/Flags.lean ====
section
/-! DEFINITION. The arithmetic flags and their traps (R99 to R101). -/

namespace Sys2Proof.Machine

/-- The bits of SR.FPF (R100). -/
def fIV : BitVec 5 := 1#5
def fDZ : BitVec 5 := 2#5
def fOF : BitVec 5 := 4#5
def fUF : BitVec 5 := 8#5
def fNX : BitVec 5 := 16#5

/-- The bits of SR.SLF (R100). -/
def slXUP : BitVec 4 := 1#4
def slXDN : BitVec 4 := 2#4
def slSAT : BitVec 4 := 4#4
def slNONCANON : BitVec 4 := 8#4

/-- The causes of the enabled exceptions among those raised (R101, R246). -/
def trapCauses (fpe : BitVec 7) (fpf : BitVec 5) (slf : BitVec 4) : List Nat :=
  ((List.range 5).filterMap fun i => if fpf.getLsbD i && fpe.getLsbD i then some (0x30 + i) else none) ++
  (if slf.getLsbD 2 && fpe.getLsbD 5 then [0x35] else []) ++
  (if slf.getLsbD 3 && fpe.getLsbD 6 then [0x36] else [])

end Sys2Proof.Machine
end

