-- ==== Sys2Proof/Config.lean ====
section
/-! DEFINITION. What the spec leaves to the device, its firmware or its surroundings: constants without
a body, so that no proof can see their values. Each is named in the assumption log. -/

namespace Sys2Proof.Config

/-- A free value: the machine applies it to its step counter and to a number that tells the uses apart. -/
opaque free : Nat → Nat → Word64

/-- The firmware's stress tables E[KIND][mechanism][supply index][temperature index] (R271). -/
opaque wearE : Nat → Nat → Nat → Nat → BitVec 16

/-- The firmware's thresholds of a kind: BTIMAX, HCIMAX, EMMAX by mechanism 0 to 2 (R275). -/
opaque wearMax : Nat → Nat → BitVec 48

/-- The firmware's MONMAX of a kind (R275). -/
opaque monMax : Nat → BitVec 16

/-- The firmware's supply index VB of a boost level that no rule gives (R282). -/
opaque vBoost : Nat → BitVec 4

/-- The measurement of a firmware or ROM image by its SPDM index (R303). -/
opaque image : Nat → List Byte

/-- The identity certificate chain of slot 0 (R303). -/
opaque certificate : List Byte

/-- The signature the identity key makes over a message; the second argument is the signer's nonce (R290, R303). -/
opaque sign : List Byte → Nat → BitVec 512

/-- SHA-256 over the firmware's wear tables (R290). -/
opaque wearMeasurement : List Byte

/-- The key pair the CTR_DRBG draws at a start (R304). -/
opaque drawMemKey : Nat → BitVec 512

/-- The MAC key the CTR_DRBG draws at a start (R304). -/
opaque drawMacKey : Nat → BitVec 256

/-- The latency of a crossing under a calibration: sender and receiver cycles less one, each 0 to 62 (R308). -/
opaque crossing : Nat → Nat → Fin 63 × Fin 63

end Sys2Proof.Config
end

