-- ==== Sys2Proof/Machine/Ops.lean ====
section
/-! DEFINITION. The named operations over the state: units, registers, header values, device memory,
translation, capabilities, the fault log, taking a fault and returning from one, and the commit of a word. -/

namespace Sys2Proof.Machine

/-! ### Units -/

/-- A lane that was never given to anybody: exited. -/
def laneDead : Lane := ⟨0#32, .exited, [], [], [], none, 0#16, false, none, 0#7, 0#57⟩

/-- Heat `h` of squad `q` in a relay's map of heats. -/
def heatKey (q h : Nat) : Nat := q * 32 + h

def unitRelay : UnitRef → Option Nat
  | .heat r _ _ => some r
  | .pacer r => some r
  | .warm _ => none

/-- The unit's state, where the unit exists. -/
def State.strand (s : State) (u : UnitRef) : Option Strand :=
  match u with
  | .heat r q h => (find s.relays r).bind fun rl => find rl.heats (heatKey q h)
  | .pacer r => (find s.relays r).bind fun rl => rl.pacer
  | .warm q => (find s.warms q).map fun w => w.strand

/-- Replace the unit's state. -/
def State.setStrand (s : State) (u : UnitRef) (x : Strand) : State :=
  match u with
  | .heat r q h =>
    { s with relays := modify s.relays r fun rl => { rl with heats := put rl.heats (heatKey q h) x } }
  | .pacer r => { s with relays := modify s.relays r fun rl => { rl with pacer := some x } }
  | .warm q => { s with warms := modify s.warms q fun w => { w with strand := x } }

def State.modStrand (s : State) (u : UnitRef) (f : Strand → Strand) : State :=
  match s.strand u with
  | some x => s.setStrand u (f x)
  | none => s

def State.modRelay (s : State) (r : Nat) (f : Relay → Relay) : State :=
  { s with relays := modify s.relays r f }

/-- The unit's relay. -/
def State.relayOf (s : State) (u : UnitRef) : Option Relay :=
  (unitRelay u).bind fun r => find s.relays r

/-- The unit's field; a warm-up's is the one its launch would give. -/
def State.fieldOf (s : State) (u : UnitRef) : Option Field :=
  match u with
  | .warm q => (find s.warms q).map fun w => w.proto
  | _ => (s.relayOf u).bind fun rl => find s.fields rl.field

def State.ctxOf (s : State) (u : UnitRef) : Option Ctx :=
  (s.fieldOf u).bind fun f => find s.ctxs f.ctx

/-- A field of a unit's launch, or the default where the unit has none. -/
def State.fieldD {α : Type} (s : State) (u : UnitRef) (d : α) (g : Field → α) : α :=
  match s.fieldOf u with
  | some f => g f
  | none => d

def isHeat : UnitRef → Bool
  | .heat _ _ _ => true
  | _ => false

def isPacer : UnitRef → Bool
  | .pacer _ => true
  | _ => false

def isWarm : UnitRef → Bool
  | .warm _ => true
  | _ => false

/-- The physical core the unit stands on; none for a pacer, a warm-up, or an evicted heat. -/
def State.coreOf (s : State) (u : UnitRef) : Option Nat :=
  match u with
  | .heat r q _ =>
    (find s.relays r).bind fun rl =>
      match rl.place with
      | some _ => (find rl.squads q).map fun sq => sq.core
      | none => none
  | _ => none

/-- The physical cluster the unit stands on. -/
def State.clusterOf (s : State) (u : UnitRef) : Option Nat := (s.relayOf u).bind fun rl => rl.place

def State.cluster (s : State) (c : Nat) : Cluster := (find s.clusters c).getD (clusterInit c)
def State.setCluster (s : State) (c : Nat) (x : Cluster) : State := { s with clusters := put s.clusters c x }
def State.core (s : State) (p : Nat) : CoreState := (find s.cores p).getD coreInit
def State.setCore (s : State) (p : Nat) (x : CoreState) : State := { s with cores := put s.cores p x }
def State.port (s : State) : Port → PortState
  | .p0 => s.port0
  | .p1 => s.port1
def State.setPort (s : State) (p : Port) (x : PortState) : State :=
  match p with
  | .p0 => { s with port0 := x }
  | .p1 => { s with port1 := x }
def State.modPort (s : State) (p : Port) (f : PortState → PortState) : State := s.setPort p (f (s.port p))

/-- Queue QID belongs to port QID[14] (R293). -/
def queuePort (q : Nat) : Port := if bit q 14 then .p1 else .p0

/-! ### Lanes and registers -/

def Strand.lane (x : Strand) (i : Nat) : Lane := (find x.lanes i).getD laneDead
def Strand.setLane (x : Strand) (i : Nat) (l : Lane) : Strand := { x with lanes := put x.lanes i l }

/-- Change the lanes of a set. -/
def Strand.mapLanes (x : Strand) (m : List Nat) (f : Nat → Lane → Lane) : Strand :=
  m.foldl (fun x i => x.setLane i (f i (x.lane i))) x

def Lane.reg (l : Lane) (n : Nat) : Reg := getD regZero l.v n
def Lane.setReg (l : Lane) (n : Nat) (r : Reg) : Lane := { l with v := put l.v n r }
def Lane.pred (l : Lane) (n : Nat) : PBit := getD pZero l.p n
def Lane.setPred (l : Lane) (n : Nat) (b : PBit) : Lane := { l with p := put l.p n b }
def Strand.sreg (x : Strand) (n : Nat) : Reg := getD regZero x.s n
def Strand.setSreg (x : Strand) (n : Nat) (r : Reg) : Strand := { x with s := put x.s n r }
def Strand.creg (x : Strand) (n : Nat) : Cap := getD capNull x.c n
def Strand.setCreg (x : Strand) (n : Nat) (c : Cap) : Strand := { x with c := put x.c n c }
def Strand.kslot (x : Strand) (n : Nat) : KSlot := getD kZero x.k n

/-- Poison joins: poisoned over unverified over clean (R260, R261); what is not verified yet keeps every read it
comes from. -/
def Taint.join : Taint → Taint → Taint
  | .poisoned, _ => .poisoned
  | _, .poisoned => .poisoned
  | .unverified a, .unverified b => .unverified (a ++ b.filter fun r => !a.contains r)
  | .unverified a, .clean => .unverified a
  | .clean, t => t

/-- Data whose verification has not ended. -/
def Taint.isUnverified : Taint → Bool
  | .unverified _ => true
  | _ => false

/-- A candidate runs and is not held (R58). -/
def Lane.candidate (l : Lane) : Bool := l.ls = .running && l.held.isNone

def Strand.candidates (x : Strand) : List Nat := laneIds.filter fun i => (x.lane i).candidate

/-! ### Code-object header (R324) -/

def hq (f : Field) (i : Nat) : Nat := (f.hdr.getD i 0#64).toNat
def hdrEntry (f : Field) : Nat := bits (hq f 1) 63 32
def hdrCodeW (f : Field) : Nat := bits (hq f 1) 31 0
def hdrPEntry (f : Field) : Nat := bits (hq f 2) 63 32
def hdrHandler (f : Field) : Nat := bits (hq f 2) 31 0
def hdrDataOff (f : Field) : Nat := bits (hq f 3) 63 32
def hdrPHandler (f : Field) : Nat := bits (hq f 3) 31 0
def hdrCaps (f : Field) : Nat := bits (hq f 4) 60 56
def hdrProgress (f : Field) : Nat := bits (hq f 4) 49 48
def hdrRelay (f : Field) : Nat := bits (hq f 4) 44 40
def hdrSquad (f : Field) : Nat := bits (hq f 4) 37 32
def hdrBarriers (f : Field) : Nat := bits (hq f 4) 28 24
def hdrSregs (f : Field) : Nat := bits (hq f 4) 22 16
def hdrRegs (f : Field) : Nat := bits (hq f 4) 8 0
def hdrNBanks (f : Field) : Nat := bits (hq f 5) 37 32
def hdrScratch (f : Field) : Nat := bits (hq f 5) 22 0
def hdrPSregs (f : Field) : Nat := bits (hq f 6) 22 16
def hdrPRegs (f : Field) : Nat := bits (hq f 6) 8 0
def hdrBank (f : Field) (i : Nat) : Nat := bits (hq f (8 + i / 8)) (8 * (i % 8) + 7) (8 * (i % 8))
def hdrHasPacer (f : Field) : Bool := hdrPEntry f ≠ 0xFFFFFFFF
/-- .scratch rounded up to whole 4 KiB pages (R34). -/
def scratchRounded (f : Field) : Nat := (hdrScratch f + 4095) / 4096 * 4096
/-- The scratch banks of a relay, ceil(S / 128 KiB) (R139). -/
def scratchBanks (f : Field) : Nat := (scratchRounded f + 131071) / 131072
/-- The banks a relay owns (R139). -/
def ownedBanks (f : Field) : Nat := scratchBanks f + hdrNBanks f

/-- The V registers a unit may name (R35, R325). -/
def State.nv (s : State) (u : UnitRef) : Nat := s.fieldD u 0 fun f => if isPacer u then hdrPRegs f else hdrRegs f
/-- The S registers a unit may name. -/
def State.ns (s : State) (u : UnitRef) : Nat := s.fieldD u 0 fun f => if isPacer u then hdrPSregs f else hdrSregs f
def State.codeW (s : State) (u : UnitRef) : Nat := s.fieldD u 0 hdrCodeW
/-- The handler of the unit's code block, where it has one (R73). A warm-up has none (R246). -/
def State.handlerOf (s : State) (u : UnitRef) : Option Nat :=
  if isWarm u then none
  else s.fieldD u none fun f =>
    let h := if isPacer u then hdrPHandler f else hdrHandler f
    if h = 0xFFFFFFFF then none else some h

/-! ### Free values -/

/-- A free value of this step; `k` tells the uses within a step apart. -/
def State.freeNat (s : State) (k : Nat) : Nat := (Config.free s.tick k).toNat

/-! ### Physical memory (R135, R137, R304) -/

def tier1End : Nat := 0xB2D05E0000
def tier2Base : Nat := 0x40000000000
def tier2End : Nat := 0x40000000000 + 0x3A352944000
def frames1 : Nat := 11718750
def frames2 : Nat := 61035156
def frame2Base : Nat := tier2Base / 65536

/-- The address names populated memory (R135). -/
def populated (pa : Nat) : Bool := pa < tier1End || (tier2Base ≤ pa && pa < tier2End)

/-- The frames of a carve-out, ceil(9 × F / 64) (R137). -/
def carveSize (f : Nat) : Nat := (9 * f + 63) / 64

def State.inCarve (s : State) (frame : Nat) : Bool :=
  (s.dev.integ1 && frames1 - carveSize frames1 ≤ frame && frame < frames1) ||
  (s.dev.integ2 && frame2Base + frames2 - carveSize frames2 ≤ frame && frame < frame2Base + frames2)

/-- A frame the host may name: a whole 64 KiB frame of a tier (R137). -/
def wholeFrame (frame : Nat) : Bool :=
  frame < frames1 || (frame2Base ≤ frame && frame < frame2Base + frames2)

/-- The tier of a frame has a carve-out (R137). -/
def State.tierHasCarve (s : State) (frame : Nat) : Bool :=
  if frame < frame2Base then s.dev.integ1 else s.dev.integ2

def State.frame (s : State) (n : Nat) : Frame := getD frameInit s.frames n
def State.setFrame (s : State) (n : Nat) (f : Frame) : State := { s with frames := setD frameInit s.frames n f }

/-- One byte of physical memory; an unlisted byte is 0 (R304). -/
def State.byte (s : State) (pa : Nat) : Byte := getD 0#8 s.mem pa
def State.setByte (s : State) (pa : Nat) (b : Byte) : State := { s with mem := setD 0#8 s.mem pa b }

/-- The n bytes from `pa` up, as a little-endian number (R2). -/
def State.readMem (s : State) (pa : Nat) : Nat → Nat
  | 0 => 0
  | n + 1 => (s.byte pa).toNat + 256 * State.readMem s (pa + 1) n

/-- Write the n low bytes of a number, little-endian (R2). -/
def State.writeMem (s : State) (pa : Nat) : Nat → Nat → State
  | 0, _ => s
  | n + 1, v => State.writeMem (s.setByte pa (BitVec.ofNat 8 v)) (pa + 1) n (v / 256)

/-- Clear the tag of every granule that n bytes from `pa` touch (R129). -/
def State.clearTags (s : State) (pa n : Nat) : State :=
  { s with tags := s.tags.filter fun e => !(pa / 16 ≤ e.1 && e.1 ≤ (pa + n - 1) / 16) }

/-- A write of data: the bytes, and the tags it clears. -/
def State.store (s : State) (pa n v : Nat) : State := (s.writeMem pa n v).clearTags pa n

def State.tag (s : State) (pa : Nat) : Bool := getD false s.tags (pa / 16)
def State.setTag (s : State) (pa : Nat) (b : Bool) : State := { s with tags := setD false s.tags (pa / 16) b }

/-! ### Translation (R130 to R133, R138) -/

/-- How a walk ends (R132). -/
inductive WalkEnd where
  | leaf (e : TlbEntry)
  | replayable
  | unmapped
  /-- the recorded attribute differs; `w` is the leaf's W, which a store without it meets first (R68) -/
  | mismatch (w : Bool)
  /-- a table of it is still being zeroed (R154) -/
  | busy
deriving DecidableEq, Repr

/-- Bits of a page-table entry that are reserved (R131). -/
def pteReserved (e : Nat) : Bool := bits e 63 48 ≠ 0 || bits e 11 8 ≠ 0

/-- Every frame from `pa` on over `n` bytes is assigned to context `c`. -/
def State.framesOf (s : State) (c pa n : Nat) : Bool :=
  (List.range (max 1 (n / 65536))).all fun i => (s.frame (pa / 65536 + i)).owner = .ctx c

/-- Every frame of the page carries the attribute (R138). -/
def State.attrsAre (s : State) (attr : BitVec 2) (pa n : Nat) : Bool :=
  (List.range (max 1 (n / 65536))).all fun i => (s.frame (pa / 65536 + i)).attr = attr

/-- The page names populated memory outside the carve-outs (R131). -/
def State.pageNamed (s : State) (pa n : Nat) : Bool :=
  populated pa && populated (pa + n - 1) &&
  (List.range (max 1 (n / 65536))).all fun i => !s.inCarve (pa / 65536 + i)

/-- A leaf entry of a page of `size` bytes (R131, R138). -/
def State.leafEnd (s : State) (c va e size : Nat) : WalkEnd :=
  let pa := bits e 47 12 * 4096
  let attr := BitVec.ofNat 2 (bits e 6 5)
  if bit e 2 || attr = 3#2 || pa % size ≠ 0 || !s.pageNamed pa size || !s.framesOf c pa size then .unmapped
  else if !s.attrsAre attr pa size then .mismatch (bit e 3)
  else .leaf ⟨c, va / size * size, size, pa, bit e 3, bit e 4, attr⟩

/-- Every frame of n bytes from `pa` on is a host frame of the port (R131, R297). -/
def State.hostFrames (s : State) (p : Port) (pa n : Nat) : Bool :=
  (List.range (max 1 (n / 65536))).all fun i => (s.frame (pa / 65536 + i)).owner = .host p

/-- A non-leaf entry: the next table's base, where the entry is well formed (R131). -/
def State.tableAt (s : State) (p : Port) (e size : Nat) (granOk : Bool) : Option Nat :=
  let pa := bits e 47 12 * 4096
  if (!granOk && bit e 2) || bits e 6 3 ≠ 0 || pa % size ≠ 0 || !s.pageNamed pa size || !s.hostFrames p pa size then none
  else some pa

/-- A table entry; one that an uncorrectable error has struck reads as a malformed one (R259). -/
def State.pte (s : State) (pa : Nat) : Nat := if s.dev.lostPte.contains pa then 2 ^ 64 - 1 else s.readMem pa 8

/-- Storage whose zeroing has not ended: the access waits (R154). -/
def State.beingZeroed (s : State) (pa : Nat) : Bool := s.zeroing.contains (pa / 65536)

/-- The entry at a place of a table that may be read by now (R154). -/
def State.atEntry (s : State) (pa : Nat) (k : Nat → WalkEnd) : WalkEnd := if s.beingZeroed pa then .busy else k (s.pte pa)

/-- Walk the tables of context `c` for `va` (R130 to R132). -/
def State.walk (s : State) (c : Nat) (cx : Ctx) (va : Nat) : WalkEnd :=
  let inval (e : Nat) : WalkEnd := if bit e 7 then .replayable else .unmapped
  if !s.hostFrames cx.port cx.root 4096 then .unmapped
  else s.atEntry (cx.root + 8 * bits va 56 48) fun e0 =>
  if !bit e0 0 then inval e0
  else if pteReserved e0 || bit e0 1 then .unmapped
  else match s.tableAt cx.port e0 4096 false with
  | none => .unmapped
  | some t1 =>
    s.atEntry (t1 + 8 * bits va 47 39) fun e1 =>
    if !bit e1 0 then inval e1
    else if pteReserved e1 || bit e1 1 then .unmapped
    else match s.tableAt cx.port e1 4096 false with
    | none => .unmapped
    | some t2 =>
      s.atEntry (t2 + 8 * bits va 38 30) fun e2 =>
      if !bit e2 0 then inval e2
      else if pteReserved e2 then .unmapped
      else if bit e2 1 then s.leafEnd c va e2 0x40000000
      else
        let big := bit e2 2
        match s.tableAt cx.port e2 (if big then 4096 else 131072) true with
        | none => .unmapped
        | some t3 =>
          s.atEntry (t3 + 8 * (if big then bits va 29 21 else bits va 29 16)) fun e3 =>
          if !bit e3 0 then inval e3
          else if pteReserved e3 || !bit e3 1 then .unmapped
          else s.leafEnd c va e3 (if big then 0x200000 else 0x10000)

/-- The entry of a translation cache that covers `va` in context `c`. -/
def tlbFind (t : List TlbEntry) (c va : Nat) : Option TlbEntry :=
  t.find? fun e => e.ctx = c && e.vbase ≤ va && va < e.vbase + e.size

/-- Add an entry to a cache of `cap` entries; which one leaves a full cache is open (free value). -/
def tlbAdd (t : List TlbEntry) (cap victim : Nat) (e : TlbEntry) : List TlbEntry :=
  if (tlbFind t e.ctx e.vbase).isSome then t
  else if t.length < cap then e :: t
  else e :: t.eraseIdx (victim % cap)

/-- The cached translation of `va` for a unit: a heat looks in its core's cache and then in its cluster's (R133). DESIGN
CHOICE, entry 94: a pacer, which is on no core, looks in its cluster's alone. -/
def State.lookup (s : State) (u : UnitRef) (va : Nat) : Option TlbEntry :=
  match s.fieldOf u, s.clusterOf u with
  | some f, some cl =>
    let inCluster := tlbFind (s.cluster cl).tlb f.ctx va
    match s.coreOf u with
    | some p =>
      match tlbFind (s.core p).tlb f.ctx va with
      | some e => some e
      | none => inCluster
    | none => inCluster
  | _, _ => none

/-- Fill the caches a unit looks in. -/
def State.fillTlb (s : State) (u : UnitRef) (e : TlbEntry) : State :=
  let s1 := match s.clusterOf u with
    | some c =>
      let cl := s.cluster c
      s.setCluster c { cl with tlb := tlbAdd cl.tlb 4096 (s.freeNat 1) e }
    | none => s
  match s1.coreOf u with
  | some p =>
    let co := s1.core p
    s1.setCore p { co with tlb := tlbAdd co.tlb 256 (s.freeNat 2) e }
  | none => s1

/-- What translation gives an access of a lane: a physical address with its page, a miss, or a cause. -/
inductive Trans where
  | hit (pa : Nat) (e : TlbEntry)
  | miss
  | cause (c : Nat)
  /-- a table is still being zeroed (R154) -/
  | busy
deriving DecidableEq, Repr

/-- Translate for a unit. A warm-up and the front end walk at once; a heat or pacer uses the caches (R133). -/
def State.translate (s : State) (u : UnitRef) (va : Nat) (store : Bool) : Trans :=
  let found : Trans := match u with
    | .warm _ =>
      match s.fieldOf u, s.ctxOf u with
      | some f, some cx =>
        match s.walk f.ctx cx va with
        | .leaf e => .hit (e.pa + (va - e.vbase)) e
        | .replayable => .miss
        | .unmapped => .cause 0x10
        | .mismatch w => .cause (if store && !w then 0x11 else 0x14)
        | .busy => .busy
      | _, _ => .cause 0x10
    | _ =>
      match s.lookup u va with
      | some e => .hit (e.pa + (va - e.vbase)) e
      | none => .miss
  match found with
  | .hit pa e => if store && !e.w then .cause 0x11 else .hit pa e
  | t => t

/-- Translate for the front end or an engine, which walk the tables (R480). -/
def State.translateCtx (s : State) (c va : Nat) (store : Bool) : Trans :=
  match find s.ctxs c with
  | none => .cause 0x10
  | some cx =>
    match s.walk c cx va with
    | .leaf e => if store && !e.w then .cause 0x11 else .hit (e.pa + (va - e.vbase)) e
    | .replayable => .miss
    | .unmapped => .cause 0x10
    | .mismatch w => .cause (if store && !w then 0x11 else 0x14)
    | .busy => .busy

/-! ### Capabilities (R124, R125) -/

def Cap.base (c : Cap) : Nat := bits c.data.toNat 56 0
def Cap.len (c : Cap) : Nat := bits c.data.toNat 120 64
def Cap.canR (c : Cap) : Bool := c.data.getLsbD 121
def Cap.canW (c : Cap) : Bool := c.data.getLsbD 122
def Cap.canA (c : Cap) : Bool := c.data.getLsbD 123
def Cap.canL (c : Cap) : Bool := c.data.getLsbD 124

/-- The capability of a base, a length and permissions. DESIGN CHOICE, entry 88: a base of 2^57, which CNARROW gives at
length 0, sets the reserved bit 57, and BASE reads 0 (R128). -/
def mkCap (base len : Nat) (r w a l : Bool) : Cap :=
  ⟨BitVec.ofNat 128 (pack [(57, base), (7, 0), (57, len), (1, boolBit r), (1, boolBit w), (1, boolBit a),
    (1, boolBit l)]), true⟩

/-- A tag is allowed: reserved fields 0, and BASE + LENGTH at most 2^57 (R124). -/
def capTaggable (d : BitVec 128) : Bool :=
  bits d.toNat 127 125 = 0 && bits d.toNat 63 57 = 0 && bits d.toNat 56 0 + bits d.toNat 120 64 ≤ 2 ^ 57

/-- The permissions an access may need (R125). -/
inductive Perm where
  | none
  | r
  | w
  | a
  | l
deriving DecidableEq, Repr

def Cap.allows (c : Cap) : Perm → Bool
  | .none => true
  | .r => c.canR
  | .w => c.canW
  | .a => c.canA
  | .l => c.canL

/-- The causes of an access of n bytes at offset `off` through a capability (R125). -/
def capCauses (c : Cap) (off : Int) (n : Nat) (perm : Perm) : List Nat :=
  (if c.tag then [] else [0x20]) ++
  (if off < 0 ∨ (c.len : Int) < off + n then [0x21] else []) ++
  (if c.allows perm then [] else [0x22]) ++
  (if ((c.base : Int) + off) % (n : Int) ≠ 0 then [0x12] else [])

/-- The virtual address of an access, modulo 2^57 (R125, R248). -/
def capVa (c : Cap) (off : Int) : Nat := wrap 57 ((c.base : Int) + off)

/-! ### The fault log (R250, R251) -/

/-- The owner of the field's queue. -/
def fieldPort (f : Field) : Port := queuePort f.queue

/-- Append an entry of four quadwords to a port's log, or drop it and set OVF. -/
def State.logTo (s : State) (p : Port) (q0 q1 q2 q3 : Nat) (ref : LogRef) : State :=
  let ps := s.port p
  let n := bits ps.flog.toNat 63 59
  if !bit ps.flog.toNat 0 || (ps.flogW - ps.flogR).toNat = 2 ^ n then s.setPort p { ps with flogOvf := true }
  else
    let at_ := bits ps.flog.toNat 47 12 * 4096 + 32 * (ps.flogW.toNat % 2 ^ n)
    let v := q0 + 2 ^ 64 * (q1 + 2 ^ 64 * (q2 + 2 ^ 64 * q3))
    -- an entry in storage still being zeroed is written once that is over (R154)
    let late := s.beingZeroed at_
    (if late then s else s.store at_ 32 v).setPort p { ps with
      flogW := ps.flogW + 1#32, log := put ps.log ps.flogW.toNat ref,
      logOwed := ps.logOwed ++ if late then [(at_, v)] else [] }

/-- The entries owed to a frame are written (R154). -/
def State.payLog (s : State) (frame : Nat) (p : Port) : State :=
  let ps := s.port p
  let now := ps.logOwed.filter fun e => e.1 / 65536 = frame
  (now.foldl (fun s e => s.store e.1 32 e.2) s).setPort p { ps with logOwed := ps.logOwed.filter fun e => e.1 / 65536 ≠ frame }

/-- Quadword 0 of an entry (R251). -/
def logQ0 (qid ctx tag : Nat) (pacer : Bool) (cause kind : Nat) : Nat :=
  pack [(8, kind), (7, cause), (1, boolBit pacer), (16, tag), (15, ctx), (1, 0), (15, qid)]

/-- Quadword 2 of an entry (R251). -/
def logQ2 (level gen fid squad heat mask : Nat) : Nat :=
  pack [(32, mask), (5, heat), (5, squad), (9, fid), (4, gen), (2, 0), (2, level)]

def unitSquadHeat : UnitRef → Nat × Nat
  | .heat _ q h => (q, h)
  | _ => (0, 0)

/-- The lanes of a fragment. -/
def Strand.fragLanes (x : Strand) (fid : Nat) : LaneSet :=
  laneSet fun i => (x.lane i).frag = some fid

/-- The entry of an escalated fragment, KIND 0x1 (R250, R251). -/
def State.logFrag (s : State) (u : UnitRef) (fid : Nat) : State :=
  match s.strand u, s.fieldOf u, s.relayOf u with
  | some x, some f, some rl =>
    match find x.frags fid with
    | some fr =>
      let m := x.fragLanes fid
      let (q, h) := unitSquadHeat u
      let addr := match lowest m with
        | some i => (x.lane i).fva.toNat
        | none => 0
      s.logTo (fieldPort f) (logQ0 f.queue f.ctx f.tag (isPacer u) fr.fcause.toNat 1) rl.linear
        (logQ2 0 fr.gen.toNat fid q h m.toNat) addr ⟨1, f.ctx, some u, fid, fr.gen⟩
    | none => s
  | _, _, _ => s

/-! ### Taking a fault: lanes park in fragments (R67 to R73, R81, R86) -/

/-- The rank of a cause: the groups in the order of R68, then the number. -/
def causeRank (c : Nat) : Nat :=
  let g := c / 16
  let k := if g = 0 then 0 else if g = 4 then 1 else if g = 2 then 2 else if g = 1 then 3 else if g = 3 then 4 else 5
  k * 256 + c

/-- The one cause a lane takes among several (R68). -/
def pickCause : List Nat → Option Nat
  | [] => none
  | c :: cs =>
    match pickCause cs with
    | none => some c
    | some d => some (if causeRank c ≤ causeRank d then c else d)

/-- A lane that faults: its own cause, its faulting address, and whether the page fault is replayable. -/
structure LaneFault where
  lane : Nat
  cause : Nat
  fva : Nat
  replay : Bool
deriving DecidableEq, Repr

/-- Lanes per group, 2^G (R78). -/
def groupSize (x : Strand) : Nat := 2 ^ x.g.toNat

/-- While the heat is bound, every lane of a faulting lane's group faults, the others under 0x40 (R81). -/
def boundFaults (x : Strand) (fs : List LaneFault) : List LaneFault :=
  if x.g = 0#3 then fs
  else
    let gs := groupSize x
    laneIds.filterMap fun i =>
      match fs.find? (fun f => f.lane = i) with
      | some f => some f
      | none =>
        if fs.any (fun f => f.lane / gs = i / gs) && (x.lane i).ls ≠ .exited then some ⟨i, 0x40, 0, false⟩
        else none

/-- The causes of a debug stop (R254). -/
def debugCause (c : Nat) : Bool := c = 0x47 || c = 0x48

/-- The causes that go straight to the front end (R246, R255). -/
def escalates (c : Nat) : Bool := debugCause c || c = 0x49 || c = 0x5A

/-- The fragment-table entries taken on a core (R69). -/
def State.usedFids (s : State) (p : Nat) : List Nat :=
  s.relays.flatMap fun (_, rl) =>
    if rl.place.isNone then [] else
    rl.squads.flatMap fun (q, sq) =>
      if sq.core ≠ p then [] else
      rl.heats.flatMap fun (k, x) => if k / 32 = q then x.frags.map (fun e => e.1) else []

/-- The heat slot of a unit (R70). -/
def State.heatSlot (s : State) (u : UnitRef) : Nat :=
  match u with
  | .heat r q h =>
    match (find s.relays r).bind fun rl => find rl.squads q with
    | some sq => sq.slots.getD h 0
    | none => 0
  | _ => 0

/-- The entry a new fragment takes: the lowest free one, else the heat's overflow fragment; the pacer's
own entry 0 (R69, R70). -/
def State.allocFid (s : State) (u : UnitRef) : Nat :=
  match s.coreOf u with
  | some p =>
    let used := s.usedFids p
    match (List.range 256).find? (fun i => !used.contains i) with
    | some i => i
    | none => 0x100 + s.heatSlot u
  | none => 0

/-- The generation of the entry after its allocation (R71); a pacer's entry counts its own allocations. -/
def State.nextGen (s : State) (u : UnitRef) (x : Strand) (fid : Nat) : BitVec 4 :=
  match s.coreOf u with
  | some p => getD 0#4 (s.core p).gens fid + 1#4
  | none => BitVec.ofNat 4 (x.nextOrder + 1)

/-- An allocated entry of a core keeps its generation (R71). -/
def State.setGen (s : State) (u : UnitRef) (fid : Nat) (gen : BitVec 4) : State :=
  match s.coreOf u with
  | some p => s.setCore p { s.core p with gens := put (s.core p).gens fid gen }
  | none => s

/-- A lane leaves its fragment; an entry no lane belongs to returns to the pool (R69). -/
def Strand.dropEmpty (x : Strand) : Strand :=
  { x with frags := x.frags.filter fun e => laneIds.any fun i => (x.lane i).frag = some e.1 }

/-- A lane parks in a fragment: its hold is lost, and with it the arrival of a lane held at BAR or RBAR, which comes
again when the lane executes the word again (R57, R77). -/
def Lane.park (l : Lane) (fid cause fva : Nat) : Lane :=
  { l with
    ls := .parked, held := none, frag := some fid, own := BitVec.ofNat 7 cause, fva := BitVec.ofNat 57 fva,
    arrived := match l.held with
      | some (.bar n) => l.arrived &&& ~~~(1#16 <<< n)
      | _ => l.arrived,
    arrivedR := l.arrivedR && l.held ≠ some .rbar }

/-- Escalate a fragment: it stays parked and the front end logs it (R250). -/
def State.escalate (s : State) (u : UnitRef) (fid : Nat) : State :=
  (s.modStrand u fun x => { x with frags := modify x.frags fid fun fr =>
    { fr with phase := .escalated, replay := false } }).logFrag u fid

/-- The fragment goes straight to the front end: its cause says so, or a lane of the overflow fragment stopped for the
debugger (R246, R255). -/
def Strand.straight (x : Strand) (fid : Nat) : Bool :=
  (match find x.frags fid with
   | some fr => escalates fr.fcause.toNat
   | none => false) ||
  (0x100 ≤ fid && (lanesOf (x.fragLanes fid)).any fun i => escalates (x.lane i).own.toNat)

/-- A fragment that awaits nothing but service escalates where nobody serves it (R73), and one that goes straight to
the front end does so even from the overflow fragment's handler (R255). -/
def State.serveFrag (s : State) (u : UnitRef) (fid : Nat) : State :=
  match s.strand u with
  | none => s
  | some x =>
    match find x.frags fid with
    | none => s
    | some fr =>
      match fr.phase with
      | .blocked => s
      | .escalated => s
      | .handler _ _ => if x.straight fid then s.escalate u fid else s
      | .waiting =>
        if x.straight fid || (!fr.replay && (s.handlerOf u).isNone) then s.escalate u fid else s

/-- Form one fragment of the given lanes: take an entry, or join the overflow fragment (R69, R70, R81). While a window
word's lane still has its CWAIT or MWAIT open, the fragment is served by nobody (R86). -/
def State.formFrag (s : State) (u : UnitRef) (fs : List LaneFault) (bound replay : Bool) : State :=
  match s.strand u, fs with
  | some x, f0 :: _ =>
    let fid := s.allocFid u
    let old := find x.frags fid
    let spill := 0x100 ≤ fid
    let blocked := x.ops.any fun o => o.kind ≠ .plain && fs.any (fun f => o.lanes.getLsbD f.lane)
    let gen := match old with
      | some fr => fr.gen
      | none => s.nextGen u x fid
    let elect := fs.foldl (fun m f => if f.lane < m.lane then f else m) f0
    let lanes := laneSet fun i => fs.any fun f => f.lane = i
    let misses := laneSet fun i => fs.any fun f => f.lane = i && f.replay
    let fr0 : Frag := match old with
      | some o => { o with replay := o.replay && replay, misses := (o.misses &&& ~~~lanes) ||| misses }
      | none =>
        ⟨gen, bound, replay, BitVec.ofNat 7 (if spill then 0x41 else elect.cause), .waiting, x.nextOrder, misses⟩
    let fr : Frag := if blocked && fr0.phase = .waiting then { fr0 with phase := .blocked } else fr0
    let x1 := x.mapLanes (fs.map (fun f => f.lane)) fun i l =>
      match fs.find? (fun f => f.lane = i) with
      | some f => l.park fid f.cause f.fva
      | none => l
    let x2 := ({ x1 with frags := put x1.frags fid fr, nextOrder := x1.nextOrder + 1 } : Strand).dropEmpty
    let s1 := s.setStrand u x2
    (if old.isNone then s1.setGen u fid gen else s1).serveFrag u fid
  | _, _ => s

/-- End a warm-up's run with a cause (R230): the launch's state is kept by the front end (Warm). -/
def State.warmFault (s : State) (q cause : Nat) : State :=
  match find s.warms q with
  | some w =>
    { s with warms := put s.warms q { w with strand := w.strand.mapLanes [0] fun _ l =>
        { l with ls := .parked, own := BitVec.ofNat 7 cause } } }
  | none => s

/-- Park lanes in one fragment, where there are any. -/
def State.formSome (s : State) (u : UnitRef) (fs : List LaneFault) (bound replay : Bool) : State :=
  if fs.isEmpty then s else s.formFrag u fs bound replay

/-- TAKING A FAULT. The lanes park at their LPC in fragments: replayable page faults together, debug stops together,
the rest together, each bound group alone (R67, R69, R76, R81). In handler mode the handler's fragment escalates
(R76). A warm-up ends (R230). -/
def State.takeFaults (s : State) (u : UnitRef) (handler : Option Nat) (fs : List LaneFault) : State :=
  match fs with
  | [] => s
  | f0 :: _ =>
    match u with
    | .warm q => s.warmFault q f0.cause
    | _ =>
      match handler with
      | some fid =>
        (s.modStrand u fun x => { x with frags := modify x.frags fid fun fr =>
          { fr with phase := .escalated, replay := false, fcause := BitVec.ofNat 7 f0.cause } }).logFrag u fid
      | none =>
        match s.strand u with
        | none => s
        | some x =>
          let all := boundFaults x fs
          if x.g ≠ 0#3 then
            let gs := groupSize x
            (List.range (32 / gs)).foldl (fun s j =>
              s.formSome u (all.filter fun f => f.lane / gs = j) true
                ((fs.filter fun f => f.lane / gs = j).all fun f => f.replay)) s
          else
            let rest := all.filter fun f => !f.replay
            ((s.formSome u (all.filter fun f => f.replay) false true).formSome u
              (rest.filter fun f => !debugCause f.cause) false false).formSome u
              (rest.filter fun f => debugCause f.cause) false false

/-! ### Returning from a fault (R75, R392, R390) -/

/-- How a fragment ends. -/
inductive FragEnd where
  | retry
  | skip
  | kill
deriving DecidableEq, Repr

/-- Physical address of code word `w` of the unit's field; none where a page is not mapped (R327, R328). -/
def State.codeAddr (s : State) (f : Field) (w : Nat) : Trans :=
  match find s.queues f.queue with
  | some q => s.translateCtx f.ctx (q.cap.base + f.code + 256 + 8 * w) false
  | none => .cause 0x10

/-- Code word `w`, where its page is mapped; `State.fetch` faults where it is not. -/
def State.codeWord (s : State) (f : Field) (w : Nat) : Word64 :=
  match s.codeAddr f w with
  | .hit pa _ => BitVec.ofNat 64 (s.readMem pa 8)
  | _ => 0#64

/-- The size of the word at a lane's LPC: 2 for an extended word, else 1 (R326, R392). -/
def State.wordSize (s : State) (u : UnitRef) (lpc : Word32) : Nat :=
  match s.fieldOf u with
  | some f => if (s.codeWord f lpc.toNat).toNat / 2 ^ 62 = 2 then 2 else 1
  | none => 1

/-- RETURNING FROM A FAULT. Every lane of the fragment runs again at its word, runs past it, or exits;
the entry is freed (R75, R390, R392). -/
def State.endFrag (s : State) (u : UnitRef) (fid : Nat) (how : FragEnd) : State :=
  match s.strand u with
  | none => s
  | some x =>
    let m := lanesOf (x.fragLanes fid)
    let x1 := x.mapLanes m fun _ l =>
      match how with
      | .retry => { l with ls := .running, frag := none, own := 0#7, fva := 0#57 }
      | .skip =>
        { l with ls := .running, frag := none, own := 0#7, fva := 0#57,
                 lpc := l.lpc + BitVec.ofNat 32 (s.wordSize u l.lpc) }
      | .kill => { l with ls := .exited, frag := none, own := 0#7, fva := 0#57 }
    s.setStrand u { x1 with frags := del x1.frags fid }

/-! ### Committing a word -/

/-- What one lane gets from a word. -/
structure LaneOut where
  causes : List Nat
  fva : Nat
  replay : Bool
  v : List (Nat × Reg)
  p : List (Nat × PBit)
  /-- where LPC goes when not to the next word -/
  pc : Option Word32
  stack : Option (List Word32)
  hold : Option Hold
  fpf : BitVec 5
  slf : BitVec 4
  /-- the word accesses device memory, so that SR.FVA holds an address for 0x15 and 0x16 too (R248) -/
  dev : Bool

def laneNone : LaneOut := ⟨[], 0, false, [], [], none, none, none, 0#5, 0#4, false⟩
def laneFaults (cs : List Nat) : LaneOut := { laneNone with causes := cs }

/-- The registers a word writes, whether or not it writes them in a lane (R85, R260). -/
structure Dests where
  v : List Nat
  p : List Nat
  s : List Nat
deriving DecidableEq, Repr

/-- A word with its lookahead and size. -/
structure WordInfo where
  pred : Pred
  la : Nat
  size : Nat
  /-- places of a lookahead window the word takes (R84) -/
  places : Nat := 1
deriving DecidableEq, Repr

/-- The predicate of a lane, after negation (R330). -/
def Lane.predVal (l : Lane) (p : Pred) : Bool :=
  if p.sel = 12#4 then !p.neg else (l.pred p.sel.toNat).val != p.neg

/-- The poison of the predicate a lane reads (R260). -/
def Lane.predTaint (l : Lane) (p : Pred) : Taint :=
  if p.sel = 12#4 then .clean else (l.pred p.sel.toNat).taint

/-- The executing lanes: those of the issuing set whose predicate is true (R330, R347). -/
def executing (x : Strand) (m : LaneSet) (p : Pred) : LaneSet :=
  laneSet fun i => m.getLsbD i && (x.lane i).predVal p

/-- Write the register results of a lane. -/
def Lane.write (l : Lane) (v : List (Nat × Reg)) (p : List (Nat × PBit)) : Lane :=
  let l1 := v.foldl (fun l e => l.setReg e.1 e.2) l
  p.foldl (fun l e => l.setPred e.1 e.2) l1

/-- Poison the destinations of a lane whose predicate is poisoned (R260). -/
def Lane.taintDests (l : Lane) (t : Taint) (d : Dests) : Lane :=
  if t = .clean then l
  else
    let l1 := d.v.foldl (fun l n => l.setReg n ⟨(l.reg n).val, (l.reg n).taint.join t⟩) l
    d.p.foldl (fun l n => l.setPred n ⟨(l.pred n).val, (l.pred n).taint.join t⟩) l1

/-- The lanes of E that fault, each with its cause. -/
def faultsOf (e : LaneSet) (o : Nat → LaneOut) : List LaneFault :=
  (lanesOf e).filterMap fun i =>
    match pickCause (o i).causes with
    | some c => some ⟨i, c, if fvaCause (o i).dev c then (o i).fva else 0, (o i).replay && c = 0x10⟩
    | none => none
where
  /-- the causes for which SR.FVA holds an address or a scratch offset (R248) -/
  fvaCause (dev : Bool) (c : Nat) : Bool :=
    if c = 0x15 || c = 0x16 then dev else (0x10 ≤ c && c ≤ 0x18) || (0x20 ≤ c && c ≤ 0x23)

/-- The lanes that complete: those of E outside every faulting lane and faulting group (R67, R81). -/
def okLanes (x : Strand) (e : LaneSet) (fs : List LaneFault) : LaneSet :=
  let all := boundFaults x fs
  laneSet fun i => e.getLsbD i && !(all.any fun f => f.lane = i)

/-- OR the flags of the completing lanes (R101). -/
def flagsOf (ok : LaneSet) (o : Nat → LaneOut) : BitVec 5 × BitVec 4 :=
  (lanesOf ok).foldl (fun a i => (a.1 ||| (o i).fpf, a.2 ||| (o i).slf)) (0#5, 0#4)

/-- The issue count of R91, saturating at 65,535. -/
def bump (n : Nat) : Nat := min 65535 (n + 1)

/-- Yield-deferred lanes run again when a set that excludes them issues (R66, rule 7). -/
def Strand.undefer (x : Strand) (m : LaneSet) : Strand :=
  x.mapLanes (laneIds.filter fun i => !m.getLsbD i && (x.lane i).ls = .deferred) fun _ l => { l with ls := .running }

/-- Next-group mode ends when the group has no candidate left (R66, rule 6). -/
def Strand.tidyGroup (x : Strand) : Strand :=
  if x.nextMode && !((lanesOf x.group).any fun i => (x.lane i).candidate) then
    { x with nextMode := false, streak := 0, group := 0#32 }
  else x

/-- Where a lane that completes goes (R60, R61). -/
def nextPc (l : Lane) (o : LaneOut) (size : Nat) : Word32 := o.pc.getD (l.lpc + BitVec.ofNat 32 size)

/-- Open windows lose one place for a word, a pair two (R84). -/
def Strand.spend (x : Strand) (n : Nat) : Strand :=
  { x with ops := x.ops.map fun o => { o with left := o.left - n } }

/-- Register results with the poison of the lane's predicate (R260). -/
def taintRegs (t : Taint) (v : List (Nat × Reg)) : List (Nat × Reg) :=
  v.map fun e => (e.1, { e.2 with taint := e.2.taint.join t })

def taintPreds (t : Taint) (p : List (Nat × PBit)) : List (Nat × PBit) :=
  p.map fun e => (e.1, { e.2 with taint := e.2.taint.join t })

/-- One lane of the issuing set that does not fault: its writes where it runs and the word needs no lookahead, the
poison of its predicate, and LPC past the word outside handler mode (R60, R74, R260). -/
def commitLane (F : Focus) (w : WordInfo) (d : Dests) (runs : Bool) (o : LaneOut) (l : Lane) : Lane :=
  let l1 := if runs && decide (w.la = 0) then l.write o.v o.p else l
  let l2 := l1.taintDests (l.predTaint w.pred) d
  let l3 := { l2 with stack := if runs then o.stack.getD l2.stack else l2.stack }
  if runs && o.hold.isSome then { l3 with held := o.hold }
  else if F.handler.isSome then l3
  else if runs then { l3 with lpc := nextPc l o w.size }
  else { l3 with lpc := l.lpc + BitVec.ofNat 32 w.size }

/-- The poison of the predicates of a set of lanes. -/
def predTaints (x : Strand) (l : List Nat) (p : Pred) : Taint := l.foldl (fun t i => t.join ((x.lane i).predTaint p)) .clean

/-- Poison the S registers of a list (R260). -/
def taintSregs (t : Taint) (d : List Nat) (m : AMap Reg) : AMap Reg :=
  if t = .clean then m
  else d.foldl (fun m n => put m n ⟨(getD regZero m n).val, (getD regZero m n).taint.join t⟩) m

/-- A waiting instruction outstanding covers a lane of the set. -/
def Strand.openIn (x : Strand) (m : LaneSet) : Bool := x.ops.any fun o => o.kind ≠ .plain && (o.lanes &&& m) ≠ 0#32

/-- The exceptions of a set of lanes reach the unit's flags; those of lanes with a CWAIT or MWAIT open are kept with it
until it completes (R86, R101). -/
def Strand.addFlags (x : Strand) (m : LaneSet) (fp : BitVec 5) (sl : BitVec 4) : Strand :=
  if x.openIn m then
    { x with ops := x.ops.map fun o =>
        if o.kind ≠ .plain && (o.lanes &&& m) ≠ 0#32 then { o with fpf := o.fpf ||| fp, slf := o.slf ||| sl } else o }
  else { x with fpf := x.fpf ||| fp, slf := x.slf ||| sl }

/-- The results of a word: written to the unit at once, or outstanding while its lookahead lasts (R84, R101). `t` is
the poison of the predicates of the issuing set, which its S destinations take (R260). -/
def commitOp (x : Strand) (F : Focus) (w : WordInfo) (d : Dests) (t : Taint) (ok : LaneSet) (o : Nat → LaneOut)
    (sw : List (Nat × Reg)) (y : Strand) : Strand :=
  let fl := flagsOf ok o
  if w.la = 0 then
    ({ y with s := taintSregs t d.s (sw.foldl (fun m e => put m e.1 e.2) y.s) } : Strand).addFlags ok fl.1 fl.2
  else
    { y with
      s := taintSregs t d.s y.s
      ops := y.ops ++ [⟨.plain, (x.lane ((lowest F.lanes).getD 0)).lpc, ok, w.la,
        (lanesOf ok).map (fun i =>
          let t := (x.lane i).predTaint w.pred
          LaneWrite.mk i (taintRegs t (o i).v) (taintPreds t (o i).p)), taintRegs t sw, fl.1, fl.2, [], overNone, [], 0, none⟩] }

/-- In handler mode the handler's own counter moves past the word (R74). -/
def commitHandler (F : Focus) (w : WordInfo) (runs : Nat → Bool) (o : Nat → LaneOut) (faulted : Bool) (y : Strand) :
    Strand :=
  match F.handler with
  | some fid =>
    let i := (lowest F.lanes).getD 0
    if faulted then y
    else
      { y with frags := modify y.frags fid fun fr =>
          match fr.phase with
          | .handler pc lane =>
            let next := pc + BitVec.ofNat 32 w.size
            { fr with phase := .handler (if runs i then (o i).pc.getD next else next) lane }
          | _ => fr }
  | none => y

/-- Commit a word in the lanes that complete and advance every lane of the issuing set that does not fault.
In handler mode the handler's own counter advances and the lane's LPC stays (R74). -/
def commitWord (x : Strand) (F : Focus) (w : WordInfo) (d : Dests) (e : LaneSet) (o : Nat → LaneOut)
    (sw : List (Nat × Reg)) (fs : List LaneFault) : Strand :=
  let ok := okLanes x e fs
  let stay := boundFaults x fs
  let moving := (lanesOf F.lanes).filter fun i => !(stay.any fun f => f.lane = i)
  let x1 := x.mapLanes moving fun i l => commitLane F w d (ok.getLsbD i) (o i) l
  let x2 := commitOp x F w d (predTaints x moving w.pred) ok o sw (x1.spend w.places)
  let x3 := commitHandler F w (fun i => ok.getLsbD i) o (!fs.isEmpty) x2
  ({ x3 with count := bump x3.count } : Strand).undefer F.lanes

/-- A fault of a word whose every executing lane shares one cause (R347). -/
def scalarFaults (e : LaneSet) (cs : List Nat) (fva : Nat) (replay : Bool) : Nat → LaneOut :=
  fun i => if e.getLsbD i then { laneNone with causes := cs, fva := fva, replay := replay } else laneNone

/-- The same of a word that makes one device access (R127, R412). -/
def accessFaults (e : LaneSet) (cs : List Nat) (fva : Nat) (replay : Bool) : Nat → LaneOut :=
  fun i => { scalarFaults e cs fva replay i with dev := true }

/-- The lanes a single-stepped word stops: those of its issuing set still running and not held (R254). -/
def stepStops (x : Strand) (m : LaneSet) : List LaneFault :=
  (lanesOf m).filterMap fun i => if (x.lane i).candidate then some ⟨i, 0x48, 0, false⟩ else none

/-- The context's STEP control applies to a heat outside handler mode (R254). -/
def State.stepping (s : State) (F : Focus) : Bool :=
  isHeat F.unit && F.handler.isNone && (match s.ctxOf F.unit with
    | some c => c.step
    | none => false)

/-- STOPHEAT stops the whole heat at a debug stop (R255). -/
def State.stopHeat (s : State) (u : UnitRef) (fs : List LaneFault) : State :=
  if fs.any (fun f => f.cause = 0x47 || f.cause = 0x48) && (match s.ctxOf u with
      | some c => c.stopHeat
      | none => false) then s.modStrand u fun x => { x with stopped := .debug }
  else s

/-- An outstanding instruction that only waits for its latency. -/
def LongOp.plain (o : LongOp) : Bool :=
  match o.kind with
  | .plain => true
  | _ => false

/-- A waiting instruction that covers a lane of the set. -/
def LongOp.opens (o : LongOp) (m : LaneSet) : Bool := !o.plain && (o.lanes &&& m) ≠ 0#32

/-- Change the last instruction of a list that satisfies `p`. -/
def modLast (p : LongOp → Bool) (f : LongOp → LongOp) : List LongOp → List LongOp
  | [] => []
  | o :: os => if os.any p then o :: modLast p f os else if p o then f o :: os else o :: os

/-- A long-latency instruction completes: its register results and flags are written (R84, R101). -/
def Strand.land (x : Strand) (op : LongOp) : Strand :=
  let x1 := op.writes.foldl (fun (x : Strand) w => x.setLane w.lane ((x.lane w.lane).write w.v w.p)) x
  ({ x1 with s := op.swrites.foldl (fun m e => put m e.1 e.2) x1.s } : Strand).addFlags op.lanes op.fpf op.slf

/-- What a waiting instruction would set lanes back to takes the result of one issued before it (R86). -/
def LongOp.patch (op o : LongOp) : LongOp :=
  if o.plain then o
  else { o with save := o.save.map fun e =>
    (e.1, (op.writes.filter fun w => w.lane = e.1).foldl (fun l w => l.write w.v w.p) e.2) }

/-- The instruction at a place of the list completes. Scalar results of one in the window of a CWAIT or MWAIT wait with
that; a lane that would be set back to an instruction issued after it keeps its results (R86). -/
def Strand.landAt (x : Strand) (i : Nat) : Strand :=
  match x.ops[i]? with
  | none => x
  | some op =>
    let older := x.ops.take i
    let newer := (x.ops.drop (i + 1)).map op.patch
    let inWindow (o : LongOp) : LongOp :=
      { o with laid := { o.laid with s := op.swrites.foldl (fun m e => put m e.1 e.2) o.laid.s } }
    if older.any fun o => o.opens op.lanes then
      ({ x with ops := modLast (fun o => o.opens op.lanes) inWindow older ++ newer } : Strand).land { op with swrites := [] }
    else ({ x with ops := older ++ newer } : Strand).land op

/-- Complete the plain instructions from place i on that satisfy `p`, the oldest first. -/
def Strand.landFrom (p : LongOp → Bool) : Nat → Nat → Strand → Strand
  | 0, _, x => x
  | n + 1, i, x =>
    match x.ops[i]? with
    | none => x
    | some o => if o.plain && p o then Strand.landFrom p n i (x.landAt i) else Strand.landFrom p n (i + 1) x

/-- Complete every plain instruction outstanding that satisfies `p`. -/
def Strand.landWhere (x : Strand) (p : LongOp → Bool) : Strand := Strand.landFrom p x.ops.length 0 x

/-- Before lanes park, the instructions pending in them complete (R85, R86). -/
def Strand.landFor (x : Strand) (fs : List LaneFault) : Strand :=
  if fs.isEmpty then x else x.landWhere fun o => (boundFaults x fs).any fun f => o.lanes.getLsbD f.lane

/-- Stop lanes at a debugger's step: one fragment, in a bound heat too, of a bound group where they are one (R254). -/
def State.stepStop (s : State) (u : UnitRef) (fs : List LaneFault) : State :=
  match s.strand u, fs with
  | some x, f0 :: _ =>
    (s.formFrag u fs (x.g ≠ 0#3 && fs.all fun f => f.lane / groupSize x = f0.lane / groupSize x) false).stopHeat u fs
  | _, _ => s

/-- Park the faulting lanes of a word. -/
def State.parkFaults (s : State) (F : Focus) (fs : List LaneFault) : State :=
  let s0 := s.modStrand F.unit fun x => x.landFor fs
  (s0.takeFaults F.unit F.handler fs).stopHeat F.unit fs

/-- A single-stepped word has been carried out: its lanes stop, of one for whose completion the unit waits when that has
come (R254). -/
def State.stepWord (s : State) (F : Focus) : State :=
  match s.strand F.unit with
  | some x =>
    if x.waiting ≠ .none then s.setStrand F.unit { x with stepped := F.lanes } else s.stepStop F.unit (stepStops x F.lanes)
  | none => s

/-- Park the faulting lanes, and then the lanes a single step stops; a group left without a candidate ends its mode.
`act` is what the word does besides in the lanes that complete. -/
def State.park (s : State) (F : Focus) (fs : List LaneFault) (act : Strand → Strand := id) : State :=
  let s1 := (s.parkFaults F fs).modStrand F.unit act
  (if s.stepping F then s1.stepWord F else s1).modStrand F.unit Strand.tidyGroup

/-- A warm-up counts its words, and asks for no page any more (R230, R480). -/
def State.countWarm (s : State) (u : UnitRef) : State :=
  match u with
  | .warm q =>
    { s with
      warms := modify s.warms q fun w => { w with words := w.words + 1 },
      walks := s.walks.filter fun e => e.2.who ≠ .warm q }
  | _ => s

/-- A handler's word waits where another unit's lanes would be held: it issues again when its condition holds (R74). -/
def handlerWaits (F : Focus) (e : LaneSet) (o : Nat → LaneOut) (fs : List LaneFault) : Bool :=
  F.handler.isSome && fs.isEmpty && (lanesOf e).any fun i => (o i).hold.isSome

/-- The end of every word: commit, then park the lanes that fault. Lookahead is taken as 0 while the heat is
single-stepped (R254). -/
def State.finish (s : State) (F : Focus) (x : Strand) (w : WordInfo) (d : Dests) (e : LaneSet)
    (o : Nat → LaneOut) (sw : List (Nat × Reg)) (act : Strand → Strand := id) : State :=
  let fs := faultsOf e o
  let w' := if s.stepping F then { w with la := 0 } else w
  if handlerWaits F e o fs then s
  else ((s.setStrand F.unit (commitWord x F w' d e o sw fs)).countWarm F.unit).park F fs act

/-- Run a meaning on the focused unit. -/
def withUnit (s : State) (k : Focus → Strand → State) : Host.Outcome State Fault Refusal :=
  match s.focus with
  | none => .fault .noIssuer
  | some F =>
    match s.strand F.unit with
    | none => .fault .noIssuer
    | some x => .next (k F x)

end Sys2Proof.Machine
end

