-- ==== Sys2Proof/Machine/Operands.lean ====
section
/-! DEFINITION. Operand forms: reading and writing registers and pairs (R93), the checks every operand
meets (R35, R85, R260), and the words that compute per lane or uniformly (R336, R347). -/

namespace Sys2Proof.Machine

/-- A value with its poison. -/
structure Opd where
  val : Nat
  taint : Taint
deriving DecidableEq, Repr

/-- The value of registers n to n + count − 1, the first in the low bits (R93, R408). -/
def joinRegs (r : Nat → Reg) (n : Nat) : Nat → Opd
  | 0 => ⟨0, .clean⟩
  | c + 1 =>
    let rest := joinRegs r (n + 1) c
    ⟨(r n).val.toNat + 2 ^ 32 * rest.val, (r n).taint.join rest.taint⟩

/-- A source: the lane's V registers, or the unit's S registers. -/
def readOpd (x : Strand) (i : Nat) (isS : Bool) (n count : Nat) : Opd :=
  if isS then joinRegs x.sreg n count else joinRegs (x.lane i).reg n count

/-- The writes of a value over `count` registers (R93). -/
def splitRegs (n : Nat) (v : Nat) (t : Taint) : Nat → List (Nat × Reg)
  | 0 => []
  | c + 1 => (n, ⟨BitVec.ofNat 32 v, t⟩) :: splitRegs (n + 1) (v / 2 ^ 32) t c

/-- The numbers n to n + count − 1. -/
def span (n count : Nat) : List Nat := (List.range count).map fun k => n + k

/-! ### Checks of the registers a word names -/

/-- The registers and predicates a word reads or writes in a lane. -/
structure Named where
  v : List Nat
  s : List Nat
  p : List Nat
deriving DecidableEq, Repr

/-- Named beyond the header: 0x08 REG_BEYOND_HEADER (R35, R334). -/
def beyondHeader (nv ns : Nat) (n : Named) : Bool := n.v.any (fun r => nv ≤ r) || n.s.any (fun r => ns ≤ r)

/-- A register or predicate named is a pending destination in the lane: 0x09 LOOKAHEAD_HAZARD (R85). A scalar
destination is pending in every lane. -/
def pendingIn (x : Strand) (i : Nat) (n : Named) : Bool :=
  x.ops.any fun o =>
    (n.s.any fun r => o.swrites.any fun e => e.1 = r) ||
    (o.lanes.getLsbD i && o.writes.any fun w =>
      w.lane = i && ((n.v.any fun r => w.v.any fun e => e.1 = r) || (n.p.any fun r => w.p.any fun e => e.1 = r)))

/-- 0x08 for a register beyond the header (R334). -/
def headerCauses (s : State) (u : UnitRef) (n : Named) : List Nat := if beyondHeader (s.nv u) (s.ns u) n then [0x08] else []

/-- 0x09 for a pending register (R85). -/
def pendingCauses (x : Strand) (i : Nat) (n : Named) : List Nat := if pendingIn x i n then [0x09] else []

def namedCauses (s : State) (u : UnitRef) (x : Strand) (i : Nat) (n : Named) : List Nat :=
  headerCauses s u n ++ pendingCauses x i n

/-- The predicate a word reads, as a named register; PT is none. -/
def predNamed (p : Pred) : List Nat := if p.sel = 12#4 then [] else [p.sel.toNat]

/-- The executing lanes, with those whose predicate is still pending, which fault under R85. -/
def execLanes (x : Strand) (m : LaneSet) (p : Pred) : LaneSet :=
  executing x m p ||| laneSet fun i => m.getLsbD i && pendingIn x i ⟨[], [], predNamed p⟩

/-! ### Which units may run a word (R338, R230) -/

structure Runs where
  heat : Bool := true
  pacer : Bool := true
  warm : Bool := false
deriving DecidableEq, Repr

def unitCauses (u : UnitRef) (r : Runs) : List Nat :=
  match u with
  | .heat _ _ _ => if r.heat then [] else [0x06]
  | .pacer _ => if r.pacer then [] else [0x07]
  | .warm _ => if r.warm then [] else [0x02]

/-! ### Words that compute -/

/-- What a computation gives: the destination's bits, the predicate's value, exceptions and further causes. -/
structure Res where
  d : Nat := 0
  p : Option Bool := none
  fpf : BitVec 5 := 0#5
  slf : BitVec 4 := 0#4
  causes : List Nat := []
deriving DecidableEq, Repr

/-- A word that computes a register or predicate from registers and a predicate. -/
structure Alu where
  info : WordInfo
  runs : Runs
  /-- uniform (R336) -/
  u : Bool
  /-- destination register and the registers it covers -/
  dst : Option (Nat × Nat)
  /-- sources: S register or not, number, registers covered -/
  srcs : List (Bool × Nat × Nat)
  psrc : Option Nat
  pdst : Option Nat
deriving DecidableEq, Repr

def Alu.named (w : Alu) : Named :=
  let regs (isS : Bool) := w.srcs.flatMap fun e => if e.1 = isS then span e.2.1 e.2.2 else []
  let dst := match w.dst with
    | some (n, c) => span n c
    | none => []
  ⟨regs false ++ (if w.u then [] else dst), regs true ++ (if w.u then dst else []),
    predNamed w.info.pred ++ w.psrc.toList ++ w.pdst.toList⟩

/-- The sources of a lane, in order. -/
def Alu.args (w : Alu) (x : Strand) (i : Nat) : List Opd := w.srcs.map fun e => readOpd x i e.1 e.2.1 e.2.2

def argTaint (l : List Opd) : Taint := l.foldl (fun t o => t.join o.taint) .clean

/-- What a computing word gives in a lane. -/
def Alu.result (w : Alu) (x : Strand) (fn : List Nat → Bool → Res) (i : Nat) : Res :=
  fn ((w.args x i).map fun o => o.val) (match w.psrc with
    | some n => ((x.lane i).pred n).val
    | none => false)

/-- The poison of what a computing word reads in a lane (R260). -/
def Alu.taint (w : Alu) (x : Strand) (i : Nat) : Taint :=
  (argTaint (w.args x i)).join (match w.psrc with
    | some n => ((x.lane i).pred n).taint
    | none => .clean)

/-- One lane of a computing word: its checks, its computation, its traps (R101). -/
def Alu.lane (w : Alu) (s : State) (u : UnitRef) (x : Strand) (fn : List Nat → Bool → Res) (i : Nat) : LaneOut :=
  let r := w.result x fn i
  let t := w.taint x i
  { laneNone with
    causes := unitCauses u w.runs ++ namedCauses s u x i w.named ++ r.causes ++ trapCauses x.fpe r.fpf r.slf,
    v := match w.dst with
      | some (n, c) => if w.u then [] else splitRegs n r.d t c
      | none => [],
    p := match w.pdst, r.p with
      | some n, some b => [(n, ⟨b, t⟩)]
      | _, _ => [],
    fpf := r.fpf, slf := r.slf }

def Alu.dests (w : Alu) : Dests :=
  let d := match w.dst with
    | some (n, c) => span n c
    | none => []
  ⟨if w.u then [] else d, w.pdst.toList, if w.u then d else []⟩

/-- Force the causes of one lane on every executing lane (R336, R347). -/
def shareOut (o : LaneOut) (e : LaneSet) (i : Nat) : LaneOut :=
  if e.getLsbD i then { o with fpf := 0#5, slf := 0#4 } else laneNone

/-- A predicate of the word's own lane, its guard or its PD, is pending there (R85). -/
def Alu.hazard (w : Alu) (x : Strand) (i : Nat) : Bool := pendingIn x i ⟨[], [], predNamed w.info.pred ++ w.pdst.toList⟩

/-- A uniform word: the operation once, on the predicates of the lowest executing lane, its result written once and its
exceptions raised once; a fault of the operation parks every executing lane (R336), a pending predicate of one lane that
lane alone (R85). -/
def Alu.uniform (w : Alu) (s : State) (F : Focus) (x : Strand) (fn : List Nat → Bool → Res) (e : LaneSet) : State :=
  match lowest e with
  | none => s.finish F x w.info w.dests e (fun _ => laneNone) []
  | some i1 =>
    -- the predicate source is read in the lowest executing lane only (R336, R442)
    let i0 := ((lanesOf e).find? fun i => !w.hazard x i).getD i1
    let o := w.lane s F.unit x fn i0
    let sw := match w.dst with
      | some (n, c) => splitRegs n (w.result x fn i0).d (w.taint x i0) c
      | none => []
    let at_ (i : Nat) : LaneOut := { o with causes := o.causes ++ (if w.hazard x i then [0x09] else []), v := [] }
    s.finish F x w.info w.dests e (fun i => if i = i0 then at_ i else shareOut (at_ i) e i)
      (if o.causes.isEmpty then sw else [])

/-- A computing word (R336, R347). -/
def aluWord (s : State) (w : Alu) (fn : List Nat → Bool → Res) : Host.Outcome State Fault Refusal :=
  withUnit s fun F x =>
    let e := execLanes x F.lanes w.info.pred
    if w.u then w.uniform s F x fn e
    else s.finish F x w.info w.dests e (fun i => w.lane s F.unit x fn i) []

/-! ### From the layouts -/

def regInfo (f : RegF) : WordInfo := ⟨f.pred, f.la.toNat, 1, 1⟩

/-- The registers a field of layout REG names as a source. -/
def useSrc (use : Use) (cls : TyClass) (ty : BitVec 3) (u sbit : Bool) (n : Byte) : List (Bool × Nat × Nat) :=
  match use with
  | .src w => [(u || sbit, n.toNat, w.count cls ty)]
  | .vreg w => [(false, n.toNat, w.count cls ty)]
  | .sreg w => [(true, n.toNat, w.count cls ty)]
  | _ => []

def useDst (use : Use) (cls : TyClass) (ty : BitVec 3) (n : Byte) : Option (Nat × Nat) :=
  match use with
  | .dst w => some (n.toNat, w.count cls ty)
  | .vreg w => some (n.toNat, w.count cls ty)
  | .sreg w => some (n.toNat, w.count cls ty)
  | _ => none

/-- A word of layout REG over its shape. -/
def regAlu (sh : Shape) (runs : Runs) (f : RegF) : Alu :=
  { info := regInfo f, runs := runs, u := f.u, dst := useDst sh.d sh.cls f.ty f.d,
    srcs := useSrc sh.a sh.cls f.ty f.u f.sa f.a ++ useSrc sh.b sh.cls f.ty f.u f.sb f.b ++
      useSrc sh.c sh.cls f.ty f.u f.sc f.c,
    psrc := none, pdst := none }

/-- A word of layout CMP over its shape: PD is the destination. -/
def cmpAlu (sh : Shape) (runs : Runs) (f : CmpF) : Alu :=
  { regAlu sh runs (cmpAsReg f) with dst := none, pdst := some f.pd.toNat }

/-- A word of layout IMM, per lane or uniform (R336). -/
def immAlu (uniform hasA : Bool) (f : ImmF) : Alu :=
  { info := ⟨f.pred, f.la.toNat, 1, 1⟩, runs := { warm := true }, u := uniform, dst := some (f.d.toNat, 1),
    srcs := if hasA then [(uniform, f.a.toNat, 1)] else [], psrc := none, pdst := none }

/-- A word of layout CMPI. -/
def cmpiAlu (uniform : Bool) (f : CmpiF) : Alu :=
  { info := ⟨f.pred, 0, 1, 1⟩, runs := { warm := true }, u := uniform, dst := none,
    srcs := [(uniform, f.a.toNat, 1)], psrc := none, pdst := some f.pd.toNat }

/-- IMM29, sign-extended to 32 bits (R336). -/
def imm29 (i : BitVec 29) : Nat := (i.signExtend 32).toNat

/-- The n-th argument. -/
def arg (l : List Nat) (n : Nat) : Nat := l.getD n 0

/-! ### Scalar-only words (R347) -/

/-- What a scalar-only word does once: its causes, its S writes, and the rest of the state. -/
structure Once where
  causes : List Nat := []
  fva : Nat := 0
  replay : Bool := false
  sw : List (Nat × Reg) := []
  hold : Option Hold := none

/-- The registers of a scalar-only word: S and K numbers, checked in every executing lane. -/
def scalarCauses (s : State) (u : UnitRef) (x : Strand) (e : LaneSet) (p : Pred) (sregs : List Nat) : List Nat :=
  (if beyondHeader (s.nv u) (s.ns u) ⟨[], sregs, []⟩ then [0x08] else []) ++
  (if (lanesOf e).any (fun i => pendingIn x i ⟨[], sregs, predNamed p⟩) then [0x09] else [])

/-- 0x16 for a poisoned operand of an external effect (R261). -/
def poisonCause (ts : List Taint) : List Nat := if ts.contains .poisoned then [0x16] else []

/-- Some operand is not yet verified: the word waits (R261). -/
def mustVerify (ts : List Taint) : Bool := ts.any Taint.isUnverified && !ts.contains .poisoned

/-- The lanes a word with an effect outside the registers concerns: those that execute it, and those whose predicate is
poisoned or not verified yet, which fault or wait whatever its value (R260, R261). -/
def effectLanes (x : Strand) (m : LaneSet) (p : Pred) : LaneSet :=
  execLanes x m p ||| laneSet fun i => m.getLsbD i && (x.lane i).predTaint p ≠ .clean

/-- The poison of the predicates of the lanes concerned, as an operand of the word (R261). -/
def guardTaint (x : Strand) (m : LaneSet) (p : Pred) : Taint := predTaints x (lanesOf m) p

/-- Finish a scalar-only word: the same causes, or the same hold, in every executing lane; S written once. -/
def State.finishOnce (s : State) (F : Focus) (x : Strand) (w : WordInfo) (d : List Nat) (e : LaneSet) (r : Once) :
    State :=
  s.finish F x w ⟨[], [], d⟩ e
    (fun i => if e.getLsbD i then { laneNone with causes := r.causes, fva := r.fva, replay := r.replay, hold := r.hold }
      else laneNone)
    (if r.causes.isEmpty && r.hold.isNone then r.sw else [])

end Sys2Proof.Machine
end

