-- ==== Sys2Proof/Machine/Integer.lean ====
section
/-! DEFINITION. The integer instructions: arithmetic, compares, multiplies and dot products (R93, R94,
R395 to R401, R431). -/

namespace Sys2Proof.Machine

/-- Width of an integer type (R93, R95). -/
def tyW (ty : BitVec 3) : Nat := 8 * 2 ^ (ty.toNat % 4)
/-- .I types are signed (R95). -/
def tySigned (ty : BitVec 3) : Bool := ty.toNat < 4

/-- An operand as the value of its type; bits above the type are ignored (R93). -/
def intVal (ty : BitVec 3) (n : Nat) : Int :=
  if tySigned ty then signed (tyW ty) n else ((n % 2 ^ tyW ty : Nat) : Int)

def tyMin (ty : BitVec 3) : Int := if tySigned ty then -((2 ^ (tyW ty - 1) : Nat) : Int) else 0
def tyMax (ty : BitVec 3) : Int :=
  if tySigned ty then ((2 ^ (tyW ty - 1) : Nat) : Int) - 1 else ((2 ^ tyW ty : Nat) : Int) - 1

def clamp (lo hi z : Int) : Int := max lo (min hi z)

/-- Narrow an exact result: modulo 2^width, or clamped with SAT (R94). -/
def narrow (ty : BitVec 3) (sat : Bool) (z : Int) : Int :=
  if sat then clamp (tyMin ty) (tyMax ty) z else intVal ty (wrap (tyW ty) z)

/-- Place a narrowed result in its register or pair: 8-bit and 16-bit results are extended to 32 bits (R93). -/
def place (ty : BitVec 3) (z : Int) : Nat := wrap (if tyW ty = 64 then 64 else 32) z

/-- An integer result (R93, R94). -/
def intRes (ty : BitVec 3) (sat : Bool) (z : Int) : Res := { d := place ty (narrow ty sat z) }

def anyUnit : Runs := { warm := true }

/-- A register form over integer values of TYPE. -/
def intReg (sh : Shape) (f : RegF) (s : State) (op : List Int → Int) : Host.Outcome State Fault Refusal :=
  aluWord s (regAlu sh anyUnit f) fun l _ => intRes f.ty f.sat (op (l.map (intVal f.ty)))

/-- An immediate form: 32 bits, wrapping, compared as .I32 (R336, R396). -/
def intImm (uniform : Bool) (f : ImmF) (s : State) (op : Int → Int → Int) : Host.Outcome State Fault Refusal :=
  aluWord s (immAlu uniform true f) fun l _ =>
    intRes 2#3 false (op (intVal 2#3 (arg l 0)) (intVal 2#3 (imm29 f.imm)))

def iarg (l : List Int) (n : Nat) : Int := l.getD n 0

def iAdd (l : List Int) : Int := iarg l 0 + iarg l 1
def iSub (l : List Int) : Int := iarg l 0 - iarg l 1
def iAbs (l : List Int) : Int := ((iarg l 0).natAbs : Int)
def iMin (l : List Int) : Int := min (iarg l 0) (iarg l 1)
def iMax (l : List Int) : Int := max (iarg l 0) (iarg l 1)
def iMul (l : List Int) : Int := iarg l 0 * iarg l 1
def iMad (l : List Int) : Int := iarg l 0 * iarg l 1 + iarg l 2

/-- IADD (R396). -/
def execIadd (f : RegF) (s : State) : Host.Outcome State Fault Refusal := intReg shAdd f s iAdd
/-- ISUB (R396). -/
def execIsub (f : RegF) (s : State) : Host.Outcome State Fault Refusal := intReg shAdd f s iSub
/-- IABS (R396). -/
def execIabs (f : RegF) (s : State) : Host.Outcome State Fault Refusal := intReg shAbs f s iAbs
/-- IMIN (R396). -/
def execImin (f : RegF) (s : State) : Host.Outcome State Fault Refusal := intReg shMinMax f s iMin
/-- IMAX (R396). -/
def execImax (f : RegF) (s : State) : Host.Outcome State Fault Refusal := intReg shMinMax f s iMax
/-- IMUL (R401). -/
def execImul (f : RegF) (s : State) : Host.Outcome State Fault Refusal := intReg shAdd f s iMul
/-- IMAD (R401): one exact sum. -/
def execImad (f : RegF) (s : State) : Host.Outcome State Fault Refusal := intReg shMad f s iMad
/-- IMULHI (R401): the high half of the product. -/
def execImulhi (f : RegF) (s : State) : Host.Outcome State Fault Refusal :=
  intReg shMulhi f s fun l => (iarg l 0 * iarg l 1) / ((2 ^ tyW f.ty : Nat) : Int)

/-- IADD with an immediate (R396). -/
def execIaddImm (f : ImmF) (s : State) : Host.Outcome State Fault Refusal := intImm false f s (· + ·)
/-- IADD with an immediate, uniform (R336). -/
def execIaddImmUniform (f : ImmF) (s : State) : Host.Outcome State Fault Refusal := intImm true f s (· + ·)
/-- IMIN with an immediate (R396). -/
def execIminImm (f : ImmF) (s : State) : Host.Outcome State Fault Refusal := intImm false f s min
/-- IMIN with an immediate, uniform (R336). -/
def execIminImmUniform (f : ImmF) (s : State) : Host.Outcome State Fault Refusal := intImm true f s min
/-- IMAX with an immediate (R396). -/
def execImaxImm (f : ImmF) (s : State) : Host.Outcome State Fault Refusal := intImm false f s max
/-- IMAX with an immediate, uniform (R336). -/
def execImaxImmUniform (f : ImmF) (s : State) : Host.Outcome State Fault Refusal := intImm true f s max
/-- IMUL with an immediate (R401). -/
def execImulImm (f : ImmF) (s : State) : Host.Outcome State Fault Refusal := intImm false f s (· * ·)
/-- IMUL with an immediate, uniform (R336). -/
def execImulImmUniform (f : ImmF) (s : State) : Host.Outcome State Fault Refusal := intImm true f s (· * ·)

/-- The sum, carry in and carry out of IADDC (R397). -/
def addc (w a b : Nat) (sub cin : Bool) : Nat × Bool :=
  let y := if sub then 2 ^ w - 1 - b % 2 ^ w else b % 2 ^ w
  let z := a % 2 ^ w + y + boolBit cin
  (z % 2 ^ w, bit z w)

/-- IADDC (R397): C names the predicate that gives and takes the carry. -/
def execIaddc (f : RegF) (s : State) : Host.Outcome State Fault Refusal :=
  let sub := f.opx.getLsbD 0
  let nci := f.opx.getLsbD 1
  aluWord s { regAlu shAddc anyUnit f with psrc := if nci then none else some f.c.toNat, pdst := some f.c.toNat }
    fun l p =>
      let r := addc (tyW f.ty) (arg l 0) (arg l 1) sub (if nci then sub else p)
      { d := r.1, p := some r.2 }

/-- The conditions of an integer compare: 0 to 5 by the type's signedness, 6 to 9 unsigned (R337). -/
def intCond (cc : Nat) (a b : Int) (ua ub : Nat) : Bool :=
  match cc with
  | 0 => a = b
  | 1 => a ≠ b
  | 2 => a < b
  | 3 => a ≤ b
  | 4 => b < a
  | 5 => b ≤ a
  | 6 => ua < ub
  | 7 => ua ≤ ub
  | 8 => ub < ua
  | _ => ub ≤ ua

/-- ICMP (R398). -/
def execIcmp (f : CmpF) (s : State) : Host.Outcome State Fault Refusal :=
  aluWord s (cmpAlu shIcmp anyUnit f) fun l _ =>
    { p := some (intCond f.cc.toNat (intVal f.ty (arg l 0)) (intVal f.ty (arg l 1)) (arg l 0) (arg l 1)) }

/-- ICMP with an immediate (R398). -/
def icmpImmWord (uniform : Bool) (f : CmpiF) (s : State) : Host.Outcome State Fault Refusal :=
  aluWord s (cmpiAlu uniform f) fun l _ =>
    let b := imm29 f.imm
    { p := some (intCond f.cc.toNat (intVal 2#3 (arg l 0)) (intVal 2#3 b) (arg l 0) b) }

def execIcmpImm (f : CmpiF) (s : State) : Host.Outcome State Fault Refusal := icmpImmWord false f s
/-- ICMP with an immediate, uniform (R336, R398). -/
def execIcmpImmUniform (f : CmpiF) (s : State) : Host.Outcome State Fault Refusal := icmpImmWord true f s

/-- A dot product of fields of `w` bits (R399, R431). -/
def dot (w n : Nat) (ua ub : Bool) (a b : Nat) : Int :=
  (List.range n).foldl (fun z i =>
    let x := a / 2 ^ (w * i) % 2 ^ w
    let y := b / 2 ^ (w * i) % 2 ^ w
    z + (if ua then (x : Int) else signed w x) * (if ub then (y : Int) else signed w y)) 0

/-- IDOT4 and QDOT4 (R399, R431). -/
def dotWord (w n : Nat) (f : RegF) (s : State) : Host.Outcome State Fault Refusal :=
  aluWord s (regAlu shDot anyUnit f) fun l _ =>
    intRes 2#3 f.sat (intVal 2#3 (arg l 2) + dot w n (f.opx.getLsbD 0) (f.opx.getLsbD 1) (arg l 0) (arg l 1))

def execIdot4 (f : RegF) (s : State) : Host.Outcome State Fault Refusal := dotWord 8 4 f s
/-- QDOT4 (R431). -/
def execQdot4 (f : RegF) (s : State) : Host.Outcome State Fault Refusal := dotWord 4 8 f s

end Sys2Proof.Machine
end

