-- ==== Sys2Proof/Machine/Access.lean ====
section
/-! DEFINITION. Memory accesses: agents and scopes (R155, R156), race detection (R174 to R182), the checks
of device and scratch accesses (R122, R123, R125, R132, R133, R148), and words that access memory per lane. -/

namespace Sys2Proof.Machine

/-! ### Agents and scopes (R156, R174) -/

def agentHeat (lin q h : Nat) : Nat := lin % 8192 * 512 + q * 32 + h
def agentPacer (lin : Nat) : Nat := 2 ^ 22 + lin % 8192 * 512
def agentQueue (lin q : Nat) : Nat := 2 * 2 ^ 22 + lin % 8192 * 512 + q

def agentKind (a : Nat) : Nat := bits a 23 22
def agentLin (a : Nat) : Nat := bits a 21 9
def agentLow (a : Nat) : Nat := bits a 8 0

/-- The agent number of a unit; a warm-up is not an agent. -/
def State.agentOf (s : State) (u : UnitRef) : Nat :=
  let lin := match s.relayOf u with
    | some rl => rl.linear
    | none => 0
  match u with
  | .heat _ q h => agentHeat lin q h
  | .pacer _ => agentPacer lin
  | .warm _ => 0

/-- Scope `sc` of agent a's access includes agent b (R156): 0 HEAT to 4 SYS. -/
def scopeIncludes (sc a b : Nat) : Bool :=
  match sc with
  | 0 => a = b
  | 1 => a = b || (agentKind a = 0 && agentKind b = 0 && a / 32 = b / 32)
  | 2 => agentKind a < 3 && agentKind b < 3 && agentLin a = agentLin b
  | 3 => agentKind a < 3 && agentKind b < 3
  | _ => true

/-- For scratch and FIFO accesses DEV and SYS act as RELAY (R156). -/
def scratchScope (sc : Nat) : Nat := min sc 2

/-- A key of the race table covers an agent (R175). -/
def RaceKey.covers (k : RaceKey) (a : Nat) : Bool :=
  match k with
  | .agent b => a = b
  | .squad lin q => agentKind a = 0 && agentLin a = lin && agentLow a / 32 = q
  | .relay lin => agentKind a < 2 && agentLin a = lin

/-! ### Race tables (R175) -/

/-- Merge one entry: the larger counts, a new entry, or overflow (steps 6 and 7). -/
def RaceTable.add (t : RaceTable) (k : RaceKey) (n p : Nat) : RaceTable :=
  if t.entries.any (fun e => e.key = k) then
    { t with entries := t.entries.map fun e => if e.key = k then ⟨k, max e.n n, max e.p p⟩ else e }
  else if t.entries.length < 8 then { t with entries := t.entries ++ [⟨k, n, p⟩] }
  else { t with ovf := true }

def RaceTable.merge (t : RaceTable) (l : List RaceEntry) : RaceTable := l.foldl (fun t e => t.add e.key e.n e.p) t

/-- The settled counts of a table; a count of 0 stands for none. -/
def RaceTable.settled (t : RaceTable) : List RaceEntry :=
  (t.entries.filter fun e => e.n ≠ 0).map fun e => ⟨e.key, e.n, 0⟩

/-- What an acquirer takes from an agent: its settled counts, and its own count (step 3). -/
def RaceTable.give (t : RaceTable) (a c : Nat) : List RaceEntry := t.settled ++ [⟨.agent a, c, 0⟩]

/-- Entries taken as pending counts (step 3). -/
def pendingOf (l : List RaceEntry) : List RaceEntry := l.map fun e => ⟨e.key, 0, e.n⟩

/-- Settle the pending counts (step 3). -/
def RaceTable.settle (t : RaceTable) : RaceTable :=
  { t with entries := t.entries.map fun e => ⟨e.key, max e.n e.p, 0⟩ }

/-- The count takes a value by a release at a scope; past 2^32 − 1 it stays there and sets OVF (step 7). -/
def RaceTable.setCount (t : RaceTable) (m scope : Nat) : RaceTable :=
  if 2 ^ 32 ≤ m then { t with count := 2 ^ 32 - 1, ovf := true, rscope := scope }
  else { t with count := m, rscope := scope }

/-- A release: the count rises by 1 (step 1). -/
def RaceTable.release (t : RaceTable) (scope : Nat) : RaceTable := t.setCount (t.count + 1) scope

/-- An entry orders a record before the agent (R176). -/
def RaceTable.orders (t : RaceTable) (r : RaceRec) : Bool :=
  match r.agent with
  | none => true
  | some w => t.entries.any fun e => e.key.covers w && r.count < e.n

/-! ### Locations and their records -/

def Loc.isScr : Loc → Bool
  | .scr _ => true
  | .dev _ _ => false

/-- The record of a sector. -/
def State.record (s : State) (u : UnitRef) (l : Loc) : RaceRec :=
  match l with
  | .dev pa _ => getD recNone s.records (pa / 32)
  | .scr off =>
    match s.relayOf u with
    | some rl => getD recNone rl.records (off / 32)
    | none => recNone

def State.setRecord (s : State) (u : UnitRef) (l : Loc) (r : RaceRec) : State :=
  match l with
  | .dev pa _ => { s with records := setD recNone s.records (pa / 32) r }
  | .scr off =>
    match unitRelay u with
    | some r' => s.modRelay r' fun rl => { rl with records := setD recNone rl.records (off / 32) r }
    | none => s

/-- The bytes of its sector that n bytes at a location touch. -/
def Loc.mask (l : Loc) (n : Nat) : BitVec 32 :=
  let at_ := match l with
    | .dev pa _ => pa
    | .scr off => off
  BitVec.ofNat 32 ((2 ^ n - 1) * 2 ^ (at_ % 32))

def Order.data : Order := ⟨false, false, false, 0⟩

/-- ORD and SCOPE of a word (R333). -/
def orderOf (ord scope : BitVec 3) : Order :=
  ⟨ord ≠ 0#3, ord = 2#3 || ord = 4#3, ord = 3#3 || ord = 4#3, scope.toNat⟩

def Order.at_ (o : Order) (l : Loc) : Order := if l.isScr then { o with scope := scratchScope o.scope } else o

/-- Access scopes of two agents include one another, both marked (R176). -/
def RacePart.agrees (p : RacePart) (o : Order) (a w : Nat) : Bool :=
  o.marked && p.marked && scopeIncludes o.scope a w && scopeIncludes p.ascope w a

/-- Add the bytes of a write to the part of its kind. -/
def addPart (p : RacePart) : List RacePart → List RacePart
  | [] => [p]
  | q :: qs => if q.marked = p.marked && q.ascope = p.ascope then { q with mask := q.mask ||| p.mask } :: qs else q :: addPart p qs

/-- The check of an access (R176): true for a race. Warm-ups and engines are not checked. -/
def State.races (s : State) (u : UnitRef) (x : Strand) (l : Loc) (n : Nat) (o : Order) : Bool :=
  if isWarm u then false
  else
    let r := s.record u l
    let a := s.agentOf u
    match r.agent with
    | none => false
    | some w =>
      !(w = a) && !(s.fieldD u true fun f => f.nodet) && r.epoch = s.fieldD u 0 (fun f => f.epoch) &&
      (r.parts.any fun p => (p.mask &&& l.mask n) ≠ 0#32 && !p.agrees o a w) &&
      !(x.race.orders r) && !x.race.ovf

/-- The race table of an agent of a relay. -/
def Relay.tableOf (rl : Relay) (a : Nat) : Option RaceTable :=
  match agentKind a with
  | 0 => (find rl.heats (agentLow a)).map fun x => x.race
  | 1 => rl.pacer.map fun x => x.race
  | 2 => if agentLow a = 10 then some rl.mqRace else (find rl.queues (agentLow a)).map fun q => q.race
  | _ => none

/-- The race table of an agent of a launch epoch, where the agent still exists. What the writers of a relay that has gone
gave stands in the records that name them: DESIGN CHOICE, entry 97, their tables as the relay left them. -/
def State.agentTable (s : State) (epoch a : Nat) : Option RaceTable :=
  let rl := s.relays.findSome? fun (_, rl) =>
    match find s.fields rl.field with
    | some f => if f.epoch = epoch && rl.linear % 8192 = agentLin a then some rl else none
    | none => none
  rl.bind fun rl => rl.tableOf a

/-! ### The writers before the recorded one (R164, R179) -/

/-- What an acquirer takes of a recorded writer, its table being `t` (step 3). -/
def givesOf (t : Option RaceTable) (w c : Nat) : List RaceEntry :=
  match t with
  | some t => t.give w c
  | none => [⟨.agent w, c, 0⟩]

/-- A link more; what it covers of the same agent goes. -/
def addLink (k : RaceLink) (l : List RaceLink) : List RaceLink :=
  k :: l.filter fun j => j.agent ≠ k.agent || (j.mask &&& ~~~k.mask) ≠ 0#32

/-- The chain of a record with its own writer's marked writes in it, where another agent follows. -/
def RaceRec.links (r : RaceRec) (table : Nat → Option RaceTable) : List RaceLink :=
  match r.agent with
  | none => r.chain
  | some w =>
    let m := (r.parts.filter fun p => p.marked).foldl (fun m p => m ||| p.mask) 0#32
    if m = 0#32 then r.chain else addLink ⟨w, m, r.rscope, givesOf (table w) w r.count⟩ r.chain

/-- A marked write continues the chain, another ends it on its bytes (R164). -/
def chainPast (mask : BitVec 32) (marked : Bool) (l : List RaceLink) : List RaceLink :=
  if marked then l else (l.map fun k => { k with mask := k.mask &&& ~~~mask }).filter fun k => k.mask ≠ 0#32

/-- A record that has gone names nobody; the writes stand, and what their acquirers take (R179, R180). -/
def RaceRec.gone (r : RaceRec) (table : Nat → Option RaceTable) : RaceRec := { recNone with chain := r.links table }

/-- The records of some sectors go. -/
def dropRecs (table : Nat → Nat → Option RaceTable) (p : Nat → Bool) (m : AMap RaceRec) : AMap RaceRec :=
  (m.map fun e => if p e.1 then (e.1, e.2.gone (table e.2.epoch)) else e).filter fun e => e.2 ≠ recNone

/-- A write sets the record of its sector (step 2); with detection off it sets NONE (R182). -/
def State.recordWrite (s : State) (u : UnitRef) (agent epoch : Nat) (nodet : Bool) (t : RaceTable) (l : Loc) (n : Nat)
    (o : Order) : State :=
  let r := s.record u l
  let links := chainPast (l.mask n) o.marked
    (if r.agent = some agent && r.epoch = epoch then r.chain else r.links (s.agentTable r.epoch))
  if nodet then
    s.setRecord u l { recNone with
      chain := if o.marked then addLink ⟨agent, l.mask n, t.rscope, t.give agent t.count⟩ links else links }
  else
    let part : RacePart := ⟨l.mask n, o.marked, if o.marked then o.scope else 0⟩
    let parts := if r.agent = some agent && r.count = t.count && r.epoch = epoch then r.parts else []
    s.setRecord u l ⟨some agent, t.count, epoch, addPart part parts, t.rscope, links⟩

/-- What a marked read of n bytes acquires: of the writer that the record of the sector names (step 3), and of those
before it whose writes of these bytes only marked ones have followed (R164). -/
def State.acquired (s : State) (u : UnitRef) (l : Loc) (n : Nat) (o : Order) : List RaceEntry :=
  let r := s.record u l
  let a := s.agentOf u
  let pairs (w scope : Nat) : Bool := o.marked && scopeIncludes o.scope a w && scopeIncludes scope w a
  let last := match r.agent with
    | some w => if pairs w r.rscope then givesOf (s.agentTable r.epoch w) w r.count else []
    | none => []
  last ++ r.chain.flatMap fun k => if (k.mask &&& l.mask n) ≠ 0#32 && pairs k.agent k.rscope then k.gives else []

/-- The reader's table after a marked read: settled for an acquire, pending for a relaxed one. -/
def RaceTable.take (t : RaceTable) (o : Order) (l : List RaceEntry) : RaceTable :=
  t.merge (if o.acq then l else pendingOf l)

/-! ### Scratch and the FIFO window (R122, R142, R148) -/

def fifoBase : Nat := 0x800000
def fifoEnd : Nat := 0xC00000
def bankBytes : Nat := 0x20000

def Relay.bank (rl : Relay) (k : Nat) : Bank := (find rl.banks k).getD bankInit
def Relay.page (rl : Relay) (n : Nat) : Page := getD pageInit rl.pages n
def Relay.setPage (rl : Relay) (n : Nat) (p : Page) : Relay := { rl with pages := setD pageInit rl.pages n p }

/-- The n bytes of scratch or FIFO storage at an offset, little-endian. -/
def Relay.readScr (rl : Relay) (off : Nat) : Nat → Nat
  | 0 => 0
  | n + 1 => (getD 0#8 rl.scratch off).toNat + 256 * Relay.readScr rl (off + 1) n

def writeBytes (m : AMap Byte) (off : Nat) : Nat → Nat → AMap Byte
  | 0, _ => m
  | n + 1, v => writeBytes (setD 0#8 m off (BitVec.ofNat 8 v)) (off + 1) n (v / 256)

def Relay.writeScr (rl : Relay) (off n v : Nat) : Relay := { rl with scratch := writeBytes rl.scratch off n v }

/-- The bank in which an offset stands, a FIFO bank or the one of a resident page's frame, is still being zeroed (R141,
R154). -/
def Relay.inTransition (rl : Relay) (off : Nat) : Bool :=
  let p := rl.page (off / 4096)
  if off < fifoBase then p.resident && (rl.bank (p.frame / 32)).busy else (rl.bank ((off - fifoBase) / bankBytes)).busy

/-- An access touches its page: the recency the eviction choice uses (R143). -/
def Relay.touch (rl : Relay) (off : Nat) (dirty : Bool) : Relay :=
  if off < fifoBase then
    let p := rl.page (off / 4096)
    { rl.setPage (off / 4096) { p with last := rl.pageClock + 1, dirty := p.dirty || dirty } with
      pageClock := rl.pageClock + 1 }
  else rl

/-- The causes of n bytes at a scratch offset (R122, R123); `mode` asks for FIFO mode too (R148). -/
def State.scrCauses (s : State) (u : UnitRef) (off : Int) (n : Nat) (mode : Bool) : List Nat :=
  let rounded := s.fieldD u 0 scratchRounded
  let o := off.toNat
  let inScr := 0 ≤ off && o < rounded
  let inFifo := fifoBase ≤ o && o < fifoEnd
  (if inScr || inFifo then [] else [0x13]) ++ (if off % (n : Int) = 0 then [] else [0x12]) ++
  (if mode && inFifo then
    match s.relayOf u with
    | some rl => if (rl.bank ((o - fifoBase) / bankBytes)).mode = .fifo then [] else [0x18]
    | none => [0x18]
  else [])

/-! ### Plans of accesses -/

/-- What one lane's access meets: causes, or its location; `wait` while an operand is unverified or a
warm-up's page is unmapped, `page` while a scratch page is not resident. -/
structure Plan where
  causes : List Nat := []
  fva : Nat := 0
  /-- an access to device memory (R248) -/
  dev : Bool := false
  replay : Bool := false
  loc : Option Loc := none
  wait : Bool := false
  page : Option Nat := none
deriving DecidableEq, Repr

/-- An access at a checked virtual address (R132, R133), with the race check (R176). -/
def State.vaPlan (s : State) (u : UnitRef) (x : Strand) (va n : Nat) (store : Bool) (o : Order) (check : Bool) : Plan :=
  match s.translate u va store with
  | .cause k => { causes := [k], fva := va, dev := true }
  | .busy => { wait := true, fva := va, dev := true }
  | .miss =>
    if isWarm u then { wait := true, fva := va, dev := true }
    else { causes := [0x10], fva := va, dev := true, replay := true }
  | .hit pa e =>
    let l : Loc := .dev pa e.attr
    { wait := s.beingZeroed pa, causes := if check && s.races u x l n o then [0x15] else [], fva := va, dev := true,
      loc := some l }

/-- A device access through a capability (R125), then its translation. -/
def State.devPlan (s : State) (u : UnitRef) (x : Strand) (c : Cap) (off : Int) (n : Nat) (perm : Perm) (store : Bool)
    (o : Order) (check : Bool) : Plan :=
  let cs := capCauses c off n perm
  if cs.isEmpty then s.vaPlan u x (capVa c off) n store o check else { causes := cs, fva := capVa c off, dev := true }

/-- A scratch or FIFO-window access (R122, R123, R143, R148), with the race check. -/
def State.scrPlan (s : State) (u : UnitRef) (x : Strand) (off : Int) (n : Nat) (o : Order) : Plan :=
  let cs := s.scrCauses u off n true
  if !cs.isEmpty then { causes := cs, fva := off.toNat }
  else
    let l : Loc := .scr off.toNat
    let page := match s.relayOf u with
      | some rl => if off.toNat < fifoBase && !(rl.page (off.toNat / 4096)).resident then some (off.toNat / 4096) else none
      | none => none
    { causes := if s.races u x l n (o.at_ l) then [0x15] else [], fva := off.toNat, loc := some l, page := page,
      wait := (s.relayOf u).any fun rl => rl.inTransition off.toNat }

/-- Add what the registers of the word give: earlier causes, poison, and waiting for verification: an operand not
verified yet lets nothing of the access out, a cause of its address neither (R261). -/
def Plan.checked (p : Plan) (named : List Nat) (ts : List Taint) : Plan :=
  if named.isEmpty && mustVerify ts then { wait := true, fva := p.fva }
  else { p with causes := named ++ poisonCause ts ++ p.causes }

/-- The poison of the predicate by which a lane accesses memory or not, as an operand of the access (R260, R261). -/
def Plan.guarded (p : Plan) (runs : Bool) (t : Taint) : Plan :=
  match t with
  | .clean => p
  | .poisoned => { p with causes := (if runs then p.causes else []) ++ [0x16], wait := false, page := none }
  | .unverified _ => { wait := true, fva := p.fva }

/-! ### Performing accesses -/

def State.readLoc (s : State) (u : UnitRef) (l : Loc) (n : Nat) : Nat :=
  match l with
  | .dev pa _ => s.readMem pa n
  | .scr off =>
    match s.relayOf u with
    | some rl => rl.readScr off n
    | none => 0

/-- The number of a read of a 64-byte line, by which its verification names it (R261). -/
def readId (tick pa : Nat) : Nat := tick * 2 ^ 48 + pa / 64

/-- Data of a page with integrity may be forwarded before its verification ends: whether it is, is open (R261). -/
def State.loadTaint (s : State) (l : Loc) : Taint :=
  match l with
  | .dev pa attr => if attr = 2#2 && s.freeNat 3 % 2 = 1 then .unverified [readId s.tick pa] else .clean
  | .scr _ => .clean

def State.writeLoc (s : State) (u : UnitRef) (l : Loc) (n v : Nat) : State :=
  match l with
  | .dev pa _ => s.store pa n v
  | .scr off =>
    match unitRelay u with
    | some r => s.modRelay r fun rl => rl.writeScr off n v
    | none => s

def State.touchLoc (s : State) (u : UnitRef) (l : Loc) (dirty : Bool) : State :=
  match l, unitRelay u with
  | .scr off, some r => s.modRelay r fun rl => rl.touch off dirty
  | _, _ => s

/-- A slice that serves accesses: in service, and not the one of its group in rotation, whose place another takes
(R21, R22, R258). -/
def State.serves (s : State) (i : Nat) : Bool :=
  ((find s.slices i).getD sliceInit).present && !(s.rot.any fun e => e.2.slices && e.2.current = i && e.2.members.contains i)

/-- The slice that serves an address: which of those in service it is, is open. -/
def State.sliceFor (s : State) (pa : Nat) : Option Nat :=
  let i := s.freeNat (1000 + pa / 64)
  ((List.range 256).map fun k => (i + k) % 256).find? s.serves

/-- The slice that serves an address is drawn on by a field (R257). -/
def State.drawSlice (s : State) (fid pa : Nat) : State :=
  match s.sliceFor pa with
  | some i =>
    let passes := ((find s.slices i).getD sliceInit).passes
    { s with fields := modify s.fields fid fun f =>
        { f with used := f.used.filter (fun e => e.1 ≠ .slice i) ++ [(.slice i, passes)] } }
  | none => s

/-- A slice that serves an access is drawn on by the field (R257). -/
def State.useSlice (s : State) (u : UnitRef) (l : Loc) : State :=
  match l, s.relayOf u with
  | .dev pa _, some rl => s.drawSlice rl.field pa
  | _, _ => s

/-- Where the bytes of a scratch offset stand in backing (R142). -/
def Relay.backingAt (rl : Relay) (off : Nat) : Nat := rl.backing.frames.getD (off / 65536) 0 * 65536 + off % 65536

/-- The pages that come in from backing, or go to it dirty, between two states of a relay. -/
def Relay.pagesMoved (rl0 rl1 : Relay) : List Nat :=
  (rl0.pages.filter fun e => e.2.resident && e.2.dirty && !(rl1.page e.1).resident).map (fun e => e.1) ++
  (rl1.pages.filter fun e => e.2.resident && !(rl0.page e.1).resident).map fun e => e.1

/-- A relay changes, and the slices that serve its backing are drawn on as its pages move (R143, R257). -/
def State.paged (s : State) (r : Nat) (rl1 : Relay) : State :=
  match find s.relays r with
  | none => s
  | some rl0 =>
    (rl0.pagesMoved rl1).foldl (fun s n =>
      (List.range 64).foldl (fun s k => s.drawSlice rl1.field (rl1.backingAt (4096 * n + 64 * k))) s)
      { s with relays := put s.relays r rl1 }

/-- A read by a unit: the value, and what it acquires. -/
def State.doRead (s : State) (u : UnitRef) (x : Strand) (l : Loc) (n : Nat) (o : Order) : State × Strand × Nat × Taint :=
  let o' := o.at_ l
  let v := s.readLoc u l n
  let t := if o'.marked && !isWarm u then x.race.take o' (s.acquired u l n o') else x.race
  ((s.touchLoc u l false).useSlice u l, { x with race := t }, v, s.loadTaint l)

/-- A write by a unit: the release's count, the bytes, the record, one access in flight (R175, R389). DESIGN CHOICE,
entry 8: each lane's release raises the agent's count once, so a word of several lanes raises it as often. -/
def State.doWrite (s : State) (u : UnitRef) (x : Strand) (l : Loc) (n v : Nat) (o : Order) : State × Strand :=
  let o' := o.at_ l
  let t := if o'.rel then x.race.release o'.scope else x.race
  let s1 := (s.writeLoc u l n v).touchLoc u l true
  let s2 := s1.recordWrite u (s.agentOf u) (s.fieldD u 0 fun f => f.epoch) (s.fieldD u true fun f => f.nodet) t l n o'
  (s2.useSlice u l, { x with race := t, inflight := x.inflight + 1 })

/-! ### Words that access memory per lane -/

/-- One lane's act: the state, the unit, and the registers written. -/
abbrev LaneAct := State → Strand → Nat → Loc → State × Strand × List (Nat × Reg)

/-- Act in the lanes of a list, ascending (R353, R454). -/
def actLanes (act : LaneAct) (plan : Nat → Plan) : List Nat → State → Strand → State × Strand × AMap (List (Nat × Reg))
  | [], s, x => (s, x, [])
  | i :: is, s, x =>
    match (plan i).loc with
    | some l =>
      let r := act s x i l
      let rest := actLanes act plan is r.1 r.2.1
      (rest.1, rest.2.1, (i, r.2.2) :: rest.2.2)
    | none => actLanes act plan is s x

def planOut (p : Plan) : LaneOut := { laneNone with causes := p.causes, fva := p.fva, replay := p.replay, dev := p.dev }

/-- Walks of the lanes that missed the caches (R133), one for each page of a fragment. -/
def State.queueWalks (s : State) (u : UnitRef) (store : Bool) (fs : List LaneFault) : State :=
  fs.foldl (fun s f =>
    match f.replay, s.strand u, s.fieldOf u with
    | true, some x, some fd =>
      match (x.lane f.lane).frag with
      | some fid =>
        if s.walks.any (fun e => e.2.who = .fragment u fid && e.2.va / 65536 = f.fva / 65536) then s
        else { s with
          walks := put s.walks s.nextId ⟨fd.ctx, f.fva, store, .fragment u fid, false, false⟩, nextId := s.nextId + 1 }
      | none => s
    | _, _, _ => s) s

/-- A request of this asker for the page of an address. -/
def Walk.isFor (w : Walk) (who : Asker) (va : Nat) : Bool := w.who = who && w.va / 65536 = va / 65536

/-- Put a page to the host (R133). -/
def State.ask (s : State) (who : Asker) (ctx va : Nat) (store : Bool) : State :=
  if s.walks.any (fun e => e.2.isFor who va) then s
  else { s with walks := put s.walks s.nextId ⟨ctx, va, store, who, true, false⟩, nextId := s.nextId + 1 }

/-- A warm-up whose page is not mapped asks the host and waits (R480). -/
def State.askWarm (s : State) (u : UnitRef) (va : Nat) : State :=
  match s.fieldOf u, u with
  | some f, .warm q => if s.translate u va false = .miss then s.ask (.warm q) f.ctx va false else s
  | _, _ => s

/-- Translate for an engine or the front end: a miss puts the page to the host and waits, and storage still being zeroed is
waited for (R154); a page the host has declined is unmapped (R206, R421, R480). -/
def State.seek (s : State) (who : Asker) (ctx va : Nat) (store : Bool) : State × Trans :=
  let rest := { s with walks := s.walks.filter fun e => !e.2.isFor who va }
  match s.translateCtx ctx va store with
  | .miss =>
    if s.walks.any (fun e => e.2.isFor who va && e.2.declined) then (rest, .cause 0x10)
    else (s.ask who ctx va store, .miss)
  | .hit pa e => if s.beingZeroed pa then (s, .miss) else (rest, .hit pa e)
  | .busy => (s, .miss)
  | t => (rest, t)

/-- The plan of a lane that faults nowhere and waits for verification or a page. -/
def Plan.waits (p : Plan) : Bool := p.causes.isEmpty && (p.wait || p.page.isSome)

/-- The unit waits at the word: for a scratch page, for a warm-up's page, or for a verification, before which nothing is
asked for (R261). -/
def State.waitFor (s : State) (u : UnitRef) (p : Plan) : State :=
  match p.page with
  | some n => s.modStrand u fun x => { x with waiting := .page n }
  | none => if isWarm u && p.dev then s.askWarm u p.fva else s

/-- SR.RACE names the writer of the race last reported (R178). Which report of one word is the last, R178 does not say:
DESIGN CHOICE, the highest lane's (log, entry 8). -/
def State.noteRace (s : State) (u : UnitRef) (x : Strand) (plan : Nat → Plan) (fs : List LaneFault) : Strand :=
  fs.foldl (fun (x : Strand) f =>
    if f.cause = 0x15 then
      match (plan f.lane).loc with
      | some l =>
        match (s.record u l).agent with
        | some w => { x with race := { x.race with wv := true, wagent := BitVec.ofNat 24 w } }
        | none => x
      | none => x
    else x) x

/-- A word that accesses memory in each executing lane; a lane whose predicate is poisoned faults (R261). DESIGN CHOICE,
entry 95: it waits for one scratch page after another, so that of a word that touches more pages than there are frames one
page may put out another, and the word not issue (R143). -/
def State.memWord (s : State) (F : Focus) (x : Strand) (info : WordInfo) (d : Dests) (store : Bool) (lanePlan : Nat → Plan)
    (act : LaneAct) : State :=
  let runs := execLanes x F.lanes info.pred
  let e := effectLanes x F.lanes info.pred
  let plan (i : Nat) : Plan := (lanePlan i).guarded (runs.getLsbD i) ((x.lane i).predTaint info.pred)
  match (lanesOf e).find? fun i => (plan i).waits with
  | some i => s.waitFor F.unit (plan i)
  | none =>
    let fs := faultsOf e fun i => planOut (plan i)
    let r := actLanes act plan (lanesOf (okLanes x e fs)) s x
    let out (i : Nat) : LaneOut := { planOut (plan i) with v := (find r.2.2 i).getD [] }
    let s1 := r.1.finish F (s.noteRace F.unit r.2.1 plan fs) info d e out []
    if F.handler.isSome then s1 else s1.queueWalks F.unit store fs

end Sys2Proof.Machine
end

