-- ==== Sys2Proof/Machine/Waits.lean ====
section
/-! DEFINITION. What held lanes wait for, and the joint completion of barriers and rendezvous (R44, R57, R63,
R77, R80, R167, R172, R175, R185, R357, R358, R434). -/

namespace Sys2Proof.Machine

/-- Uses that escalate a fragment in handler mode (R76). -/
def handlerBars (F : Focus) : List Nat := if F.handler.isSome then [0x0C] else []

/-- Held lanes complete: LPC moves past the waiting word (R57). -/
def Strand.pass (x : Strand) (m : List Nat) : Strand :=
  x.mapLanes m fun _ l => { l with held := none, lpc := l.lpc + 1#32 }

/-- Some parked lane stands below a word (R63). -/
def Strand.parkedBelow (x : Strand) (pc : Word32) : Bool :=
  laneIds.any fun i => (x.lane i).ls = .parked && (x.lane i).lpc.toNat < pc.toNat

/-- Every lane of the unit has exited. -/
def Strand.allExited (x : Strand) : Bool := laneIds.all fun i => (x.lane i).ls = .exited

/-- The heats of a squad. -/
def Relay.squadHeats (rl : Relay) (q : Nat) : AMap Strand := rl.heats.filter fun e => e.1 / 32 = q

def Relay.mapHeats (rl : Relay) (p : Nat → Bool) (f : Nat → Strand → Strand) : Relay :=
  { rl with heats := rl.heats.map fun e => if p e.1 then (e.1, f e.1 e.2) else e }

/-! ### Barriers (R357, R358, R434) -/

/-- A barrier: of a squad, or of the relay. -/
inductive BarId where
  | squad (q n : Nat)
  | relay
deriving DecidableEq, Repr

/-- The heats a barrier covers, by their key. -/
def BarId.covers (b : BarId) (key : Nat) : Bool :=
  match b with
  | .squad q _ => key / 32 = q
  | .relay => true

def BarId.arrived (b : BarId) (l : Lane) : Bool :=
  match b with
  | .squad _ n => l.arrived.getLsbD n
  | .relay => l.arrivedR

def BarId.setArrived (b : BarId) (l : Lane) : Lane :=
  match b with
  | .squad _ n => { l with arrived := l.arrived ||| (1#16 <<< n) }
  | .relay => { l with arrivedR := true }

def BarId.clearArrived (b : BarId) (l : Lane) : Lane :=
  match b with
  | .squad _ n => { l with arrived := l.arrived &&& ~~~(1#16 <<< n) }
  | .relay => { l with arrivedR := false }

def BarId.holds (b : BarId) (h : Hold) : Bool :=
  match b with
  | .squad _ n => h = .bar n || h = .barw n
  | .relay => h = .rbar

/-- The number under which a heat remembers a deferred group entry (R175, step 4); RBAR has none. -/
def BarId.num : BarId → Option Nat
  | .squad _ n => some n
  | .relay => none

/-- The number under which a heat keeps what its latest arrival found. -/
def BarId.slot : BarId → Nat
  | .squad _ n => n
  | .relay => 16

/-- Lanes arrive: the release covers what the heat had acquired before (R167, R358). -/
def Strand.arrive (x : Strand) (b : BarId) (m : List Nat) : Strand :=
  let x1 := x.mapLanes m fun _ l => b.setArrived l
  if m.isEmpty then x1 else { x1 with arrivals := put x1.arrivals b.slot x1.race.settled }

/-- What a heat's arrivals at a barrier hand on. -/
def Strand.arrivalGives (x : Strand) (b : BarId) : List RaceEntry := (find x.arrivals b.slot).getD []

def BarId.key (b : BarId) (lin : Nat) : RaceKey :=
  match b with
  | .squad q _ => .squad (lin % 8192) q
  | .relay => .relay (lin % 8192)

/-- The phase is complete: some lane has arrived, and no non-exited lane has not; a parked lane has not (R44). -/
def Relay.phaseDone (rl : Relay) (b : BarId) : Bool :=
  let l := (rl.heats.filter fun e => b.covers e.1).flatMap fun e => laneIds.map fun i => e.2.lane i
  l.any (fun l => l.ls ≠ .exited && b.arrived l) &&
    l.all fun l => l.ls = .exited || (l.ls ≠ .parked && b.arrived l)

/-- A heat completes BARW or BAR on barrier n: it takes the group entries it was owed (R175, step 4). -/
def RaceTable.takeDeferred (t : RaceTable) (n : Nat) : RaceTable :=
  { t.merge ((t.deferred.filter fun e => e.1 = n).map fun e => e.2) with
    deferred := t.deferred.filter fun e => e.1 ≠ n }

/-- The race table of a heat at a completed phase: the count m, and the group entry at once, or held back until
the heat's next BARW or BAR (R175, step 4). The group entry covers what the arrived heats wrote; what they had acquired of
other agents, which R165 to R167 order as well, goes with it in `settled` (log 8). -/
def barrierRace (t : RaceTable) (key : RaceKey) (m : Nat) (heldHere : Bool) (num : Option Nat) (settled : List RaceEntry) :
    RaceTable :=
  -- the phase is a release at SQUAD scope, of RBAR at RELAY scope (R167)
  let t1 := t.setCount m (if num.isSome then 1 else 2)
  let l : List RaceEntry := ⟨key, m, 0⟩ :: settled
  match num with
  | some n =>
    if heldHere then (t1.takeDeferred n).merge l else { t1 with deferred := t1.deferred ++ l.map fun e => (n, e) }
  | none => t1.merge l

/-- Complete the phase of a barrier (R357, R434): arrived bits clear, held lanes pass, counts clear. -/
def Relay.complete (rl : Relay) (b : BarId) : Relay :=
  let has (x : Strand) : Bool := laneIds.any fun i => b.arrived (x.lane i)
  let here := rl.heats.filter fun e => b.covers e.1 && has e.2
  let m := (here.map fun e => e.2.race.count).foldl max 0 + 1
  let settled := here.flatMap fun e => e.2.arrivalGives b
  let pacer := match b, rl.pacer with
    | .relay, some x => x.race.give (agentPacer rl.linear) x.race.count
    | _, _ => []
  rl.mapHeats b.covers fun _ x =>
    let held := laneIds.filter fun i => match (x.lane i).held with
      | some h => b.holds h
      | none => false
    let x1 : Strand := if has x then
      { x with race := barrierRace x.race (b.key rl.linear) m (!held.isEmpty) b.num (settled ++ pacer) } else x
    let x2 := x1.mapLanes laneIds fun _ l => b.clearArrived l
    { x2.pass held with count := 0, arrivals := del x2.arrivals b.slot }

/-- Complete the barrier where its phase is complete. -/
def Relay.tryBar (rl : Relay) (b : BarId) : Relay := if rl.phaseDone b then rl.complete b else rl

/-! ### Rendezvous (R185) -/

def isRdv : Hold → Bool
  | .rdv _ => true
  | _ => false

def Lane.atRdv (l : Lane) : Bool :=
  match l.held with
  | some h => isRdv h
  | none => false

def Strand.rdvLanes (x : Strand) : List Nat := laneIds.filter fun i => (x.lane i).atRdv

/-- The pacer waits at an RDV. -/
def Relay.pacerAtRdv (rl : Relay) : Bool :=
  match rl.pacer with
  | some x => (x.lane 0).atRdv
  | none => false

/-- The rendezvous completes: the pacer is at RDV, and so is every non-exited lane of the relay. -/
def Relay.rdvDone (rl : Relay) : Bool :=
  rl.pacerAtRdv && rl.heats.all fun e => laneIds.all fun i => (e.2.lane i).ls = .exited || (e.2.lane i).atRdv

/-- Release all parties; they exchange their releases (R172). Which counts and entries carry that, R175 does not say:
DESIGN CHOICE (log, entry 8), every party's count becomes one more than the largest, a release at RELAY scope; every party
takes the group entry of the relay and the settled entries of the others. -/
def Relay.completeRdv (rl : Relay) : Relay :=
  let here := (rl.heats.filter fun e => !e.2.rdvLanes.isEmpty).map fun e => e.2.race.count
  let pc := match rl.pacer with
    | some x => x.race.count
    | none => 0
  let m := max (here.foldl max 0) pc + 1
  let key : RaceKey := .relay (rl.linear % 8192)
  let join (x : Strand) : RaceTable := (x.race.setCount m 2).add key m 0
  let settled := rl.heats.flatMap (fun e => if e.2.rdvLanes.isEmpty then [] else e.2.race.settled) ++
    (match rl.pacer with
     | some x => x.race.settled
     | none => [])
  let go (x : Strand) : Strand :=
    if x.rdvLanes.isEmpty then x else { x.pass x.rdvLanes with race := (join x).merge settled }
  { rl.mapHeats (fun _ => true) fun _ x => go x with
    pacer := rl.pacer.map go, pacerState := .running, rdvTag := none }

def Relay.tryRdv (rl : Relay) : Relay := if rl.rdvDone then rl.completeRdv else rl

/-- After lanes of squad q arrive or leave, what they alone kept waiting completes in the same cycle (R77, R357). -/
def Relay.settleBars (rl : Relay) (q : Nat) : Relay :=
  ((List.range 16).foldl (fun rl n => rl.tryBar (.squad q n)) rl).tryBar .relay |>.tryRdv

/-- Lanes that were held and have completed their word stop where their context is single-stepped (R254). -/
def State.stepReleased (s : State) (u : UnitRef) (before : Strand) : State :=
  match s.strand u with
  | some x =>
    let fs := laneIds.filterMap fun i =>
      if (before.lane i).held.isSome && (x.lane i).candidate then some (⟨i, 0x48, 0, false⟩ : LaneFault) else none
    if s.stepping ⟨u, 0#32, none⟩ then s.stepStop u fs else s
  | none => s

/-- The lanes of a single-stepped word stop once what the unit waited for has come (R254, R389). -/
def State.stepWaited (s : State) (u : UnitRef) : State :=
  match s.strand u with
  | none => s
  | some x =>
    if x.stepped = 0#32 || x.waiting ≠ .none then s
    else
      let s1 := s.setStrand u { x with stepped := 0#32 }
      if s.stepping ⟨u, 0#32, none⟩ then s1.stepStop u (stepStops x x.stepped) else s1

/-- Change a relay so that held lanes may complete. -/
def State.release (s : State) (r : Nat) (f : Relay → Relay) : State :=
  match find s.relays r with
  | none => s
  | some rl => rl.heats.foldl (fun s e => s.stepReleased (.heat r (e.1 / 32) (e.1 % 32)) e.2) (s.modRelay r f)

def State.settleBars (s : State) (u : UnitRef) : State :=
  match u with
  | .heat r q _ => s.release r fun rl => rl.settleBars q
  | .pacer r => s.release r fun rl => rl.tryRdv
  | .warm _ => s

/-! ### Squads and relays that have run out (R45, R183) -/

/-- The pacer drains until every entry it placed has completed (R183). -/
def Relay.drain (rl : Relay) : Relay :=
  if rl.pacerState = .draining && !rl.mq.any (fun it => match it with
      | .entry _ => true
      | .marker _ => false) then { rl with pacerState := .idle } else rl

/-- The pacer's lane exits: draining, and heats held at RDV fault under 0x56 (R185, R377), those of a relay out of residency
once it stands on a core again. -/
def State.pacerExit (s : State) (r : Nat) : State :=
  let s1 := s.modRelay r fun rl => ({ rl with pacerState := .draining, rdvTag := none } : Relay).drain
  match find s1.relays r with
  | none => s1
  | some rl =>
    if rl.place.isNone then s1
    else
      rl.heats.foldl (fun s e =>
        let u : UnitRef := .heat r (e.1 / 32) (e.1 % 32)
        s.takeFaults u none (e.2.rdvLanes.map fun i => ⟨i, 0x56, 0, false⟩)) s1

/-! ### A failure recorded in SR.MQERR (R195) -/

/-- The cause under which the pacer's next matrix word, MCOMMIT, MWAIT, RDV or EXIT faults. -/
def State.mqCause (s : State) (F : Focus) : List Nat :=
  match F.unit with
  | .pacer r =>
    match find s.relays r with
    | some rl => if rl.mqerr.getLsbD 31 && !rl.mqParked then [bits rl.mqerr.toNat 30 24] else []
    | none => []
  | _ => []

/-- Remember that the pacer's fragment is the failure's. -/
def State.markMq (s : State) (F : Focus) (on : Bool) : State :=
  match F.unit with
  | .pacer r => if on then s.modRelay r fun rl => { rl with mqParked := true } else s
  | _ => s

end Sys2Proof.Machine
end

