-- ==== Sys2Proof/Machine/Control.lean ====
section
/-! DEFINITION. Control flow within a unit: NOP, branches, RECONV, YIELD and BKPT (R60 to R66, R81, R240,
R254, R360, R362, R363, R425, R436, R439, R466). -/

namespace Sys2Proof.Machine

/-- The causes of a word that names its predicate only. -/
def bareCauses (s : State) (F : Focus) (x : Strand) (runs : Runs) (p : Pred) (i : Nat) : List Nat :=
  unitCauses F.unit runs ++ namedCauses s F.unit x i ⟨[], [], predNamed p⟩

def nilInfo (f : NilF) : WordInfo := ⟨f.pred, 0, 1, 1⟩
def immInfo (f : ImmF) : WordInfo := ⟨f.pred, 0, 1, 1⟩

/-- NOP. -/
def execNop (f : NilF) (s : State) : Host.Outcome State Fault Refusal :=
  withUnit s fun F x =>
    s.finish F x (nilInfo f) ⟨[], [], []⟩ (execLanes x F.lanes f.pred)
      (fun i => laneFaults (bareCauses s F x anyUnit f.pred i)) []

/-! ### Branches -/

/-- The address of the word a lane executes: its LPC, or the handler's program counter (R74). -/
def wordAt (x : Strand) (F : Focus) (i : Nat) : Word32 :=
  match F.handler with
  | some fid =>
    match find x.frags fid with
    | some fr =>
      match fr.phase with
      | .handler pc _ => pc
      | _ => (x.lane i).lpc
    | none => (x.lane i).lpc
  | none => (x.lane i).lpc

/-- Rules 1, 2 and 4 of R66 after a taken backward branch outside next-group mode. -/
def Strand.streakUp (x : Strand) : Strand :=
  if x.streak + 1 < 16 then { x with streak := x.streak + 1 }
  else
    let pcs := x.candidates.map fun i => (x.lane i).lpc.toNat
    match pcs.min? with
    | none => { x with streak := 0 }
    | some lo =>
      match (pcs.filter fun p => lo < p).min? with
      | none => { x with streak := 0 }
      | some nx =>
        { x with streak := 16, nextMode := true,
                 group := laneSet fun i => (x.lane i).candidate && (x.lane i).lpc.toNat = nx }

/-- A taken backward branch (R66). -/
def Strand.backward (x : Strand) (was : Bool) : Strand :=
  if was then { x with nextMode := false, streak := 0, group := 0#32 } else x.streakUp

/-- The unit is a heat of a field launched concurrent. -/
def State.concurrent (s : State) (u : UnitRef) : Bool := isHeat u && s.fieldD u false fun f => f.mode = 2

/-- A branch word: `out` gives each executing lane its target, causes and return stack; `ts` the poison of the
operands it decides by. A bound group must stay at one LPC (R81). -/
def State.branchWord (s : State) (F : Focus) (x : Strand) (info : WordInfo) (ts : Nat → List Taint)
    (out : Nat → LaneOut) : State :=
  let p := info.pred
  let ex := execLanes x F.lanes p
  let e := effectLanes x F.lanes p
  let taints (i : Nat) : List Taint := (x.lane i).predTaint p :: (if ex.getLsbD i then ts i else [])
  if (lanesOf e).any fun i => mustVerify (taints i) then s
  else
    let next (i : Nat) : Word32 := if ex.getLsbD i then nextPc (x.lane i) (out i) info.size else (x.lane i).lpc + 1#32
    let after (j : Nat) : Word32 := if F.lanes.getLsbD j then next j else (x.lane j).lpc
    let splits (i : Nat) : Bool := x.g ≠ 0#3 && F.handler.isNone &&
      (span (i / groupSize x * groupSize x) (groupSize x)).any fun j => (x.lane j).ls ≠ .exited && after j ≠ next i
    let o (i : Nat) : LaneOut :=
      let b := if ex.getLsbD i then out i else laneNone
      { b with causes := b.causes ++ poisonCause (taints i) ++ (if splits i then [0x40] else []) }
    let s1 := s.finish F x info ⟨[], [], []⟩ e o []
    let taken := (lanesOf (okLanes x e (faultsOf e o))).any fun i =>
      ex.getLsbD i && (next i).toNat < (x.lane i).lpc.toNat
    if taken && F.handler.isNone && s.concurrent F.unit then s1.modStrand F.unit fun y => y.backward x.nextMode else s1

/-- The target must lie in the code object (R363). -/
def targetCauses (codew : Nat) (t : Int) : List Nat := if t < 0 || (codew : Int) ≤ t then [0x0B] else []

/-- BRA (R363). -/
def execBra (f : JmpF) (s : State) : Host.Outcome State Fault Refusal :=
  withUnit s fun F x =>
    s.branchWord F x ⟨f.pred, 0, 1, 1⟩ (fun _ => []) fun i =>
      let t : Int := (wordAt x F i).toNat + f.off.toInt
      { laneNone with
        causes := bareCauses s F x anyUnit f.pred i ++ targetCauses (s.codeW F.unit) t,
        pc := some (BitVec.ofInt 32 t) }

/-- BRX (R362): the register holds the word offset. -/
def execBrx (f : RegF) (s : State) : Host.Outcome State Fault Refusal :=
  withUnit s fun F x =>
    let a (i : Nat) := readOpd x i f.sa f.a.toNat 1
    let nm : Named := if f.sa then ⟨[], [f.a.toNat], predNamed f.pred⟩ else ⟨[f.a.toNat], [], predNamed f.pred⟩
    s.branchWord F x (regInfo f) (fun i => [(a i).taint]) fun i =>
      { laneNone with
        causes := unitCauses F.unit {} ++ namedCauses s F.unit x i nm ++ targetCauses (s.codeW F.unit) (a i).val,
        pc := some (BitVec.ofNat 32 (a i).val) }

/-- CALL (R363). -/
def execCall (f : JmpF) (s : State) : Host.Outcome State Fault Refusal :=
  withUnit s fun F x =>
    s.branchWord F x ⟨f.pred, 0, 1, 1⟩ (fun _ => []) fun i =>
      let t : Int := (wordAt x F i).toNat + f.off.toInt
      let st := (x.lane i).stack
      { laneNone with
        causes := bareCauses s F x {} f.pred i ++ targetCauses (s.codeW F.unit) t ++
          (if 16 ≤ st.length then [0x44] else []),
        pc := some (BitVec.ofInt 32 t), stack := some ((wordAt x F i + 1#32) :: st) }

/-- RET (R439). -/
def execRet (f : NilF) (s : State) : Host.Outcome State Fault Refusal :=
  withUnit s fun F x =>
    s.branchWord F x (nilInfo f) (fun _ => []) fun i =>
      match (x.lane i).stack with
      | [] => laneFaults (bareCauses s F x {} f.pred i ++ [0x45])
      | t :: st =>
        { laneNone with
          causes := bareCauses s F x {} f.pred i ++ targetCauses (s.codeW F.unit) t.toNat,
          pc := some t, stack := some st }

/-! ### RECONV, YIELD -/

/-- RECONV (R63, R436). -/
def execReconv (f : NilF) (s : State) : Host.Outcome State Fault Refusal :=
  withUnit s fun F x =>
    s.finish F x (nilInfo f) ⟨[], [], []⟩ (execLanes x F.lanes f.pred) (fun i =>
      { laneNone with
        causes := bareCauses s F x {} f.pred i ++ handlerBars F,
        hold := if isHeat F.unit && x.parkedBelow (x.lane i).lpc then some .reconv else none }) []

/-- Rules 3, 4 and 6 of R66: the lanes of `m`, already past the word, yield. In a bound heat these are the whole issuing
set, so that no group splits (R466). -/
def Strand.yieldLanes (x : Strand) (was : Bool) (m : List Nat) : Strand :=
  let run := m.filter fun i => (x.lane i).candidate
  let others := x.candidates.filter fun i => !run.contains i
  if run.isEmpty then x
  else
    match (others.map fun i => (x.lane i).lpc.toNat).min? with
    | none => { x with nextMode := false, streak := 0, group := 0#32 }
    | some lo =>
      let x1 := x.mapLanes run fun _ l => { l with ls := .deferred }
      { x1 with
        streak := if was then 0 else x.streak, nextMode := true,
        group := laneSet fun i => others.contains i && (x.lane i).lpc.toNat = lo }

/-- YIELD (R466). -/
def execYield (f : NilF) (s : State) : Host.Outcome State Fault Refusal :=
  withUnit s fun F x =>
    let e := execLanes x F.lanes f.pred
    let o (i : Nat) : LaneOut := laneFaults (bareCauses s F x {} f.pred i ++ handlerBars F)
    let ok := lanesOf (okLanes x e (faultsOf e o))
    s.finish F x (nilInfo f) ⟨[], [], []⟩ e o [] fun y =>
      if s.concurrent F.unit && F.handler.isNone then
        y.yieldLanes x.nextMode (if x.g ≠ 0#3 && !ok.isEmpty then lanesOf F.lanes else ok)
      else y

/-- The unit's squad has a cooperative yield requested, SR.YREQ.PEND (R240). -/
def State.yieldPending (s : State) (u : UnitRef) : Bool :=
  match u with
  | .heat r q _ =>
    match (find s.relays r).bind fun rl => find rl.squads q with
    | some sq => sq.yreq
    | none => false
  | _ => false

/-- YIELD.POINT (R240, R466): held while a yield is requested, until the squad leaves and returns. -/
def execYieldPoint (f : NilF) (s : State) : Host.Outcome State Fault Refusal :=
  withUnit s fun F x =>
    let e := execLanes x F.lanes f.pred
    let pend := s.yieldPending F.unit
    let o (i : Nat) : LaneOut :=
      { laneNone with
        causes := bareCauses s F x {} f.pred i ++ handlerBars F,
        hold := if pend then some .yieldPoint else none }
    let s1 := s.finish F x (nilInfo f) ⟨[], [], []⟩ e o []
    -- in a bound heat the whole issuing set yields together (R466)
    if pend && x.g ≠ 0#3 && F.handler.isNone && okLanes x e (faultsOf e o) ≠ 0#32 then
      s1.modStrand F.unit fun y => y.mapLanes ((lanesOf F.lanes).filter fun i => (y.lane i).candidate) fun i l =>
        { l with held := some .yieldPoint, lpc := (x.lane i).lpc }
    else s1

/-! ### BKPT -/

/-- BKPT (R254, R360). -/
def execBkpt (f : NilF) (s : State) : Host.Outcome State Fault Refusal :=
  withUnit s fun F x =>
    let en : Bool := match s.ctxOf F.unit with
      | some c => c.dbgEn
      | none => false
    s.finish F x (nilInfo f) ⟨[], [], []⟩ (execLanes x F.lanes f.pred)
      (fun i => laneFaults (bareCauses s F x {} f.pred i ++ (if en then [0x47] else []))) []

end Sys2Proof.Machine
end

