-- ==== Sys2Proof/Machine/Banks.lean ====
section
/-! DEFINITION. Banks, FIFO slots and scratch pages: FACQ, FREL, BANKMODE, PGPIN, PGUNPIN, and the refill of
a page (R139 to R150, R355, R378 to R380, R426 to R428). -/

namespace Sys2Proof.Machine

/-! ### FIFO banks (R148, R149) -/

def nslot (slot : Nat) : Nat := 2048 / 2 ^ slot
def slotBytes (slot : Nat) : Nat := 64 * 2 ^ slot
/-- The scratch offset of slot i of bank k. -/
def slotOff (k slot i : Nat) : Nat := fifoBase + k * bankBytes + i * slotBytes slot

/-- acquire empty -/
def Bank.acqEmpty (b : Bank) : Bank :=
  { b with free := b.free - 1, heldP := b.heldP ++ [b.prod], prod := (b.prod + 1) % nslot b.slot }
/-- acquire filled: first the slots returned to the head of the consumer order (R195) -/
def Bank.acqFilled (b : Bank) : Bank :=
  match b.again with
  | i :: is => { b with filled := b.filled - 1, heldC := b.heldC ++ [i], again := is }
  | [] => { b with filled := b.filled - 1, heldC := b.heldC ++ [b.cons], cons := (b.cons + 1) % nslot b.slot }
/-- publish: the oldest producer-held slot becomes filled; its acquirer takes `l` (R171). -/
def Bank.publish (b : Bank) (l : List RaceEntry) : Bank :=
  match b.heldP with
  | i :: is => { b with heldP := is, filled := b.filled + 1, hand := put b.hand i l }
  | [] => b
/-- release: the oldest consumer-held slot becomes empty. -/
def Bank.release (b : Bank) (l : List RaceEntry) : Bank :=
  match b.heldC with
  | i :: is => { b with heldC := is, free := b.free + 1, hand := put b.hand i l }
  | [] => b

/-- The status word (R140). -/
def Bank.status (b : Bank) : Nat :=
  let mode := match b.mode with
    | .cache => 0
    | .scratch => 1
    | .fifo => 2
  if b.mode = .fifo then pack [(2, mode), (3, b.slot), (3, 0), (12, b.free), (12, b.filled)] else mode

def Relay.setBank (rl : Relay) (k : Nat) (b : Bank) : Relay := { rl with banks := put rl.banks k b }
def Relay.modBank (rl : Relay) (k : Nat) (f : Bank → Bank) : Relay := rl.setBank k (f (rl.bank k))

/-- The banks of a unit's relay (R139). -/
def State.owned (s : State) (u : UnitRef) : Nat := s.fieldD u 0 ownedBanks

/-- The banks in scratch mode (R144). -/
def Relay.sbanks (rl : Relay) : Nat := (rl.banks.filter fun e => e.2.mode = .scratch).length
def Relay.pinned (rl : Relay) : Nat := (rl.pages.filter fun e => e.2.pinned).length
def Relay.resident (rl : Relay) : Nat := (rl.pages.filter fun e => e.2.resident).length

/-! ### FACQ and FREL (R379) -/

/-- How many slots the end of the bank has to acquire. -/
def Bank.avail (filled : Bool) (b : Bank) : Nat := if filled then b.filled else b.free

/-- The FACQ that a unit has still to do once its CWAIT or MWAIT has completed (R86), where it comes next. -/
def Strand.facqDue (x : Strand) (filled : Bool) (k : Nat) : Bool :=
  match x.due.head? with
  | some (.word (.facqF f) _ _ _ _) => filled && f.a.toNat = k
  | some (.word (.facqE f) _ _ _ _) => !filled && f.a.toNat = k
  | _ => false

/-- The FACQ words held in a unit at one end of bank k, with one that is due there. -/
def Strand.facqWords (x : Strand) (filled : Bool) (k : Nat) : Nat :=
  (laneIds.filterMap fun i => match (x.lane i).held with
    | some (.facq fl b _ lead _) => if fl = filled && b = k then some lead else none
    | _ => none).eraseDups.length + if x.facqDue filled k then 1 else 0

/-- The held FACQ words at one end that are served before an acquirer: of the pacer, then of the heats by SQUAD and
HEAT, then the engines' own (R380). `u` is none for an engine. -/
def Relay.facqBefore (rl : Relay) (filled : Bool) (k : Nat) (u : Option UnitRef) : Nat :=
  let pacer := match rl.pacer with
    | some x => x.facqWords filled k
    | none => 0
  let heats (below : Nat → Bool) : Nat :=
    rl.heats.foldl (fun n e => if below e.1 then n + e.2.facqWords filled k else n) 0
  match u with
  | some (.pacer _) => 0
  | some (.heat _ q h) => pacer + heats fun key => key < heatKey q h
  | _ => pacer + heats fun _ => true

/-- An acquirer gets no slot: those there are go to acquirers that are served before it. An engine, which accesses the slot
at once, waits for the end of a transition too (R154). -/
def Relay.dry (rl : Relay) (filled : Bool) (k : Nat) (u : Option UnitRef) : Bool :=
  (rl.bank k).avail filled ≤ rl.facqBefore filled k u || (u.isNone && (rl.bank k).busy)

/-- The slot an acquisition takes. -/
def Bank.nextSlot (filled : Bool) (b : Bank) : Nat := if filled then b.again.headD b.cons else b.prod

/-- Acquire a slot for a unit: the bank, the unit's race table, and the slot's number. -/
def State.acquire (s : State) (u : UnitRef) (x : Strand) (filled : Bool) (k : Nat) : State × Strand × Nat :=
  match s.relayOf u, unitRelay u with
  | some rl, some r =>
    let b := rl.bank k
    let i := b.nextSlot filled
    (s.modRelay r fun rl => rl.modBank k fun b => if filled then b.acqFilled else b.acqEmpty,
     { x with race := x.race.merge ((find b.hand i).getD []) }, i)
  | _, _ => (s, x, 0)

def facqWord (filled : Bool) (f : RegF) (s : State) : Host.Outcome State Fault Refusal :=
  withUnit s fun F x =>
    let u := F.unit
    let e := execLanes x F.lanes f.pred
    let k := f.a.toNat
    let d := f.d.toNat
    if e = 0#32 then s.finish F x (regInfo f) ⟨[], [], [d]⟩ e (fun _ => laneNone) []
    else
      let (mode, dry) := match s.relayOf u with
        | some rl => ((rl.bank k).mode, rl.dry filled k (some u))
        | none => (.cache, true)
      let causes := unitCauses u {} ++ scalarCauses s u x e f.pred [d] ++
        (if s.owned u ≤ k then [0x17] else if mode ≠ .fifo then [0x18] else [])
      if causes.isEmpty && dry then
        s.finishOnce F x (regInfo f) [d] e { hold := some (.facq filled k d ((lowest e).getD 0) (guardTaint x F.lanes f.pred)) }
      else if causes.isEmpty then
        let r := s.acquire u x filled k
        r.1.finishOnce F r.2.1 (regInfo f) [d] e { sw := [(d, ⟨BitVec.ofNat 32 r.2.2, .clean⟩)] }
      else s.finishOnce F x (regInfo f) [d] e { causes := causes }

/-- FACQ.F (R379). -/
def execFacqF (f : RegF) (s : State) : Host.Outcome State Fault Refusal := facqWord true f s
/-- FACQ.E (R379). -/
def execFacqE (f : RegF) (s : State) : Host.Outcome State Fault Refusal := facqWord false f s

/-- FREL: a release at RELAY scope (R380); the slot goes back in acquisition order. -/
def frelWord (consumer : Bool) (f : RegF) (s : State) : Host.Outcome State Fault Refusal :=
  withUnit s fun F x =>
    let u := F.unit
    let e := execLanes x F.lanes f.pred
    let k := f.a.toNat
    if e = 0#32 then s.finish F x (regInfo f) ⟨[], [], []⟩ e (fun _ => laneNone) []
    else
      let b := match s.relayOf u with
        | some rl => rl.bank k
        | none => bankInit
      let causes := unitCauses u {} ++ scalarCauses s u x e f.pred [] ++
        (if s.owned u ≤ k then [0x17] else if b.mode ≠ .fifo then [0x18]
         else if (if consumer then b.heldC else b.heldP).isEmpty then [0x17] else [])
      if causes.isEmpty then
        let t := x.race.release 2
        let l := t.give (s.agentOf u) t.count
        let s1 := match unitRelay u with
          | some r => s.modRelay r fun rl => rl.modBank k fun b => if consumer then b.release l else b.publish l
          | none => s
        s1.finishOnce F { x with race := t } (regInfo f) [] e {}
      else s.finishOnce F x (regInfo f) [] e { causes := causes }

/-- FREL.F (R379). -/
def execFrelF (f : RegF) (s : State) : Host.Outcome State Fault Refusal := frelWord true f s
/-- FREL.E (R379). -/
def execFrelE (f : RegF) (s : State) : Host.Outcome State Fault Refusal := frelWord false f s

/-! ### Scratch pages (R142 to R147) -/

def scratchPages (f : Field) : Nat := scratchRounded f / 4096

/-- The page frames of the relay's scratch banks; `all`: with those still being zeroed (R141, R154). -/
def Relay.frames (rl : Relay) (all : Bool) : List Nat :=
  rl.banks.flatMap fun e =>
    if e.2.mode = .scratch && (all || !e.2.busy) then (List.range 32).map fun i => e.1 * 32 + i else []

def Relay.freeFrames (rl : Relay) (all : Bool := false) : List Nat :=
  (rl.frames all).filter fun n => !rl.pages.any fun e => e.2.resident && e.2.frame = n

/-- A page written to backing loses its write records (R180). -/
def Relay.dropRecords (rl : Relay) (off n : Nat) : Relay :=
  { rl with records := dropRecs (fun _ => rl.tableOf) (fun i => off / 32 ≤ i && i < (off + n) / 32) rl.records }

def Relay.pageOut (rl : Relay) (n : Nat) : Relay :=
  let p := rl.page n
  (rl.setPage n { p with resident := false, dirty := false, frame := 0 }).dropRecords (n * 4096) 4096

/-- The resident unpinned page least recently accessed, the lowest number among equals (R143). -/
def Relay.victim (rl : Relay) (ok : Nat → Page → Bool) : Option Nat :=
  rl.pages.foldl (fun (best : Option Nat) e =>
    if e.2.resident && !e.2.pinned && ok e.1 e.2 then
      match best with
      | some b => if e.2.last < (rl.page b).last then some e.1 else some b
      | none => some e.1
    else best) none

/-- Bring a page in: into a free frame, which of them is open, else into the victim's. The access that asks for it counts
as the latest of the page: R143 does not say from when (DESIGN CHOICE, log 67). -/
def Relay.refill (rl : Relay) (n pick : Nat) : Relay :=
  if (rl.page n).resident then rl
  else
    let rl1 := if rl.freeFrames.isEmpty then
      match rl.victim fun _ _ => true with
      | some v => rl.pageOut v
      | none => rl
    else rl
    match rl1.freeFrames with
    | [] => rl1
    | fr =>
      { rl1.setPage n { rl1.page n with resident := true, frame := fr.getD (pick % fr.length) 0, last := rl1.pageClock + 1 } with
        pageClock := rl1.pageClock + 1 }

/-- The array accesses the pages of a list: one that is resident counts as accessed, the others come in (R143). -/
def Relay.refillAll (rl : Relay) (pick : Nat) : List Nat → Relay
  | [] => rl
  | n :: ns => (if (rl.page n).resident then rl.touch (4096 * n) false else rl.refill n pick).refillAll pick ns

/-- The limit of R146 on pinned pages, for a number of scratch banks. -/
def pinOk (pages sbanks pinned : Nat) : Bool :=
  let f := 32 * sbanks
  if pages ≤ f then pinned ≤ f else pinned + 1 ≤ f

/-- Set or clear the pins of pages. -/
def Relay.setPins (rl : Relay) (range : List Nat) (v : Bool) : Relay :=
  range.foldl (fun rl n => rl.setPage n { rl.page n with pinned := v }) rl

def pinWord (pin : Bool) (f : RegF) (s : State) : Host.Outcome State Fault Refusal :=
  withUnit s fun F x =>
    let u := F.unit
    let e := effectLanes x F.lanes f.pred
    let a := readOpd x 0 true f.a.toNat 1
    let b := readOpd x 0 true f.b.toNat 1
    let ts := [a.taint, b.taint, guardTaint x F.lanes f.pred]
    let pages := s.fieldD u 0 scratchPages
    if e = 0#32 then s.finish F x (regInfo f) ⟨[], [], []⟩ e (fun _ => laneNone) []
    else if mustVerify ts then s
    else
      match s.relayOf u, unitRelay u with
      | some rl, some r =>
        let range := span a.val b.val
        let inside := b.val = 0 || a.val + b.val ≤ pages
        let fresh := if inside then (range.filter fun n => !(rl.page n).pinned).length else 0
        let causes := unitCauses u {} ++ scalarCauses s u x e f.pred [f.a.toNat, f.b.toNat] ++ poisonCause ts ++
          (if !inside then [0x13]
           else if pin && b.val ≠ 0 && !pinOk pages rl.sbanks (rl.pinned + fresh) then [0x19] else [])
        if causes.isEmpty then
          let s1 := if b.val = 0 then s else s.modRelay r fun rl => rl.setPins range pin
          -- pinned at once, so that no refill evicts a page of the range; the heat is held until all are resident
          let absent := pin && range.any fun n => !(rl.page n).resident
          s1.finishOnce F (if absent then { x with waiting := .pins a.val b.val } else x) (regInfo f) [] e {}
        else s.finishOnce F x (regInfo f) [] e { causes := causes, fva := 4096 * max a.val pages }
      | _, _ => s.finishOnce F x (regInfo f) [] e { causes := unitCauses u {} ++ [0x13] }

/-- PGPIN (R427). -/
def execPgpin (f : RegF) (s : State) : Host.Outcome State Fault Refusal := pinWord true f s
/-- PGUNPIN (R427). -/
def execPgunpin (f : RegF) (s : State) : Host.Outcome State Fault Refusal := pinWord false f s

/-! ### BANKMODE (R140, R141, R355) -/

def Place.isBank (k : Nat) : Place → Bool
  | .fifo b => b = k
  | _ => false

def Tensor.bank (t : Tensor) : Option Nat :=
  let n := t.bits.toNat
  if Sys2Proof.Machine.bits n 197 196 = 2 then some (Sys2Proof.Machine.bits n 4 0) else none

def MOp.names (k : Nat) : MOp → Bool
  | .mma _ a _ _ => a.bank = some k
  | _ => false

/-- A queued or running engine command or matrix entry names the bank (R141). -/
def Relay.bankNamed (rl : Relay) (k : Nat) : Bool :=
  rl.queues.any (fun e => e.2.items.any fun it =>
    match it with
    | .command c => c.src.isBank k || c.dst.isBank k
    | .marker _ => false) ||
  rl.mq.any fun it =>
    match it with
    | .entry m => m.op.names k
    | .marker _ => false

/-- The mode a configuration word asks for; none where the word is malformed (R140). -/
def bankWord (w : Nat) : Option (BankMode × Nat) :=
  let slot := bits w 4 2
  if 32 ≤ w then none
  else
    match w % 4 with
    | 0 => if slot = 0 then some (.cache, 0) else none
    | 1 => if slot = 0 then some (.scratch, 0) else none
    | 2 => if slot < 7 then some (.fifo, slot) else none
    | _ => none

/-- The causes of a transition (R141). -/
def Relay.modeCauses (rl : Relay) (pages k : Nat) (mode : BankMode) (slot : Nat) : List Nat :=
  let b := rl.bank k
  if b.mode = mode && b.slot = slot then []
  else
    match b.mode with
    | .cache => []
    | .scratch =>
      (if pinOk pages (rl.sbanks - 1) rl.pinned then [] else [0x19]) ++
      (if 0 < pages && rl.sbanks ≤ 1 then [0x17] else [])
    | .fifo => if b.free = nslot b.slot && !rl.bankNamed k then [] else [0x17]

/-- A scratch bank leaves its mode: its pinned pages move to frames of the other scratch banks, free ones first, then
those of evicted unpinned pages; its other pages go to backing (R141). -/
def Relay.vacate (rl : Relay) (k pick : Nat) : Relay :=
  let mine (p : Page) : Bool := p.resident && p.frame / 32 = k
  let pins := (rl.pages.filter fun e => mine e.2 && e.2.pinned).map fun e => e.1
  let rest := (rl.pages.filter fun e => mine e.2 && !e.2.pinned).map fun e => e.1
  let rl1 := rest.foldl (fun rl n => rl.pageOut n) rl
  pins.foldl (fun rl n =>
    let other := (rl.freeFrames true).filter fun fr => fr / 32 ≠ k
    let rl2 := if other.isEmpty then
      match rl.victim fun _ p => p.frame / 32 ≠ k with
      | some v => rl.pageOut v
      | none => rl
    else rl
    match (rl2.freeFrames true).filter fun fr => fr / 32 ≠ k with
    | [] => rl2
    | fr => rl2.setPage n { rl2.page n with frame := fr.getD (pick % fr.length) 0 }) rl1

/-- Zero a bank's FIFO window and its records. -/
def Relay.zeroWindow (rl : Relay) (k : Nat) : Relay :=
  let lo := slotOff k 0 0
  { rl with
    records := rl.records.filter (fun e => !(lo / 32 ≤ e.1 && e.1 < (lo + bankBytes) / 32)),
    scratch := rl.scratch.filter fun e => !(lo ≤ e.1 && e.1 < lo + bankBytes) }

/-- Apply a transition (R141). -/
def Relay.setMode (rl : Relay) (k pick : Nat) (mode : BankMode) (slot : Nat) : Relay :=
  let b := rl.bank k
  if b.mode = mode && b.slot = slot then rl
  else
    let rl1 := match b.mode with
      | .scratch => rl.vacate k pick
      | .fifo => rl.zeroWindow k
      | .cache => rl
    let n := if mode = .fifo then nslot slot else 0
    rl1.setBank k { bankInit with mode := mode, slot := slot, free := n, busy := true }

/-- The bank in which a scratch offset stands. -/
def Relay.bankAt (rl : Relay) (off : Nat) : Option Nat :=
  if off < fifoBase then
    let p := rl.page (off / 4096)
    if p.resident then some (p.frame / 32) else none
  else some ((off - fifoBase) / bankBytes)

/-- A store of a window that will go to bank k (R86). -/
def Late.toBank (rl : Relay) (k : Nat) : Late → Bool
  | .store _ (.scr off) _ _ _ _ _ _ => rl.bankAt off = some k
  | _ => false

/-- Stores to bank k issued before, in the window of a CWAIT or MWAIT, have not been performed (R141): of `x` itself, whose
key is given, those in windows still open. -/
def Relay.storesAhead (rl : Relay) (u : UnitRef) (x : Strand) (k : Nat) : Bool :=
  let open_ (y : Strand) : Bool := y.ops.any fun o => o.late.any (Late.toBank rl k)
  let due (y : Strand) : Bool := y.due.any (Late.toBank rl k)
  let key : Option Nat := match u with
    | .heat _ q h => some (heatKey q h)
    | _ => none
  open_ x || (rl.heats.any fun e => key ≠ some e.1 && (open_ e.2 || due e.2)) ||
    (!isPacer u && rl.pacer.any fun y => open_ y || due y)

/-- BANKMODE: the heat then waits for the end of the transition. -/
def execBankmode (f : RegF) (s : State) : Host.Outcome State Fault Refusal :=
  withUnit s fun F x =>
    let u := F.unit
    let e := effectLanes x F.lanes f.pred
    let a := readOpd x 0 true f.a.toNat 1
    let b := readOpd x 0 true f.b.toNat 1
    let ts := [a.taint, b.taint, guardTaint x F.lanes f.pred]
    let pages := s.fieldD u 0 scratchPages
    let d := f.d.toNat
    if e = 0#32 then s.finish F x (regInfo f) ⟨[], [], [d]⟩ e (fun _ => laneNone) []
    else if mustVerify ts then s
    else
      match s.relayOf u, unitRelay u with
      | some rl, some r =>
        let k := a.val
        let base := unitCauses u {} ++ scalarCauses s u x e f.pred [d, f.a.toNat, f.b.toNat] ++ poisonCause ts ++
          (if s.owned u ≤ k then [0x17] else [])
        match bankWord b.val with
        | none => s.finishOnce F x (regInfo f) [d] e { causes := base ++ [0x04] }
        | some (mode, slot) =>
          let causes := base ++ (if k < s.owned u then rl.modeCauses pages k mode slot else [])
          if causes.isEmpty && rl.storesAhead u x k then s
          else if causes.isEmpty then
            let old := rl.bank k
            let same : Bool := old.mode = mode && old.slot = slot
            let s1 := s.paged r (rl.setMode k (s.freeNat 4) mode slot)
            let x1 := if same then x else { x with waiting := .bank k }
            s1.finishOnce F x1 (regInfo f) [d] e { sw := [(d, ⟨BitVec.ofNat 32 old.status, .clean⟩)] }
          else s.finishOnce F x (regInfo f) [d] e { causes := causes }
      | _, _ => s.finishOnce F x (regInfo f) [d] e { causes := unitCauses u {} ++ [0x17] }

/-- BANKMODE.Q (R355). -/
def execBankmodeQ (f : RegF) (s : State) : Host.Outcome State Fault Refusal :=
  withUnit s fun F x =>
    let u := F.unit
    let e := execLanes x F.lanes f.pred
    let a := readOpd x 0 true f.a.toNat 1
    let d := f.d.toNat
    if e = 0#32 then s.finish F x (regInfo f) ⟨[], [], [d]⟩ e (fun _ => laneNone) []
    else if mustVerify [a.taint] then s
    else
      let causes := unitCauses u {} ++ scalarCauses s u x e f.pred [d, f.a.toNat] ++ poisonCause [a.taint] ++
        (if s.owned u ≤ a.val then [0x17] else [])
      let st := match s.relayOf u with
        | some rl => (rl.bank a.val).status
        | none => 0
      s.finishOnce F x (regInfo f) [d] e
        (if causes.isEmpty then { sw := [(d, ⟨BitVec.ofNat 32 st, .clean⟩)] } else { causes := causes })

/-! ### Events -/

/-- BANKMODE_TRANSITION_DONE (R141): the bank takes its new use, and units that waited go on. -/
def execBankmodeTransitionDone (relay bank : Nat) (s : State) : Host.Outcome State Fault Refusal :=
  let free (x : Strand) : Strand := if x.waiting = .bank bank then { x with waiting := .none } else x
  .next (s.modRelay relay fun rl =>
    let rl1 := if (rl.bank bank).busy then rl.modBank bank fun b => { b with busy := false } else rl
    { rl1 with heats := rl1.heats.map fun e => (e.1, free e.2), pacer := rl1.pacer.map free })

/-- The unit waits for the page. -/
def Wait.wants (w : Wait) (page : Nat) : Bool :=
  match w with
  | .page n => n = page
  | .pins a n => a ≤ page && page < a + n
  | _ => false

/-- A unit waits for the page, or a store that it has still to perform does (R86). -/
def Strand.wantsPage (x : Strand) (page : Nat) : Bool :=
  x.waiting.wants page || match x.due.head? with
    | some (.store _ (.scr off) _ _ _ _ _ _) => off < fifoBase && off / 4096 = page
    | _ => false

/-- A unit of the relay waits for the page. -/
def Relay.pageWanted (rl : Relay) (page : Nat) : Bool :=
  (rl.heats.any fun e => e.2.wantsPage page) || rl.pacer.any fun x => x.wantsPage page

/-- What the unit waits for of scratch is there. -/
def Relay.waitOver (rl : Relay) (w : Wait) : Bool :=
  match w with
  | .page n => (rl.page n).resident
  | .pins a n => (span a n).all fun k => (rl.page k).resident
  | _ => false

/-- SCRATCH_REFILL (R143): a page that a unit waits for comes in from backing, and the units that waited go on. -/
def execScratchRefill (relay page : Nat) (s : State) : Host.Outcome State Fault Refusal :=
  match find s.relays relay with
  | none => .next s
  | some rl =>
    if rl.place.isSome && rl.pageWanted page then
      let rl1 := if page < (match find s.fields rl.field with
          | some f => scratchPages f
          | none => 0) then rl.refill page (s.freeNat 4) else rl
      let free (x : Strand) : Strand := if rl1.waitOver x.waiting then { x with waiting := .none } else x
      .next (s.paged relay { rl1 with heats := rl1.heats.map fun e => (e.1, free e.2), pacer := rl1.pacer.map free })
    else .next s

end Sys2Proof.Machine
end

