-- ==== Sys2Proof/Machine/Queue.lean ====
section
/-! DEFINITION. Tensors, swizzle, engine queues with their markers, completion counters and guards (R170,
R171, R186 to R190, R199 to R210, R433). -/

namespace Sys2Proof.Machine

/-! ### Tensors (R186 to R189) -/

def Tensor.fld (t : Tensor) (hi lo : Nat) : Nat := Sys2Proof.Machine.bits t.bits.toNat hi lo
def Tensor.swzCode (t : Tensor) : Nat := t.fld 226 224
def Tensor.valid (t : Tensor) : Bool := t.bits.getLsbD 207
def Tensor.cidx (t : Tensor) : Nat := t.fld 203 200
def Tensor.loc (t : Tensor) : Nat := t.fld 197 196
def Tensor.format (t : Tensor) : Nat := t.fld 195 192
def Tensor.scale (t : Tensor) : Nat := t.fld 184 128
def Tensor.rows (t : Tensor) : Nat := t.fld 127 112
def Tensor.cols (t : Tensor) : Nat := t.fld 111 96
def Tensor.stride (t : Tensor) : Nat := t.fld 95 64
def Tensor.base (t : Tensor) : Nat := t.fld 56 0

/-- Some reserved field of the entry is set (R186). -/
def Tensor.reserved (t : Tensor) : Bool :=
  t.fld 255 227 ≠ 0 || t.fld 223 208 ≠ 0 || t.fld 206 204 ≠ 0 || t.fld 199 198 ≠ 0 || t.fld 191 185 ≠ 0 ||
  t.fld 63 57 ≠ 0

def fmtE2M1X : Nat := 2

/-- Bytes of `n` elements of a format (R187). -/
def elemsBytes (fmt n : Nat) : Nat :=
  match fmt with
  | 0 => n
  | 1 => n
  | 2 => n / 2
  | 3 => 2 * n
  | 4 => 2 * n
  | 5 => n
  | _ => 4 * n

def Tensor.rowBytes (t : Tensor) : Nat := elemsBytes t.format t.cols

/-- The checks of R188 at a capture. -/
def Tensor.captureOk (t : Tensor) : Bool :=
  t.valid && !t.reserved && t.format < 8 && t.rows ≠ 0 && t.cols ≠ 0 &&
  (t.format ≠ fmtE2M1X || t.cols % 32 = 0) &&
  (t.loc = 3 || (t.stride % 16 = 0 && t.rowBytes ≤ t.stride && t.rowBytes % (16 * 2 ^ t.swzCode) = 0))

/-- An entry never written (R186). -/
def tensorInit : Tensor := ⟨0#256, capNull⟩

/-- Tensor n of the unit's context. -/
def State.tensor (s : State) (u : UnitRef) (n : Nat) : Tensor :=
  match s.ctxOf u with
  | some c => (find c.tensors n).getD tensorInit
  | none => tensorInit

/-- Chunk index under the swizzle of span code k (R189); it is its own inverse. -/
def swizzle (k row chunk : Nat) : Nat := chunk ^^^ (row % 2 ^ k)

/-- The position of logical byte b of row i (R189). -/
def phys (k stride i b : Nat) : Nat := i * stride + 16 * swizzle k i (b / 16) + b % 16

/-- The bytes of a tensor from its base: its rows, and of an E2M1X tensor its scale pairs (R186, R187). -/
def Tensor.extent (t : Tensor) : Nat :=
  let rows := (t.rows - 1) * t.stride + t.rowBytes
  if t.format = fmtE2M1X then max (t.base + rows) (t.scale + 2 * (t.rows * (t.cols / 32))) else t.base + rows

/-! ### Engine queues -/

def queueInit : EngineQ := ⟨[], raceInit⟩
def Relay.queue (rl : Relay) (q : Nat) : EngineQ := (find rl.queues q).getD queueInit
def Relay.setQueue (rl : Relay) (q : Nat) (e : EngineQ) : Relay := { rl with queues := put rl.queues q e }

def QItem.isMarker (id : Nat) : QItem → Bool
  | .marker i => i = id
  | .command _ => false

def MItem.isMarker (id : Nat) : MItem → Bool
  | .marker i => i = id
  | .entry _ => false

/-- What an agent gives when its writes are acquired: its table and its own count. -/
def Relay.queueGives (rl : Relay) (q : Nat) : List RaceEntry :=
  if q = 10 then rl.mqRace.give (agentQueue rl.linear 10) rl.mqRace.count
  else (rl.queue q).race.give (agentQueue rl.linear q) (rl.queue q).race.count

/-- Marker `id` stands at the head of every queue that holds it. -/
def Relay.markerReady (rl : Relay) (id : Nat) : Bool :=
  (rl.queues.all fun e =>
    !(e.2.items.any (QItem.isMarker id)) ||
      (match e.2.items with
       | it :: _ => it.isMarker id
       | [] => false)) &&
  (!(rl.mq.any (MItem.isMarker id)) ||
    (match rl.mq with
     | it :: _ => it.isMarker id
     | [] => false))

/-- Remove a marker from every queue; the queues it joined acquire one another's writes (R170). -/
def Relay.dropMarker (rl : Relay) (id : Nat) : Relay :=
  let named := (rl.queues.filter fun e => e.2.items.any (QItem.isMarker id)).map fun e => e.1
  let inM := rl.mq.any (MItem.isMarker id)
  let gives (to_ : Nat) : List RaceEntry :=
    ((named ++ (if inM then [10] else [])).filter fun q => q ≠ to_).flatMap fun q => rl.queueGives q
  { rl with
    queues := rl.queues.map fun e =>
      if named.contains e.1 then
        (e.1, { e.2 with items := e.2.items.filter fun it => !it.isMarker id, race := e.2.race.merge (gives e.1) }) else e,
    mq := rl.mq.filter fun it => !it.isMarker id,
    mqRace := if inM then rl.mqRace.merge (gives 10) else rl.mqRace }

/-- The markers that stand at a head. -/
def Relay.headMarkers (rl : Relay) : List Nat :=
  (rl.queues.filterMap fun e => match e.2.items with
    | .marker i :: _ => some i
    | _ => none) ++
  (match rl.mq with
   | .marker i :: _ => [i]
   | _ => [])

/-- Remove every marker whose earlier entries have all completed, `n` at most. -/
def Relay.clearMarkers (rl : Relay) : Nat → Relay
  | 0 => rl
  | n + 1 =>
    match rl.headMarkers.find? rl.markerReady with
    | some id => (rl.dropMarker id).clearMarkers n
    | none => rl

def Relay.markerCount (rl : Relay) : Nat :=
  rl.queues.foldl (fun n e => n + e.2.items.length) rl.mq.length

def Relay.tidyMarkers (rl : Relay) : Relay := rl.clearMarkers rl.markerCount

/-! ### Completion counters (R206, R207) -/

def Relay.counter (rl : Relay) (n : Nat) : Word64 := getD 0#64 rl.counters n

/-- Add 1 to a counter; a failure sets ERR and CAUSE where ERR was 0; a collective sets CSTAT. -/
def countUp (w : Word64) (cause cstat : Option Nat) : Word64 :=
  let n := w.toNat
  let count := min (2 ^ 48 - 1) (bits n 47 0 + 1)
  let cs := cstat.getD (bits n 55 48)
  match cause with
  | some c => if bit n 63 then BitVec.ofNat 64 (pack [(48, count), (8, cs), (7, bits n 62 56), (1, 1)])
    else BitVec.ofNat 64 (pack [(48, count), (8, cs), (7, c), (1, 1)])
  | none => BitVec.ofNat 64 (pack [(48, count), (8, cs), (7, bits n 62 56), (1, boolBit (bit n 63))])

/-- Entries of which each key stands once, with the larger counts. -/
def joinEntries (l m : List RaceEntry) : List RaceEntry :=
  m.foldl (fun l e =>
    if l.any fun d => d.key = e.key then l.map fun d => if d.key = e.key then ⟨d.key, max d.n e.n, max d.p e.p⟩ else d
    else l ++ [e]) l

/-- A command completes: its counter, or SR.CQERR where it names none (R206). -/
def Relay.countCommand (rl : Relay) (q : Nat) (cnt cause cstat : Option Nat) : Relay :=
  match cnt with
  | some n =>
    { rl with
      counters := put rl.counters n (countUp (rl.counter n) cause cstat),
      counted := put rl.counted n (joinEntries (getD [] rl.counted n) (rl.queueGives q)) }
  | none =>
    match cause with
    | some c =>
      if rl.cqerr.getLsbD 31 then rl
      else { rl with cqerr := BitVec.ofNat 32 (pack [(4, q), (20, 0), (7, c), (1, 1)]) }
    | none => rl

/-! ### FIFO ends of a command (R205, R206) -/

/-- Swizzle record of a bank's slot (R190). -/
def Bank.setSwz (b : Bank) (slot k : Nat) : Bank := { b with swz := setD 0 b.swz slot k }

/-- A release by a queue: its count rises (R175, step 1). -/
def Relay.queueRelease (rl : Relay) (q : Nat) : Relay :=
  if q = 10 then { rl with mqRace := rl.mqRace.release 2 }
  else rl.setQueue q { rl.queue q with race := (rl.queue q).race.release 2 }

/-- Give back the oldest held slot of a queue at one end, a release to its next acquirer (R171). -/
def Relay.giveBack (rl : Relay) (q : Nat) (k : Nat) (consumer : Bool) : Relay :=
  let rl1 := rl.queueRelease q
  let l := rl1.queueGives q
  rl1.modBank k fun b => if consumer then b.release l else b.publish l

/-- Bytes of a command. -/
def Command.total (c : Command) : Nat := c.rows * c.rowBytes
def Command.units (c : Command) : Nat := c.total / 16

/-- The scale pairs that a collective of E2M1X moves after its units, two bytes each (R187, R211). -/
def Command.pairs (c : Command) : Nat := if c.cfmt = 6 then c.total / 16 else 0

/-- The units a command of queue q has read from its source. -/
def Command.unitsRead (c : Command) (q : Nat) : Nat := if q = 9 then min c.units (c.got.length / 16) else c.done
/-- The units it has written to its destination. -/
def Command.unitsWritten (c : Command) : Nat := min c.units c.done

/-- The command has written the unit at position p of its destination stream (R189). -/
def Command.wrote (c : Command) (p : Nat) : Bool :=
  let upr := c.rowBytes / 16
  let n := c.unitsWritten
  (List.range (n / upr + 1)).any fun i =>
    i * c.dstride ≤ p && p < i * c.dstride + c.rowBytes &&
    i * upr + swizzle c.swz i ((p - i * c.dstride) / 16) < n

/-- The end of a command: every slot it still holds is published or released (R205, R206). -/
def Relay.endSlots (rl : Relay) (q : Nat) (c : Command) : Relay :=
  let rl1 := match c.dst with
    | .fifo k => c.dstHeld.foldl (fun rl _ => rl.giveBack q k false) rl
    | _ => rl
  match c.src with
  | .fifo k => c.srcHeld.foldl (fun rl _ => rl.giveBack q k true) rl1
  | _ => rl1

/-- Take the head command of a queue off and count it: `cause` for a failure, `cstat` for a collective. -/
def Relay.endCommand (rl : Relay) (q : Nat) (cause cstat : Option Nat) : Relay :=
  match (rl.queue q).items with
  | .command c :: rest =>
    let rl0 := rl.endSlots q c
    let e := rl0.queue q
    let rl1 := rl0.setQueue q { e with items := rest, race := e.race.release 2 }
    (rl1.countCommand q c.cnt cause cstat).tidyMarkers
  | _ => rl

/-- The guard of a command (R209). -/
def Relay.guardOf (rl : Relay) (c : Command) : Guard :=
  match c.guard, c.ruled with
  | none, _ => .yes
  | some _, some true => .yes
  | some _, some false => .no
  | some g, none => (find rl.guards g).getD .unresolved

/-- The command at the head of a queue keeps what guard g said to it. -/
def EngineQ.ruleHead (q : EngineQ) (g : Nat) (yes : Bool) (hand : List RaceEntry) : EngineQ :=
  match q.items with
  | .command c :: rest =>
    if c.guard = some g && c.ruled.isNone then
      { q with items := .command { c with ruled := some yes } :: rest, race := q.race.merge hand }
    else q
  | _ => q

/-- Before guard g changes, a command that it has let run, or has discarded, at its queue's head keeps that (R209). -/
def Relay.ruleHeads (rl : Relay) (g : Nat) : Relay :=
  let said (yes : Bool) : Relay :=
    { rl with queues := rl.queues.map fun e => (e.1, e.2.ruleHead g yes ((find rl.guardHand g).getD [])) }
  match (find rl.guards g).getD .unresolved with
  | .unresolved => rl
  | .yes => said true
  | .no => said false

/-! ### The copy engine (R204, R205) -/

/-- Where one 16-byte unit stands, once reachable. -/
inductive UnitAt where
  | at (l : Loc)
  | bstore (off : Nat)
  | wait
  | fail (cause : Nat)
deriving DecidableEq, Repr

/-- Bring the slot that holds stream position p within reach: acquire slots in order (R149, R205). -/
def Relay.reachSlot (rl : Relay) (q : Nat) (k : Nat) (consumer : Bool) (held : List Nat) (back p : Nat) :
    Nat → Relay × List Nat × Option Nat
  | 0 => (rl, held, none)
  | n + 1 =>
    let b := rl.bank k
    let j := p / slotBytes b.slot
    if j < back + held.length then (rl, held, (held.drop (j - back)).head?)
    else if rl.dry consumer k none then (rl, held, none)
    else
      let i := b.nextSlot consumer
      let rl1 := rl.modBank k fun b => if consumer then b.acqFilled else b.acqEmpty
      let e := rl1.queue q
      let rl2 := rl1.setQueue q { e with race := e.race.merge ((find b.hand i).getD []) }
      rl2.reachSlot q k consumer (held ++ [i]) back p n

/-- Change the command at the head of a queue. -/
def Relay.setHead (rl : Relay) (q : Nat) (c : Command) : Relay :=
  let e := rl.queue q
  match e.items with
  | .command _ :: rest => rl.setQueue q { e with items := .command c :: rest }
  | _ => rl

/-- The location of a device unit, after its translation. -/
def State.deviceUnit (s : State) (who : Asker) (ctx : Nat) (cap : Cap) (off : Nat) (store : Bool) : State × UnitAt :=
  match s.seek who ctx (capVa cap off) store with
  | (s1, .hit pa e) => (s1, .at (.dev pa e.attr))
  | (s1, .miss) => (s1, .wait)
  | (s1, .busy) => (s1, .wait)
  | (s1, .cause c) => (s1, .fail c)

/-- The location of a scratch unit: a page that is not resident is refilled (R143), and a bank in transition waited for
(R154). -/
def State.scratchUnit (s : State) (r off : Nat) (dirty : Bool) : State × UnitAt :=
  match find s.relays r with
  | none => (s, .wait)
  | some rl =>
    let rl1 := rl.refill (off / 4096) (s.freeNat 4)
    if !(rl1.page (off / 4096)).resident || rl1.inTransition off then (s, .wait)
    else (s.paged r (rl1.touch off dirty), .at (.scr off))

/-- The index of a gather's row (R205). -/
def State.gatherIndex (s : State) (r : Nat) (c : Command) (i : Nat) : Nat :=
  match find s.relays r with
  | some rl => rl.readScr (c.idxOff + 4 * i) 4
  | none => 0

/-- The source row of a unit: a gather reads its index when the row begins (R205). -/
def State.sourceRow (s : State) (r q : Nat) (c : Command) (i b : Nat) : State × Nat :=
  if q = 8 then
    if b = 0 then
      let s1 := (s.scratchUnit r (c.idxOff + 4 * i) false).1
      (s1, s1.gatherIndex r c i)
    else (s, c.row)
  else (s, i)

/-- The source unit of row i, byte b. Gathered rows are checked against the capture when read. -/
def State.srcUnit (s0 : State) (r q ctx rounded : Nat) (c : Command) (i b : Nat) : State × UnitAt :=
  let row := i * c.sstride
  let off (base : Nat) : Nat := base + row + 16 * swizzle c.sswz i (b / 16)
  match c.src with
  | .device cap base =>
    if q = 8 && cap.len < base + row + c.rowBytes then (s0, .fail 0x21)
    else if q = 8 && !cap.canR then (s0, .fail 0x22)
    else s0.deviceUnit (.engine r q) ctx cap (off base) false
  | .scratch base =>
    if q = 8 && rounded < base + row + c.rowBytes then (s0, .fail 0x13) else s0.scratchUnit r (off base) false
  | .fifo k =>
    match find s0.relays r with
    | none => (s0, .wait)
    | some rl =>
      let p := phys c.sswz c.sstride i b
      let res := rl.reachSlot q k true c.srcHeld c.srcBack p 2049
      let rl1 := res.1.setHead q { c with srcHeld := res.2.1 }
      let s1 := { s0 with relays := put s0.relays r rl1 }
      match res.2.2 with
      | some slot => (s1, .at (.scr (slotOff k (rl.bank k).slot slot + p % slotBytes (rl.bank k).slot)))
      | none => (s1, .wait)
  | .bstore _ => (s0, .fail 0x37)

/-- The destination unit of row i, byte b (R189, R205). DESIGN CHOICE, entry 89: a gather's slot takes the swizzle record of
its command, as a copy's does (R190). -/
def State.dstUnit (s : State) (r q ctx : Nat) (c : Command) (i b : Nat) : State × UnitAt :=
  let off (base : Nat) : Nat := base + i * c.dstride + 16 * swizzle c.swz i (b / 16)
  match c.dst with
  | .device cap base => s.deviceUnit (.engine r q) ctx cap (off base) true
  | .scratch base => s.scratchUnit r (off base) true
  | .fifo k =>
    match find s.relays r with
    | none => (s, .wait)
    | some rl =>
      let c0 := match (rl.queue q).items with
        | .command c :: _ => c
        | _ => c
      let p := phys c.swz c.dstride i b
      let res := rl.reachSlot q k false c0.dstHeld c0.dstBack p 2049
      let rl1 := (res.1.setHead q { c0 with dstHeld := res.2.1 })
      match res.2.2 with
      | some slot =>
        let rl2 := rl1.modBank k fun b => b.setSwz slot c.swz
        ({ s with relays := put s.relays r rl2 },
          .at (.scr (slotOff k (rl.bank k).slot slot + p % slotBytes (rl.bank k).slot)))
      | none => ({ s with relays := put s.relays r rl1 }, .wait)
  | .bstore base => (s, if q < 8 then .bstore (i * bankBytes + base + b) else .fail 0x37)

/-- The position of a stream below which a command that has moved n units reaches no more. -/
def Command.front (c : Command) (n stride k : Nat) : Nat :=
  let upr := c.rowBytes / 16
  let i := n / upr
  let here := i * stride + 16 * (n % upr / 2 ^ k * 2 ^ k)
  if i + 1 < c.rows then min here ((i + 1) * stride) else here

/-- How many of its oldest held slots at one end a stream at position p has passed. -/
def Relay.passed (rl : Relay) (bank back held p : Nat) : Nat := min held (p / slotBytes (rl.bank bank).slot - back)

/-- The held slots of the destination that the head command has passed. -/
def Relay.dstPassed (rl : Relay) (c : Command) : Nat :=
  match c.dst with
  | .fifo k => rl.passed k c.dstBack c.dstHeld.length (c.front c.unitsWritten c.dstride c.swz)
  | _ => 0

/-- Slots that the command has passed are given back, in order. -/
def Relay.passSlots (rl : Relay) (q : Nat) (c : Command) : Relay :=
  let rl1 := match c.dst with
    | .fifo k =>
      let n := rl.dstPassed c
      ((List.range n).foldl (fun rl _ => rl.giveBack q k false) rl).setHead q
        { c with dstHeld := c.dstHeld.drop n, dstBack := c.dstBack + n }
    | _ => rl.setHead q c
  match c.src with
  | .fifo k =>
    let n := rl.passed k c.srcBack c.srcHeld.length (c.front (c.unitsRead q) c.sstride c.sswz)
    let rl2 := (List.range n).foldl (fun rl _ => rl.giveBack q k true) rl1
    match (rl2.queue q).items with
    | .command c1 :: _ => rl2.setHead q { c1 with srcHeld := c1.srcHeld.drop n, srcBack := c1.srcBack + n }
    | _ => rl2
  | _ => rl1

/-- The head command of a queue. -/
def Relay.head (rl : Relay) (q : Nat) : Option Command :=
  match (rl.queue q).items with
  | .command c :: _ => some c
  | _ => none

/-- The bytes at a location, of a unit. -/
def State.unitBytes (s : State) (r : Nat) (l : Loc) : Nat := s.readLoc (.pacer r) l 16

/-- An engine's write: the bytes, the record of the sector under the queue's agent, the page's swizzle record. DESIGN
CHOICE, entry 89: a collective sets the records of its pages and slots too (R190). -/
def State.engineWrite (s : State) (r q epoch : Nat) (nodet : Bool) (l : Loc) (n v k : Nat) : State :=
  match find s.relays r with
  | none => s
  | some rl =>
    let t := if q = 10 then rl.mqRace else (rl.queue q).race
    let s1 := ((s.writeLoc (.pacer r) l n v).recordWrite (.pacer r) (agentQueue rl.linear q) epoch nodet t l n
      Order.data).useSlice (.pacer r) l
    match l with
    | .scr off =>
      if off < fifoBase then
        s1.modRelay r fun rl => rl.setPage (off / 4096) { rl.page (off / 4096) with swz := k, dirty := true }
      else s1
    | .dev _ _ => s1

/-- The oldest n held destination slots of the head command of queue q: the units it has not written are set to 0, a
write of the queue like its others (R205, R206). -/
def State.zeroHeld (s : State) (r q n : Nat) : State :=
  match find s.relays r with
  | none => s
  | some rl =>
    match rl.head q, find s.fields rl.field with
    | some c, some f =>
      match c.dst with
      | .fifo k =>
        let slot := (rl.bank k).slot
        let sb := slotBytes slot
        (List.range n).foldl (fun s j => (List.range (sb / 16)).foldl (fun s i =>
          if c.wrote ((c.dstBack + j) * sb + 16 * i) then s
          else s.engineWrite r q f.epoch f.nodet (.scr (slotOff k slot (c.dstHeld.getD j 0) + 16 * i)) 16 0 0) s) s
      | _ => s
    | _, _ => s

/-- The head command of a queue, changed, gives back the slots it has passed. -/
def State.passHead (s : State) (r q : Nat) (f : Command → Command) : State :=
  let s1 := s.modRelay r fun rl => match rl.head q with
    | some c => rl.setHead q (f c)
    | none => rl
  match find s1.relays r with
  | none => s1
  | some rl =>
    match rl.head q with
    | some c => (s1.zeroHeld r q (rl.dstPassed c)).modRelay r fun rl => rl.passSlots q c
    | none => s1

/-- Write into the B store: slices of 128 KiB side by side. -/
def Relay.writeB (rl : Relay) (off n v : Nat) : Relay := { rl with bstore := writeBytes rl.bstore off n v }
def Relay.readB (rl : Relay) (off : Nat) : Nat → Nat
  | 0 => 0
  | n + 1 => (getD 0#8 rl.bstore off).toNat + 256 * Relay.readB rl (off + 1) n

/-- A relay's engines act while the relay is resident and not stopped. -/
def Relay.active (rl : Relay) : Bool := rl.place.isSome && !rl.stopped

/-- What the GSET that resolved a command's guard released to it, where its queue has not acquired that yet (R171). -/
def Relay.handOf (rl : Relay) (c : Command) : List RaceEntry :=
  match c.guard, c.ruled with
  | some g, none => if rl.guardOf c = .unresolved then [] else (find rl.guardHand g).getD []
  | _, _ => []

/-- The head command of a queue runs or is discarded, as its guard says: its queue acquires what the GSET released (R171,
R209). -/
def State.takeHand (s : State) (r q : Nat) : State :=
  s.modRelay r fun rl => match rl.head q with
    | some c => rl.setQueue q { rl.queue q with race := (rl.queue q).race.merge (rl.handOf c) }
    | none => rl

/-- The head command of a queue ends (R206): what a GSET released to it is its queue's too, its held slots are completed,
and it is counted. -/
def State.endCommand (s : State) (r q : Nat) (cause cstat : Option Nat) : State :=
  let held := match find s.relays r with
    | some rl => (rl.head q).map fun (c : Command) => c.dstHeld.length
    | none => none
  ((s.takeHand r q).zeroHeld r q (held.getD 0)).modRelay r fun rl => rl.endCommand q cause cstat

/-- COPY_ENGINE_TRANSFER (R205): the head command of a queue moves its next 16-byte unit. A command whose guard
is not resolved true waits; a failure completes it at once (R206). -/
def execCopyEngineTransfer (relay queue : Nat) (s : State) : Host.Outcome State Fault Refusal :=
  match find s.relays relay with
  | none => .next s
  | some rl =>
    match (rl.queue queue).items, find s.fields rl.field with
    | .command c :: _, some f =>
      if 9 ≤ queue || !rl.active || c.units ≤ c.done || rl.guardOf c ≠ .yes then .next s
      else
        let upr := c.rowBytes / 16
        let i := c.done / upr
        let b := 16 * (c.done % upr)
        let r0 := (s.takeHand relay queue).sourceRow relay queue c i b
        let r1 := r0.1.srcUnit relay queue f.ctx (scratchRounded f) c r0.2 b
        let pass (s : State) : State := s.passHead relay queue id
        match r1.2 with
        | .fail cause => .next (r1.1.endCommand relay queue (some cause) none)
        | .at ls =>
          let v := r1.1.unitBytes relay ls
          let r2 := (r1.1.useSlice (.pacer relay) ls).dstUnit relay queue f.ctx c i b
          let finish (s : State) : State := s.passHead relay queue fun c1 => { c1 with done := c.done + 1, row := r0.2 }
          match r2.2 with
          | .at ld => .next (finish (r2.1.engineWrite relay queue f.epoch f.nodet ld 16 v c.swz))
          | .bstore off => .next (finish (r2.1.modRelay relay fun rl => rl.writeB off 16 v))
          | .fail cause => .next (r2.1.endCommand relay queue (some cause) none)
          | .wait => .next (pass r2.1)
        | _ => .next (pass r1.1)
    | _, _ => .next s

/-- COMMAND_COMPLETION (R206, R209): the head command has moved its last unit, or its guard is false. -/
def execCommandCompletion (relay queue : Nat) (s : State) : Host.Outcome State Fault Refusal :=
  match find s.relays relay with
  | none => .next s
  | some rl =>
    match rl.head queue with
    | some c =>
      if !rl.active then .next s
      else match rl.guardOf c with
        | .no => .next (s.endCommand relay queue none none)
        | .yes => .next (if queue < 9 && c.units ≤ c.done then s.endCommand relay queue none none else s)
        | .unresolved => .next s
    | none => .next s

end Sys2Proof.Machine
end

