-- ==== Sys2Proof/Machine/Command.lean ====
section
/-! DEFINITION. The command instructions CQW, CQGO, CWAIT, GSET and QFENCE (R199 to R209, R367, R368, R372,
R394, R432, R433). -/

namespace Sys2Proof.Machine

/-! ### CQW (R199, R368) -/

/-- Write a slot; the first CQW since launch clears the others. -/
def Strand.writeSlot (x : Strand) (d : Nat) (v : KSlot) : Strand :=
  { x with k := put (if x.kset then x.k else []) d v, kset := true }

/-- A poisoned predicate poisons the slot, whether or not the word writes it (R260). -/
def Strand.taintSlot (x : Strand) (d : Nat) (t : Taint) : Strand :=
  if t = .clean || 4 ≤ d then x
  else { x with k := put x.k d ⟨(x.kslot d).val, (x.kslot d).taint.join t⟩ }

def cqwWord (s : State) (F : Focus) (x : Strand) (info : WordInfo) (d : Nat) (sregs : List Nat) (v : Opd) : State :=
  let e := execLanes x F.lanes info.pred
  let t := predTaints x (lanesOf F.lanes) info.pred
  if e = 0#32 then s.finishOnce F (x.taintSlot d t) info [] e {}
  else if mustVerify [v.taint] then s
  else
    let causes := unitCauses F.unit {} ++ scalarCauses s F.unit x e info.pred sregs ++ poisonCause [v.taint] ++
      (if d < 4 then [] else [0x04])
    let x1 := if causes.isEmpty then x.writeSlot d ⟨BitVec.ofNat 64 v.val, v.taint.join t⟩ else x
    s.finishOnce F x1 info [] e { causes := causes }

/-- CQW (R368). -/
def execCqw (f : RegF) (s : State) : Host.Outcome State Fault Refusal :=
  withUnit s fun F x => cqwWord s F x (regInfo f) f.d.toNat (span f.a.toNat 2) (readOpd x 0 true f.a.toNat 2)

/-- CQW, extended (R346, R368). -/
def execCqwExt (f : CqwxF) (s : State) : Host.Outcome State Fault Refusal :=
  withUnit s fun F x => cqwWord s F x ⟨f.pred, 0, 2, 1⟩ f.slot.toNat [] ⟨f.val.toNat, .clean⟩

/-! ### CQGO (R200 to R204, R367) -/

/-- One side of a command: its causes, or where it lies. -/
structure Side where
  causes : List Nat := []
  fva : Nat := 0
  place : Place := .scratch 0
  stride : Nat := 0
  swz : Nat := 0
  scale : Option Nat := none

/-- Bytes per slice of a B store tensor of K rows (R151). -/
def sliceBytes (fmt k : Nat) : Nat := if fmt = fmtE2M1X then k / 2 + 2 * (k / 32) else elemsBytes fmt k

/-- A device side: capability, extent, permission, alignment (R123, R203). -/
def deviceSide (c : Cap) (off ext : Nat) (isSrc free : Bool) : List Nat :=
  (if c.tag then [] else [0x20]) ++ (if !free && c.len < off + ext then [0x21] else []) ++
  (if (if isSrc then c.canR else c.canW) then [] else [0x22]) ++
  (if off % 16 = 0 && capVa c off % 16 = 0 then [] else [0x12])

/-- A scratch side. -/
def scratchSide (rounded off ext : Nat) (free : Bool) : List Nat :=
  (if off % 16 = 0 then [] else [0x12]) ++ (if !free && rounded < off + ext then [0x13] else [])

/-- A FIFO side. -/
def State.fifoSide (s : State) (u : UnitRef) (k : Nat) : List Nat :=
  if s.owned u ≤ k then [0x17]
  else match s.relayOf u with
    | some rl => if (rl.bank k).mode = .fifo then [] else [0x18]
    | none => [0x17]

/-- A B store destination (R151, R203). -/
def bstoreSide (hasPacer : Bool) (t : Tensor) (rows rb : Nat) : List Nat :=
  let per := sliceBytes t.format t.rows
  (if hasPacer && t.cols = 128 && t.format < 6 && t.base % 64 = 0 && rows = 128 && rb = per then [] else [0x37]) ++
  (if 0x20000 < t.base + per then [0x58] else [])

/-- One side from its location word (R200, R203); `free` for a gather's source, whose rows are checked as read. -/
def State.side (s : State) (u : UnitRef) (x : Strand) (w rows rb stride swz : Nat) (isSrc free : Bool) : Side :=
  let kind := bits w 63 60
  let creg := bits w 59 56
  let addr := bits w 55 0
  let rounded := s.fieldD u 0 scratchRounded
  let ext := (rows - 1) * stride + rb
  let k := if isSrc then 0 else swz
  let odd := if rb % (16 * 2 ^ k) = 0 then [] else [0x04]
  match kind with
  | 0 =>
    let c := x.creg creg
    { causes := deviceSide c addr ext isSrc free, fva := capVa c addr, place := .device c addr, stride := stride }
  | 1 =>
    { causes := (if creg = 0 then [] else [0x04]) ++ odd ++ scratchSide rounded addr ext free, fva := addr,
      place := .scratch addr, stride := stride, swz := k }
  | 2 =>
    { causes := (if creg = 0 && addr < 32 then [] else [0x04]) ++ odd ++ s.fifoSide u addr,
      place := .fifo addr, stride := stride, swz := k }
  | 3 =>
    if creg ≠ 0 || 256 ≤ addr then { causes := [0x04] }
    else
      let t := s.tensor u addr
      if !t.captureOk then { causes := [0x37] }
      else
        let shape := if rows = t.rows && rb = t.rowBytes then [] else [0x37]
        let text := (rows - 1) * t.stride + rb
        let sc := if t.format = fmtE2M1X then some t.scale else none
        match t.loc with
        | 0 => { causes := shape ++ deviceSide t.cap t.base text isSrc free, fva := capVa t.cap t.base,
                 place := .device t.cap t.base, stride := t.stride, swz := t.swzCode, scale := sc }
        | 1 => { causes := shape ++ scratchSide rounded t.base text free, fva := t.base, place := .scratch t.base,
                 stride := t.stride, swz := t.swzCode, scale := sc }
        | 2 => { causes := shape ++ s.fifoSide u (t.base % 32), place := .fifo (t.base % 32), stride := t.stride,
                 swz := t.swzCode, scale := sc }
        | _ =>
          if isSrc then { causes := [0x37] }
          else { causes := bstoreSide (s.fieldD u false hdrHasPacer) t rows rb, place := .bstore t.base }
  | _ => { causes := [0x04] }

/-- Commands placed by one core's heats, and by one cluster's heats and pacer, still incomplete (R204). -/
def State.commandsOf (s : State) (p : Command → Relay → Bool) : Nat :=
  s.relays.foldl (fun n e => e.2.queues.foldl (fun n q => n + (q.2.items.filter fun it =>
    match it with
    | .command c => p c e.2
    | .marker _ => false).length) n) 0

def State.commandRoom (s : State) (u : UnitRef) : Bool :=
  (match s.coreOf u with
   | some p => s.commandsOf (fun c rl => rl.place.isSome && (c.squad.bind fun q => (find rl.squads q).map fun (z : Squad) =>
       z.core) = some p) < 1024
   | none => true) &&
  (match s.clusterOf u with
   | some cl => s.commandsOf (fun _ rl => rl.place = some cl) < 4096
   | none => true)

/-- The definition in force of a collective group (R298). -/
def State.groupOf (s : State) (u : UnitRef) (cgrp : Nat) : List Nat :=
  match s.ctxOf u with
  | some c => (find c.cgrps cgrp).getD []
  | none => []

/-- Place a command: the issuing agent releases to the queue (R171, R175). -/
def State.placeCommand (s : State) (u : UnitRef) (x : Strand) (q : Nat) (c : Command) : State × Strand :=
  let t := x.race.release 2
  let l := t.give (s.agentOf u) t.count
  (match unitRelay u with
   | some r => s.modRelay r fun rl =>
       let e := rl.queue q
       rl.setQueue q { e with items := e.items ++ [.command c], race := e.race.merge l }
   | none => s, { x with race := t })

/-- Reserved bits of IMM29 in CQGO (R367). -/
def cqgoReserved (imm : Nat) : Bool := bits imm 28 9 ≠ 0 || (!bit imm 4 && bits imm 8 5 ≠ 0)

/-- CQGO (R203). DESIGN CHOICE, entry 98: a ROWBYTES that is not a multiple of 16 meets 0x04 with every destination
(R201). -/
def execCqgo (f : ImmF) (s : State) : Host.Outcome State Fault Refusal :=
  withUnit s fun F x =>
    let u := F.unit
    let e := effectLanes x F.lanes f.pred
    let imm := f.imm.toNat
    let q := bits imm 3 0
    let ks := (List.range 4).map x.kslot
    let kv (i : Nat) : Nat := (x.kslot i).val.toNat
    let ts := guardTaint x F.lanes f.pred :: ks.map fun k => k.taint
    let base := unitCauses u {} ++ scalarCauses s u x e f.pred [] ++ (if cqgoReserved imm then [0x04] else []) ++
      (if x.kset then [] else [0x50]) ++ (if 9 < q then [0x51] else [])
    -- slots that no CQW has written since launch give nothing to check; a queue that does not exist outranks none of
    -- their causes (R68)
    let judged := x.kset && !mustVerify ts
    let rows := if bits (kv 2) 63 52 = 0 then 4096 else bits (kv 2) 63 52
    let rb := if bits (kv 2) 51 36 = 0 then 65536 else bits (kv 2) 51 36
    let aux := bits (kv 3) 63 40
    let swz := bits (kv 3) 5 3
    let gather := q = 8
    let src := s.side u x (kv 0) rows rb (16 * bits (kv 2) 35 18) swz true gather
    let dst0 := s.side u x (kv 1) rows rb (16 * bits (kv 2) 17 0) swz false false
    -- only the copy queues write the B store (R151, R159)
    let dst : Side := match dst0.place with
      | .bstore _ => { dst0 with causes := dst0.causes ++ (if q < 8 then [] else [0x37]) }
      | _ => dst0
    let idx := aux / 2
    let words := (if rb % 16 = 0 && bits (kv 3) 39 16 = 0 && bits (kv 3) 1 0 = 0 && (q = 9 || !bit (kv 3) 2) &&
        (7 < q || aux = 0) && (!gather || aux % 2 = 0) && (q < 8 || bits (kv 0) 63 60 ≠ 2) then [] else [0x04]) ++
      (if gather then (if idx % 4 = 0 then [] else [0x12]) ++
        (if s.fieldD u 0 scratchRounded < idx + 4 * rows then [0x13] else []) else [])
    if e = 0#32 then s.finishOnce F x (immInfo f) [] e {}
    else if x.kset && mustVerify ts && base.all (fun c => c = 0x51) then s
    else
      let causes := base ++ (if judged then poisonCause ts ++ words ++ src.causes ++ dst.causes else [])
      match pickCause causes with
      | some c =>
        let fva := if src.causes.contains c then src.fva else if dst.causes.contains c then dst.fva else idx
        s.finishOnce F x (immInfo f) [] e { causes := causes, fva := fva }
      | none =>
        if !s.commandRoom u then s
        else
          let c : Command :=
            { src := src.place, dst := dst.place, rows := rows, rowBytes := rb, sstride := src.stride,
              dstride := dst.stride, sswz := src.swz, swz := dst.swz, sscale := src.scale, dscale := dst.scale,
              idxOff := idx, cgrp := bits aux 23 8, cop := bits aux 7 4, cfmt := bits aux 3 0, ctrap := bit (kv 3) 2,
              cnt := if bit (kv 3) 11 then some (bits (kv 3) 15 12) else none,
              guard := if bit imm 4 then some (bits imm 8 5)
                else if bit (kv 3) 6 then some (bits (kv 3) 10 7) else none,
              squad := if isHeat u then some (unitSquadHeat u).1 else none, group := if q = 9 then s.groupOf u (bits aux 23 8) else [], done := 0, row := 0,
              srcHeld := [], dstHeld := [], srcBack := 0, dstBack := 0, got := [], result := none, ruled := none, aborted := none }
          let r := s.placeCommand u x q c
          r.1.finishOnce F r.2 (immInfo f) [] e {}

/-! ### CWAIT (R208, R372, R373) -/

/-- What the waiter acquires: of each queue whose commands the counter has counted, its table and its count as the last of
those completed (R171). Which count the entry of a queue carries, R175, step 5, does not say: with this one it orders the
writes of the counted commands and of no later one (DESIGN CHOICE, log 8). -/
def Relay.countedGives (rl : Relay) (n : Nat) : List RaceEntry := getD [] rl.counted n

def counterReached (w : Word64) (target : Nat) : Bool := target ≤ bits w.toNat 47 0

/-- The cause under which a reached counter faults: CAUSE while ERR is 1. -/
def counterCause (w : Word64) : List Nat := if bit w.toNat 63 then [bits w.toNat 62 56] else []

/-- A waiting word: complete at once where `ready`, else held; with lookahead, outside single step, an open window (R84,
R86). -/
def State.waitWord (s : State) (F : Focus) (x : Strand) (info : WordInfo) (la : Nat) (kind : OpKind) (hold : Hold)
    (base : List Nat) (ready : Bool) (causes : List Nat) (acquired : List RaceEntry) : State :=
  let e := execLanes x F.lanes info.pred
  if e = 0#32 then s.finishOnce F x info [] e {}
  else if !base.isEmpty then s.finishOnce F x info [] e { causes := base }
  else if ready then
    let x1 : Strand := if causes.isEmpty then { x with race := x.race.merge acquired } else x
    s.finishOnce F x1 info [] e { causes := causes }
  else if la = 0 || s.stepping F then s.finishOnce F x info [] e { hold := some hold }
  else
    let op : LongOp := ⟨kind, (x.lane ((lowest F.lanes).getD 0)).lpc, e, la + info.places, [], [], 0#5, 0#4,
      (lanesOf e).map (fun i => (i, x.lane i)), overNone, [], 0, F.handler⟩
    s.finishOnce F { x with ops := x.ops ++ [op] } info [] e {}

/-- CWAIT. -/
def execCwait (f : RegF) (s : State) : Host.Outcome State Fault Refusal :=
  withUnit s fun F x =>
    let u := F.unit
    let e := execLanes x F.lanes f.pred
    let b := readOpd x 0 true f.b.toNat 2
    let n := f.a.toNat
    let base := unitCauses u {} ++ scalarCauses s u x e f.pred (span f.b.toNat 2) ++
      (if n < 16 && b.val < 2 ^ 48 then [] else [0x04])
    match s.relayOf u with
    | none => s.finishOnce F x { regInfo f with la := 0 } [] e { causes := base ++ [0x02] }
    | some rl =>
      let w := rl.counter n
      s.waitWord F x { regInfo f with la := 0 } f.la.toNat (.cwait n b.val) (.cwait n b.val ((lowest e).getD 0)) base
        (counterReached w b.val) (counterCause w) (rl.countedGives n)

/-! ### GSET (R209, R394) -/

def guardOfValue (v : Nat) : Guard := if v = 1 then .yes else if v = 0 then .no else .unresolved

/-- GSET. -/
def execGset (f : ImmF) (s : State) : Host.Outcome State Fault Refusal :=
  withUnit s fun F x =>
    let u := F.unit
    let e := effectLanes x F.lanes f.pred
    let g := readOpd x 0 true f.a.toNat 1
    let ts := [g.taint, guardTaint x F.lanes f.pred]
    let v := f.imm.toNat
    if e = 0#32 then s.finishOnce F x (immInfo f) [] e {}
    else if mustVerify ts then s
    else
      let causes := unitCauses u {} ++ scalarCauses s u x e f.pred [f.a.toNat] ++ poisonCause ts ++
        (if 2 < v then [0x04] else []) ++ (if 15 < g.val then [0x52] else [])
      if !causes.isEmpty then s.finishOnce F x (immInfo f) [] e { causes := causes }
      else
        let t := x.race.release 2
        let l := t.give (s.agentOf u) t.count
        let s1 := match unitRelay u with
          | some r => s.modRelay r fun rl =>
              { rl.ruleHeads g.val with
                guards := put rl.guards g.val (guardOfValue v), guardHand := put rl.guardHand g.val l }
          | none => s
        s1.finishOnce F { x with race := t } (immInfo f) [] e {}

/-! ### QFENCE (R170, R433) -/

/-- Place one marker at the tail of every named queue. -/
def Relay.placeMarkers (rl : Relay) (mask : Nat) : Relay :=
  let id := rl.nextMarker
  let rl1 := (List.range 10).foldl (fun rl q =>
    if bit mask q then
      let e := rl.queue q
      rl.setQueue q { e with items := e.items ++ [.marker id] }
    else rl) rl
  ({ rl1 with
    mq := if bit mask 10 then rl1.mq ++ [.marker id] else rl1.mq, nextMarker := id + 1 } : Relay).tidyMarkers

/-- QFENCE. -/
def execQfence (f : ImmF) (s : State) : Host.Outcome State Fault Refusal :=
  withUnit s fun F x =>
    let u := F.unit
    let e := execLanes x F.lanes f.pred
    let m := f.imm.toNat
    let causes := unitCauses u {} ++ scalarCauses s u x e f.pred [] ++ (if m < 2048 then [] else [0x04])
    let s1 := match unitRelay u with
      | some r => if e ≠ 0#32 && causes.isEmpty then s.modRelay r fun rl => rl.placeMarkers m else s
      | none => s
    s1.finishOnce F x (immInfo f) [] e { causes := causes }

end Sys2Proof.Machine
end

