-- ==== Sys2Proof/Machine/Logic.lean ====
section
/-! DEFINITION. The logical, shift, bit-field, move and select instructions (R348, R349, R359, R364,
R423, R424, R440 to R442). -/

namespace Sys2Proof.Machine

/-- A register form of a logical instruction over w bits (R349). -/
def logicReg (sh : Shape) (f : RegF) (s : State) (op : Nat → Nat → Nat → Nat) : Host.Outcome State Fault Refusal :=
  aluWord s (regAlu sh anyUnit f) fun l _ => { d := op (tyW f.ty) (arg l 0) (arg l 1) }

/-- An immediate form of a logical instruction, 32 bits (R349). -/
def logicImm (uniform : Bool) (f : ImmF) (s : State) (op : Nat → Nat → Nat) : Host.Outcome State Fault Refusal :=
  aluWord s (immAlu uniform true f) fun l _ => { d := op (arg l 0) (imm29 f.imm) }

def execAnd (f : RegF) (s : State) : Host.Outcome State Fault Refusal := logicReg shLogic f s fun _ a b => a &&& b
def execOr (f : RegF) (s : State) : Host.Outcome State Fault Refusal := logicReg shLogic f s fun _ a b => a ||| b
def execXor (f : RegF) (s : State) : Host.Outcome State Fault Refusal := logicReg shLogic f s fun _ a b => a ^^^ b
def execNot (f : RegF) (s : State) : Host.Outcome State Fault Refusal :=
  logicReg shNot f s fun w a _ => 2 ^ w - 1 - a % 2 ^ w
def execAndImm (f : ImmF) (s : State) : Host.Outcome State Fault Refusal := logicImm false f s (· &&& ·)
def execAndImmUniform (f : ImmF) (s : State) : Host.Outcome State Fault Refusal := logicImm true f s (· &&& ·)
def execOrImm (f : ImmF) (s : State) : Host.Outcome State Fault Refusal := logicImm false f s (· ||| ·)
def execOrImmUniform (f : ImmF) (s : State) : Host.Outcome State Fault Refusal := logicImm true f s (· ||| ·)
def execXorImm (f : ImmF) (s : State) : Host.Outcome State Fault Refusal := logicImm false f s (· ^^^ ·)
def execXorImmUniform (f : ImmF) (s : State) : Host.Outcome State Fault Refusal := logicImm true f s (· ^^^ ·)

/-! ### Shifts (R441): the result as an exact value, narrowed and placed under R93 -/

def shlVal (w x sh : Nat) : Nat := if w ≤ sh then 0 else x * 2 ^ sh % 2 ^ w
def shrVal (w x sh : Nat) : Nat := if w ≤ sh then 0 else x / 2 ^ sh
def sarVal (w x sh : Nat) : Nat := wrap w (signed w x / ((2 ^ min sh w : Nat) : Int))
def rotlVal (w x sh : Nat) : Nat :=
  let t := sh % w
  (x * 2 ^ t + x / 2 ^ (w - t)) % 2 ^ w

/-- A register form of a shift: the amount is B[7:0] (R441). -/
def shiftReg (f : RegF) (s : State) (op : Nat → Nat → Nat → Nat) : Host.Outcome State Fault Refusal :=
  aluWord s (regAlu shShift anyUnit f) fun l _ =>
    let w := tyW f.ty
    { d := place f.ty (intVal f.ty (op w (arg l 0 % 2 ^ w) (arg l 1 % 256))) }

/-- An immediate form of a shift: 32 bits, amount 0 to 31 (R336, R441). -/
def shiftImm (uniform : Bool) (f : ImmF) (s : State) (op : Nat → Nat → Nat → Nat) : Host.Outcome State Fault Refusal :=
  aluWord s (immAlu uniform true f) fun l _ => { d := op 32 (arg l 0) f.imm.toNat }

def execShl (f : RegF) (s : State) : Host.Outcome State Fault Refusal := shiftReg f s shlVal
def execShr (f : RegF) (s : State) : Host.Outcome State Fault Refusal := shiftReg f s shrVal
def execSar (f : RegF) (s : State) : Host.Outcome State Fault Refusal := shiftReg f s sarVal
def execRotl (f : RegF) (s : State) : Host.Outcome State Fault Refusal := shiftReg f s rotlVal
def execShlImm (f : ImmF) (s : State) : Host.Outcome State Fault Refusal := shiftImm false f s shlVal
def execShlImmUniform (f : ImmF) (s : State) : Host.Outcome State Fault Refusal := shiftImm true f s shlVal
def execShrImm (f : ImmF) (s : State) : Host.Outcome State Fault Refusal := shiftImm false f s shrVal
def execShrImmUniform (f : ImmF) (s : State) : Host.Outcome State Fault Refusal := shiftImm true f s shrVal
def execSarImm (f : ImmF) (s : State) : Host.Outcome State Fault Refusal := shiftImm false f s sarVal
def execSarImmUniform (f : ImmF) (s : State) : Host.Outcome State Fault Refusal := shiftImm true f s sarVal
def execRotlImm (f : ImmF) (s : State) : Host.Outcome State Fault Refusal := shiftImm false f s rotlVal
def execRotlImmUniform (f : ImmF) (s : State) : Host.Outcome State Fault Refusal := shiftImm true f s rotlVal

/-! ### Bit fields (R359) -/

/-- The position, the width cut to the register, and whether the field is empty. -/
def bfSpan (b c : Nat) : Option (Nat × Nat) :=
  let p := b % 256
  let w := c % 256
  if p > 31 || w = 0 then none else some (p, min w (32 - p))

def bfxVal (isSigned : Bool) (a b c : Nat) : Nat :=
  match bfSpan b c with
  | none => 0
  | some (p, w) => if isSigned then wrap 32 (signed w (a / 2 ^ p)) else a / 2 ^ p % 2 ^ w

def bfiVal (a b c d : Nat) : Nat :=
  match bfSpan b c with
  | none => d
  | some (p, w) => d % 2 ^ p + 2 ^ p * (a % 2 ^ w) + 2 ^ (p + w) * (d / 2 ^ (p + w))

def execBfx (f : RegF) (s : State) : Host.Outcome State Fault Refusal :=
  aluWord s (regAlu shBf anyUnit f) fun l _ => { d := bfxVal (f.ty = 2#3) (arg l 0) (arg l 1) (arg l 2) }

/-- BFI reads D (R359). -/
def execBfi (f : RegF) (s : State) : Host.Outcome State Fault Refusal :=
  let w := regAlu shBf anyUnit f
  aluWord s { w with srcs := w.srcs ++ [(f.u, f.d.toNat, 1)] } fun l _ =>
    { d := bfiVal (arg l 0) (arg l 1) (arg l 2) (arg l 3) }

/-! ### Bit counts (R364) -/

def brevVal (w a : Nat) : Nat := (List.range w).foldl (fun r i => r + boolBit (a.testBit i) * 2 ^ (w - 1 - i)) 0
def popcVal (w a : Nat) : Nat := (List.range w).foldl (fun r i => r + boolBit (a.testBit i)) 0
/-- The leading zeros of a w-bit value, 0 to w. -/
def clzVal (w a : Nat) : Nat :=
  (List.range w).foldl (fun r i => if a.testBit i then w - 1 - i else r) w

def execBrev (f : RegF) (s : State) : Host.Outcome State Fault Refusal :=
  logicReg shBrev f s fun w a _ => brevVal w a
def execClz (f : RegF) (s : State) : Host.Outcome State Fault Refusal :=
  logicReg shClz f s fun w a _ => clzVal w a
def execPopc (f : RegF) (s : State) : Host.Outcome State Fault Refusal :=
  logicReg shClz f s fun w a _ => popcVal w a

/-! ### Moves and selects (R423, R424, R442) -/

def execMov (f : RegF) (s : State) : Host.Outcome State Fault Refusal := logicReg shNot f s fun _ a _ => a

def moviWord (uniform : Bool) (f : ImmF) (s : State) : Host.Outcome State Fault Refusal :=
  aluWord s (immAlu uniform false f) fun _ _ => { d := imm29 f.imm }

def execMovi (f : ImmF) (s : State) : Host.Outcome State Fault Refusal := moviWord false f s
def execMoviUniform (f : ImmF) (s : State) : Host.Outcome State Fault Refusal := moviWord true f s

/-- Extended MOVI: a 32-bit or 64-bit immediate (R346, R424). -/
def execMoviExt (f : MovixF) (s : State) : Host.Outcome State Fault Refusal :=
  aluWord s { info := ⟨f.pred, 0, 2, 1⟩, runs := anyUnit, u := f.u, dst := some (f.d.toNat, Wd.count .byTy .int f.ty),
              srcs := [], psrc := none, pdst := none } fun _ _ => { d := f.val.toNat }

/-- SEL (R442): C names the predicate. -/
def execSel (f : RegF) (s : State) : Host.Outcome State Fault Refusal :=
  aluWord s { regAlu shSel anyUnit f with psrc := some f.c.toNat } fun l p => { d := if p then arg l 0 else arg l 1 }

end Sys2Proof.Machine
end

