-- ==== Sys2Proof/Machine/Real.lean ====
section
/-! DEFINITION. Exact arithmetic behind the number formats: integer square roots, and rational bounds of
the exponential and the logarithm, narrowed until a rounding is decided (R98, R113). -/

namespace Sys2Proof.Machine

/-- The bits of the integer square root of `m` below bit `i`, on top of `r`. -/
def isqrtFrom (m : Nat) : Nat → Nat → Nat
  | 0, r => r
  | i + 1, r => isqrtFrom m i (if (r + 2 ^ i) * (r + 2 ^ i) ≤ m then r + 2 ^ i else r)

/-- The integer square root. -/
def isqrt (m : Nat) : Nat := isqrtFrom m (m.log2 / 2 + 1) 0

/-- Division rounded down, or up. -/
def divTo (up : Bool) (a b : Nat) : Nat := if up then (a + b - 1) / b else a / b

/-- 2^k as a factor of an integer, for k of either sign: floor, or ceiling. -/
def shiftTo (up : Bool) (z k : Int) : Int :=
  if 0 ≤ k then z * ((2 ^ k.toNat : Nat) : Int)
  else
    let d : Int := ((2 ^ (-k).toNat : Nat) : Int)
    if up then -((-z) / d) else z / d

/-- Two bounds of a real number, in units of 2^−N. -/
structure Bounds where
  lo : Int
  hi : Int
deriving DecidableEq, Repr

/-- w/(2j+1) + w·z²/(2j+3) + …, n terms, every step rounded one way; the tail is below 4 units. -/
def atanhSum (S z2 : Nat) (up : Bool) : Nat → Nat → Nat → Nat
  | 0, _, _ => if up then 4 else 0
  | n + 1, j, w => divTo up w (2 * j + 1) + atanhSum S z2 up n (j + 1) (divTo up (w * z2) S)

/-- 2·artanh(num/den) for a quotient of at most 1/3. -/
def atanh2 (N num den : Nat) (up : Bool) : Nat :=
  let S := 2 ^ N
  let z := divTo up (S * num) den
  2 * atanhSum S (divTo up (z * z) S) up (N / 3 + 4) 0 z

/-- Bounds of ln 2. -/
def ln2 (N : Nat) : Bounds := ⟨atanh2 N 1 3 false, atanh2 N 1 3 true⟩

/-- Bounds of the product of an integer and a number. -/
def Bounds.scale (b : Bounds) (k : Int) : Bounds :=
  if 0 ≤ k then ⟨b.lo * k, b.hi * k⟩ else ⟨b.hi * k, b.lo * k⟩

def Bounds.add (a b : Bounds) : Bounds := ⟨a.lo + b.lo, a.hi + b.hi⟩

/-- Bounds of ln(m·2^e), m > 0. -/
def lnOf (N m : Nat) (e : Int) : Bounds :=
  let k := m.log2
  let d := 2 ^ k
  ((ln2 N).scale (e + k)).add ⟨atanh2 N (m - d) (m + d) false, atanh2 N (m - d) (m + d) true⟩

/-- 1 + r + r²/2! + …, n more terms after the term w = r^j/j!, rounded one way. -/
def expSum (S r : Nat) (up : Bool) : Nat → Nat → Nat → Nat
  | 0, _, w => w + if up then 4 else 0
  | n + 1, j, w => w + expSum S r up n (j + 1) (divTo up (w * r) (S * (j + 1)))

/-- Bounds of e^r for 0 ≤ r < 2. -/
def expSmall (N : Nat) (b : Bounds) : Bounds :=
  ⟨expSum (2 ^ N) b.lo.toNat false (N / 3 + 16) 0 (2 ^ N), expSum (2 ^ N) b.hi.toNat true (N / 3 + 16) 0 (2 ^ N)⟩

/-- e^x for x within bounds: bounds of the value divided by 2^k, with k. -/
def expOf (N : Nat) (x : Bounds) : Bounds × Int :=
  let l := ln2 N
  let k := x.lo / l.hi - 1
  (expSmall N (x.add (l.scale (-k))), k)

/-- The precisions tried in turn. -/
def precisions : List Nat := [96, 192, 384, 768]

/-- The first precision at which the two bounds give one answer; else the last lower bound's. -/
def refine {α : Type} [DecidableEq α] (f : Nat → α × α) (d : α) : List Nat → α
  | [] => d
  | n :: ns =>
    let r := f n
    if r.1 = r.2 then r.1 else refine f r.1 ns

/-- z·2^k rounded to an integer, to nearest with ties to even; `z` is num/den. -/
def nearest (num : Int) (den : Nat) : Int :=
  let d : Int := (den : Int)
  let q := num / d
  let r := num - q * d
  if 2 * r < d then q else if d < 2 * r then q + 1 else if q % 2 = 0 then q else q + 1

end Sys2Proof.Machine
end

