-- ==== Sys2Proof/Machine/Float.lean ====
section
/-! DEFINITION. Binary floating point: formats, exact rounding, flags (R96 to R102), and the instructions
FADD to FLOG2, VFMA2, DADD, DMUL, DFMA and CVT (R103 to R108, R369 to R375, R381 to R387, R459). -/

namespace Sys2Proof.Machine

/-! ### Formats (R96, R97) -/

structure Fmt where
  ebits : Nat
  fbits : Nat
  bias : Nat
  /-- an all-ones exponent denotes infinity or NaN, and a NaN may be signalling -/
  inf : Bool
  quietOnly : Bool
deriving DecidableEq, Repr

def f64 : Fmt := ⟨11, 52, 1023, true, false⟩
def f32 : Fmt := ⟨8, 23, 127, true, false⟩
def f16 : Fmt := ⟨5, 10, 15, true, false⟩
def bf16 : Fmt := ⟨8, 7, 127, true, false⟩
def e4m3 : Fmt := ⟨4, 3, 7, false, true⟩
def e5m2 : Fmt := ⟨5, 2, 15, true, true⟩

/-- The format of a floating type code (R95); E2M1X and the reserved code do not come here. -/
def fmtOf (ty : Nat) : Fmt :=
  match ty with
  | 0 => f32
  | 1 => f64
  | 2 => f16
  | 3 => bf16
  | 4 => e4m3
  | _ => e5m2

def Fmt.width (F : Fmt) : Nat := 1 + F.ebits + F.fbits
/-- The magnitude code whose exponent field is all ones and whose fraction is 0. -/
def Fmt.top (F : Fmt) : Nat := (2 ^ F.ebits - 1) * 2 ^ F.fbits
/-- The code of the largest finite magnitude. -/
def Fmt.maxCode (F : Fmt) : Nat := if F.inf then F.top - 1 else F.top + 2 ^ F.fbits - 2
/-- The canonical NaN (R97). -/
def Fmt.nan (F : Fmt) : Nat := if F.inf then F.top + 2 ^ (F.fbits - 1) else F.top + 2 ^ F.fbits - 1
def Fmt.signBit (F : Fmt) (neg : Bool) : Nat := boolBit neg * 2 ^ (F.ebits + F.fbits)
/-- The exponent of the smallest subnormal. -/
def Fmt.qmin (F : Fmt) : Int := 1 - (F.bias : Int) - F.fbits

/-- The value of a code. -/
inductive FVal where
  | nan (signalling : Bool)
  | inf (neg : Bool)
  | fin (neg : Bool) (m : Nat) (e : Int)
deriving DecidableEq, Repr

/-- Decode a code (R96, R97). -/
def Fmt.val (F : Fmt) (n : Nat) : FVal :=
  let mag := n % 2 ^ (F.ebits + F.fbits)
  let neg := n.testBit (F.ebits + F.fbits)
  let ex := mag / 2 ^ F.fbits
  let fr := mag % 2 ^ F.fbits
  if F.inf && ex = 2 ^ F.ebits - 1 then
    if fr = 0 then .inf neg else .nan (!F.quietOnly && !fr.testBit (F.fbits - 1))
  else if !F.inf && mag = F.nan then .nan false
  else if ex = 0 then .fin neg fr F.qmin
  else .fin neg (2 ^ F.fbits + fr) (F.qmin + (ex - 1))

def FVal.isNan : FVal → Bool
  | .nan _ => true
  | _ => false
def FVal.isSnan : FVal → Bool
  | .nan s => s
  | _ => false
def FVal.negate : FVal → FVal
  | .nan s => .nan s
  | .inf n => .inf !n
  | .fin n m e => .fin (!n) m e

/-! ### Rounding (R98, R99, R102) -/

/-- A result code with its exceptions. -/
structure FRes where
  bits : Nat
  fl : BitVec 5 := 0#5
deriving DecidableEq, Repr

/-- m·2^e as a multiple of 2^q: the integer part and whether it is exact. -/
def roundAt (mode : Rnd) (neg : Bool) (m : Nat) (e q : Int) : Nat × Bool :=
  if q ≤ e then (m * 2 ^ (e - q).toNat, true)
  else
    let d := 2 ^ (q - e).toNat
    let n := m / d
    let r := m % d
    let up := match mode with
      | .rne => d < 2 * r || (2 * r = d && n % 2 = 1)
      | .rtz => false
      | .rup => !neg && 0 < r
      | .rdn => neg && 0 < r
    (if up then n + 1 else n, r = 0)

/-- Whether overflow in a mode gives the largest finite value (R99). -/
def toMax (mode : Rnd) (neg : Bool) : Bool :=
  match mode with
  | .rne => false
  | .rtz => true
  | .rup => neg
  | .rdn => !neg

/-- An infinite result: replaced under SAT (R99); in E4M3 the NaN of the sign (R102). -/
def Fmt.infinite (F : Fmt) (sat neg : Bool) : Nat :=
  F.signBit neg + (if sat then F.maxCode else if F.inf then F.top else F.nan)

/-- round(±m·2^e, fmt, mode) of a non-zero exact value, with overflow, underflow and inexact (R98, R99). -/
def Fmt.round (F : Fmt) (mode : Rnd) (sat neg : Bool) (m : Nat) (e : Int) : FRes :=
  let qu := e + m.log2 - F.fbits
  let q := max qu F.qmin
  let r := roundAt mode neg m e q
  let code := ((q - F.qmin).toNat) * 2 ^ F.fbits + r.1
  if F.maxCode < code then
    ⟨if toMax mode neg then F.signBit neg + F.maxCode else F.infinite sat neg, fOF ||| fNX⟩
  else
    let u := (roundAt mode neg m e qu).1
    -- tiny: the value rounded with unbounded exponent range is below 2^(qmin + fbits)
    let tiny := qu < F.qmin && (u < 2 ^ (F.fbits + (F.qmin - qu).toNat))
    ⟨F.signBit neg + code, if r.2 then 0#5 else if tiny then fUF ||| fNX else fNX⟩

def Fmt.zero (F : Fmt) (neg : Bool) : FRes := ⟨F.signBit neg, 0#5⟩
def Fmt.nanRes (F : Fmt) (iv : Bool) : FRes := ⟨F.nan, if iv then fIV else 0#5⟩
def Fmt.infRes (F : Fmt) (sat neg : Bool) (fl : BitVec 5) : FRes := ⟨F.infinite sat neg, fl⟩

/-- An exact value that is not 0 and lies strictly between m·2^e and (m+1)·2^e, for rounding. -/
def stickyM (m : Nat) (exact : Bool) : Nat := if exact then 2 * m else 2 * m + 1

/-- Round a real number known by bounds in units of 2^e0, positive, irrational. -/
def Fmt.roundReal (F : Fmt) (mode : Rnd) (sat neg : Bool) (f : Nat → Bounds × Int) : FRes :=
  refine (fun N =>
    let r := f N
    (F.round mode sat neg (2 * r.1.lo.toNat + 1) (r.2 - 1),
     F.round mode sat neg (2 * (r.1.hi.toNat - 1) + 1) (r.2 - 1))) (F.nanRes false) precisions

/-! ### The operations on values -/

/-- NaN operands: canonical NaN, IV for a signalling one (R97). -/
def nanOf (F : Fmt) (l : List FVal) : Option FRes :=
  if l.any FVal.isNan then some (F.nanRes (l.any FVal.isSnan)) else none

/-- A signed exact sum of finite values: sign, magnitude, exponent; the sign of a zero sum by R375. -/
def sumFin (mode : Rnd) (n1 : Bool) (m1 : Nat) (e1 : Int) (n2 : Bool) (m2 : Nat) (e2 : Int) : Bool × Nat × Int :=
  let e := min e1 e2
  let a : Int := (m1 : Int) * (2 ^ (e1 - e).toNat : Nat)
  let b : Int := (m2 : Int) * (2 ^ (e2 - e).toNat : Nat)
  let z := (if n1 then -a else a) + (if n2 then -b else b)
  let neg := if z = 0 then (if n1 = n2 then n1 else mode = .rdn) else z < 0
  (neg, z.natAbs, e)

def Fmt.finish (F : Fmt) (mode : Rnd) (sat : Bool) (z : Bool × Nat × Int) : FRes :=
  if z.2.1 = 0 then F.zero z.1 else F.round mode sat z.1 z.2.1 z.2.2

/-- a + b (R375). -/
def fAdd (F : Fmt) (mode : Rnd) (sat : Bool) (a b : FVal) : FRes :=
  match nanOf F [a, b] with
  | some r => r
  | none =>
    match a, b with
    | .inf x, .inf y => if x = y then F.infRes sat x 0#5 else F.nanRes true
    | .inf x, _ => F.infRes sat x 0#5
    | _, .inf y => F.infRes sat y 0#5
    | .fin n1 m1 e1, .fin n2 m2 e2 => F.finish mode sat (sumFin mode n1 m1 e1 n2 m2 e2)
    | _, _ => F.nanRes false

/-- a × b (R375). -/
def fMul (F : Fmt) (mode : Rnd) (sat : Bool) (a b : FVal) : FRes :=
  match nanOf F [a, b] with
  | some r => r
  | none =>
    match a, b with
    | .inf x, .inf y => F.infRes sat (x != y) 0#5
    | .inf x, .fin y m _ => if m = 0 then F.nanRes true else F.infRes sat (x != y) 0#5
    | .fin x m _, .inf y => if m = 0 then F.nanRes true else F.infRes sat (x != y) 0#5
    | .fin n1 m1 e1, .fin n2 m2 e2 => F.finish mode sat (n1 != n2, m1 * m2, e1 + e2)
    | _, _ => F.nanRes false

/-- p + c with p = ±(a × b) exact: one rounding; zero times infinity raises IV whatever c is (R375). -/
def fFma (F : Fmt) (mode : Rnd) (sat np : Bool) (a b c : FVal) : FRes :=
  let zeroInf : Bool := match a, b with
    | .inf _, .fin _ m _ => m = 0
    | .fin _ m _, .inf _ => m = 0
    | _, _ => false
  if zeroInf then F.nanRes true
  else
    match nanOf F [a, b, c] with
    | some r => r
    | none =>
      let pInf := match a, b with
        | .inf x, .inf y => some (x != y)
        | .inf x, .fin y _ _ => some (x != y)
        | .fin x _ _, .inf y => some (x != y)
        | _, _ => none
      match pInf.map (fun n => n != np), c with
      | some n, .inf y => if n = y then F.infRes sat n 0#5 else F.nanRes true
      | some n, _ => F.infRes sat n 0#5
      | none, .inf y => F.infRes sat y 0#5
      | none, .fin n3 m3 e3 =>
        match a, b with
        | .fin n1 m1 e1, .fin n2 m2 e2 =>
          F.finish mode sat (sumFin mode ((n1 != n2) != np) (m1 * m2) (e1 + e2) n3 m3 e3)
        | _, _ => F.nanRes false
      | none, .nan _ => F.nanRes false

/-- a / b (R386). -/
def fDiv (F : Fmt) (mode : Rnd) (sat : Bool) (a b : FVal) : FRes :=
  match nanOf F [a, b] with
  | some r => r
  | none =>
    match a, b with
    | .inf _, .inf _ => F.nanRes true
    | .inf x, .fin y _ _ => F.infRes sat (x != y) 0#5
    | .fin x _ _, .inf y => F.zero (x != y)
    | .fin n1 m1 e1, .fin n2 m2 e2 =>
      if m2 = 0 then (if m1 = 0 then F.nanRes true else F.infRes sat (n1 != n2) fDZ)
      else if m1 = 0 then F.zero (n1 != n2)
      else
        let k := m2.log2 + F.fbits + 3
        let n := m1 * 2 ^ k
        F.round mode sat (n1 != n2) (stickyM (n / m2) (n % m2 = 0)) (e1 - e2 - k - 1)
    | _, _ => F.nanRes false

/-- √a (R386). -/
def fSqrt (F : Fmt) (mode : Rnd) (sat : Bool) (a : FVal) : FRes :=
  match a with
  | .nan s => F.nanRes s
  | .inf n => if n then F.nanRes true else F.infRes sat false 0#5
  | .fin n m e =>
    if m = 0 then F.zero n
    else if n then F.nanRes true
    else
      let k : Nat := 2 * F.fbits + 6 + (e % 2).toNat
      let x := m * 2 ^ k
      let r := isqrt x
      F.round mode sat false (stickyM r (r * r = x)) ((e - k) / 2 - 1)

/-- 1/√a (R386). -/
def fRsq (F : Fmt) (mode : Rnd) (sat : Bool) (a : FVal) : FRes :=
  match a with
  | .nan s => F.nanRes s
  | .inf n => if n then F.nanRes true else F.zero false
  | .fin n m e =>
    if m = 0 then F.infRes sat n fDZ
    else if n then F.nanRes true
    else
      let me := if e % 2 = 0 then m else 2 * m
      let ee := if e % 2 = 0 then e else e - 1
      let k := me.log2 + F.fbits + 4
      let r := isqrt (2 ^ (2 * k) / me)
      F.round mode sat false (stickyM r (r * r * me = 2 ^ (2 * k))) (-(ee / 2) - k - 1)

/-- 2^a (R386). -/
def fExp2 (F : Fmt) (mode : Rnd) (sat : Bool) (a : FVal) : FRes :=
  match a with
  | .nan s => F.nanRes s
  | .inf n => if n then F.zero false else F.infRes sat false 0#5
  | .fin n m e =>
    let big : Bool := m ≠ 0 && 11 ≤ e + m.log2
    if m = 0 then F.round mode sat false 1 0
    else if big then F.round mode sat false 1 (if n then -4096 else 4096)
    else
      -- the integer part k and the fraction r of a, r = num/2^s
      let s := (-e).toNat
      let z : Int := (if n then -(m : Int) else m) * (2 ^ e.toNat : Nat)
      let k := z / (2 ^ s : Nat)
      let num := (z - k * (2 ^ s : Nat)).toNat
      if num = 0 then F.round mode sat false 1 k
      else
        F.roundReal mode sat false fun N =>
          let l := ln2 N
          (expSmall N ⟨l.lo * num / (2 ^ s : Nat), -((-(l.hi * num)) / (2 ^ s : Nat))⟩, k - N)

/-- log2 a (R386). -/
def fLog2 (F : Fmt) (mode : Rnd) (sat : Bool) (a : FVal) : FRes :=
  match a with
  | .nan s => F.nanRes s
  | .inf n => if n then F.nanRes true else F.infRes sat false 0#5
  | .fin n m e =>
    if m = 0 then F.infRes sat true fDZ
    else if n then F.nanRes true
    else
      let k : Int := e + m.log2
      if m = 2 ^ m.log2 then
        if k = 0 then F.zero false else F.round mode sat (k < 0) k.natAbs 0
      else
        let neg := k < 0
        F.roundReal mode sat neg fun N =>
          let l := ln2 N
          let b := lnOf N m e
          let lo := if neg then -b.hi else b.lo
          let hi := if neg then -b.lo else b.hi
          (⟨lo * (2 ^ N : Nat) / l.hi, -((-(hi * (2 ^ N : Nat))) / l.lo)⟩, -N)

/-- The order of two values that are not NaN: a < b, and a = b; −0 equals +0. -/
def fLess (a b : FVal) : Bool :=
  match a, b with
  | .inf x, .inf y => x && !y
  | .inf x, _ => x
  | _, .inf y => !y
  | .fin n1 m1 e1, .fin n2 m2 e2 =>
    let e := min e1 e2
    let p : Int := (m1 : Int) * (2 ^ (e1 - e).toNat : Nat)
    let q : Int := (m2 : Int) * (2 ^ (e2 - e).toNat : Nat)
    (if n1 then -p else p) < (if n2 then -q else q)
  | _, _ => false

def FVal.neg : FVal → Bool
  | .nan _ => false
  | .inf n => n
  | .fin n _ _ => n

/-- FMIN and FMAX: one operand's code unchanged, −0 below +0 (R383). -/
def fMinMax (F : Fmt) (isMax : Bool) (ca cb : Nat) : FRes :=
  let a := F.val ca
  let b := F.val cb
  let fl := if a.isSnan || b.isSnan then fIV else 0#5
  let low x y := fLess x y || (!fLess y x && x.neg && !y.neg)
  let w := 2 ^ F.width
  if a.isNan && b.isNan then ⟨F.nan, fl⟩
  else if a.isNan then ⟨cb % w, fl⟩
  else if b.isNan then ⟨ca % w, fl⟩
  else ⟨if (if isMax then low a b else low b a) then cb % w else ca % w, fl⟩

/-- The conditions of a floating compare (R337): NE and UNORD hold, and the others fail, on unordered operands. -/
def fCond (cc : Nat) (unord lt eq : Bool) : Bool :=
  match cc with
  | 0 => !unord && eq
  | 1 => unord || !eq
  | 2 => !unord && lt
  | 3 => !unord && (lt || eq)
  | 4 => !unord && !lt && !eq
  | 5 => !unord && !lt
  | 10 => !unord
  | _ => unord

/-! ### Instructions on one format -/

def floatRes (r : FRes) : Res := { d := r.bits, fpf := r.fl }

/-- A floating word over its shape: operands decoded in the format of TYPE. -/
def floatReg (sh : Shape) (f : RegF) (s : State) (op : Fmt → List FVal → FRes) : Host.Outcome State Fault Refusal :=
  let F := fmtOf f.ty.toNat
  aluWord s (regAlu sh {} f) fun l _ => floatRes (op F (l.map F.val))

def farg (l : List FVal) (n : Nat) : FVal := l.getD n (.fin false 0 0)

def negIf (b : Bool) (v : FVal) : FVal := if b then v.negate else v

/-- FADD (R382). -/
def execFadd (f : RegF) (s : State) : Host.Outcome State Fault Refusal :=
  floatReg shFadd f s fun F l => fAdd F f.rnd f.sat (farg l 0) (farg l 1)
/-- FSUB (R382). -/
def execFsub (f : RegF) (s : State) : Host.Outcome State Fault Refusal :=
  floatReg shFadd f s fun F l => fAdd F f.rnd f.sat (farg l 0) (farg l 1).negate
/-- FMUL (R382). -/
def execFmul (f : RegF) (s : State) : Host.Outcome State Fault Refusal :=
  floatReg shFadd f s fun F l => fMul F f.rnd f.sat (farg l 0) (farg l 1)
/-- FFMA (R382). -/
def execFfma (f : RegF) (s : State) : Host.Outcome State Fault Refusal :=
  floatReg shFfma f s fun F l =>
    fFma F f.rnd f.sat (f.opx.getLsbD 0) (farg l 0) (farg l 1) (negIf (f.opx.getLsbD 1) (farg l 2))
/-- DADD (R375). -/
def execDadd (f : RegF) (s : State) : Host.Outcome State Fault Refusal :=
  floatReg shDadd f s fun F l => fAdd F f.rnd f.sat (farg l 0) (negIf (f.opx.getLsbD 0) (farg l 1))
/-- DMUL (R375). -/
def execDmul (f : RegF) (s : State) : Host.Outcome State Fault Refusal :=
  floatReg shDmul f s fun F l => fMul F f.rnd f.sat (farg l 0) (farg l 1)
/-- DFMA (R375). -/
def execDfma (f : RegF) (s : State) : Host.Outcome State Fault Refusal :=
  floatReg shDfma f s fun F l =>
    fFma F f.rnd f.sat (f.opx.getLsbD 0) (farg l 0) (farg l 1) (negIf (f.opx.getLsbD 1) (farg l 2))
/-- FDIV (R386). -/
def execFdiv (f : RegF) (s : State) : Host.Outcome State Fault Refusal :=
  floatReg shFdiv f s fun F l => fDiv F f.rnd f.sat (farg l 0) (farg l 1)
/-- FSQRT (R386). -/
def execFsqrt (f : RegF) (s : State) : Host.Outcome State Fault Refusal :=
  floatReg shFsqrt f s fun F l => fSqrt F f.rnd f.sat (farg l 0)
/-- FRCP (R386). -/
def execFrcp (f : RegF) (s : State) : Host.Outcome State Fault Refusal :=
  floatReg shFsfu f s fun F l => fDiv F f.rnd f.sat (.fin false 1 0) (farg l 0)
/-- FRSQ (R386). -/
def execFrsq (f : RegF) (s : State) : Host.Outcome State Fault Refusal :=
  floatReg shFsfu f s fun F l => fRsq F f.rnd f.sat (farg l 0)
/-- FEXP2 (R386). -/
def execFexp2 (f : RegF) (s : State) : Host.Outcome State Fault Refusal :=
  floatReg shFsfu f s fun F l => fExp2 F f.rnd f.sat (farg l 0)
/-- FLOG2 (R386). -/
def execFlog2 (f : RegF) (s : State) : Host.Outcome State Fault Refusal :=
  floatReg shFsfu f s fun F l => fLog2 F f.rnd f.sat (farg l 0)

/-- FMIN (R383). -/
def execFmin (f : RegF) (s : State) : Host.Outcome State Fault Refusal :=
  aluWord s (regAlu shFmin {} f) fun l _ => floatRes (fMinMax (fmtOf f.ty.toNat) false (arg l 0) (arg l 1))
/-- FMAX (R383). -/
def execFmax (f : RegF) (s : State) : Host.Outcome State Fault Refusal :=
  aluWord s (regAlu shFmin {} f) fun l _ => floatRes (fMinMax (fmtOf f.ty.toNat) true (arg l 0) (arg l 1))

/-- FCMP (R384): quiet, IV for a signalling NaN only. -/
def execFcmp (f : CmpF) (s : State) : Host.Outcome State Fault Refusal :=
  let F := fmtOf f.ty.toNat
  aluWord s (cmpAlu shFcmp anyUnit f) fun l _ =>
    let a := F.val (arg l 0)
    let b := F.val (arg l 1)
    { p := some (fCond f.cc.toNat (a.isNan || b.isNan) (fLess a b) (!fLess a b && !fLess b a)),
      fpf := if a.isSnan || b.isSnan then fIV else 0#5 }

/-- VFMA2 (R459): both halves, and their exceptions together. -/
def execVfma2 (f : RegF) (s : State) : Host.Outcome State Fault Refusal :=
  let F := fmtOf f.ty.toNat
  aluWord s (regAlu shVfma2 {} f) fun l _ =>
    let half (h : Nat) : FRes :=
      let v (n : Nat) : FVal := F.val (arg l n / 2 ^ (16 * h) % 2 ^ 16)
      fFma F f.rnd f.sat (f.opx.getLsbD 0) (v 0) (v 1) (negIf (f.opx.getLsbD 1) (v 2))
    { d := (half 0).bits + 2 ^ 16 * (half 1).bits, fpf := (half 0).fl ||| (half 1).fl }

/-! ### CVT (R102, R107, R108, R369 to R371) -/

/-- Floating to floating. An infinity into E4M3 raises IV (R102). -/
def cvtFF (S D : Fmt) (mode : Rnd) (sat : Bool) (n : Nat) : FRes :=
  match S.val n with
  | .nan s => D.nanRes s
  | .inf neg => ⟨D.infinite sat neg, if D.inf then 0#5 else fIV⟩
  | .fin neg m e => D.finish mode sat (neg, m, e)

/-- Integer to floating. -/
def cvtIF (sty : BitVec 3) (D : Fmt) (mode : Rnd) (sat : Bool) (n : Nat) : FRes :=
  let z := intVal sty n
  D.finish mode sat (z < 0, z.natAbs, 0)

/-- Floating to integer (R108). -/
def cvtFI (S : Fmt) (dty : BitVec 3) (mode : Rnd) (n : Nat) : Int × BitVec 5 :=
  match S.val n with
  | .nan _ => (0, fIV)
  | .inf neg => (if neg then tyMin dty else tyMax dty, fIV)
  | .fin neg m e =>
    let r := roundAt mode neg m e 0
    let z : Int := if neg then -(r.1 : Int) else r.1
    if z < tyMin dty then (tyMin dty, fIV)
    else if tyMax dty < z then (tyMax dty, fIV)
    else (z, if r.2 then 0#5 else fNX)

/-- A conversion that a lane makes alone (R107, R370). -/
def cvtRes (dcl scl : Bool) (dty sty : BitVec 3) (mode : Rnd) (sat : Bool) (n : Nat) : Res :=
  match dcl, scl with
  | false, false => intRes dty sat (intVal sty n)
  | true, false => floatRes (cvtIF sty (fmtOf dty.toNat) mode sat n)
  | false, true =>
    let r := cvtFI (fmtOf sty.toNat) dty mode n
    { d := place dty r.1, fpf := r.2 }
  | true, true => floatRes (cvtFF (fmtOf sty.toNat) (fmtOf dty.toNat) mode sat n)

def cvtAlu (f : RegF) : Alu :=
  { info := regInfo f, runs := {}, u := f.u, dst := some (f.d.toNat, cvtCount (cvtDcl f) f.ty),
    srcs := [(f.u || f.sa, f.a.toNat, cvtCount (cvtScl f) f.opx)], psrc := none, pdst := none }

/-! ### E2M1X blocks (R103 to R106) -/

/-- The value of an element code in eighths of the scale, for an E4M3 extra; `none` for the extra itself. -/
def e2m1Half (code : Nat) : Int :=
  let m : Int := match code % 8 with
    | 0 => 0
    | 1 => 1
    | 2 => 2
    | 3 => 3
    | 4 => 4
    | 5 => 6
    | 6 => 8
    | _ => 12
  if 8 ≤ code then -m else m

/-- A finite value as an integer count of 2^−9, exact for every E4M3 value and every element. A writer's extra that is a
NaN (0x7F or 0xFF), which R104 rules out and for which R106 gives a CVT neither codes nor flags, counts as 0 when codes are
chosen, and the block then written is invalid (DESIGN CHOICE, log 73). -/
def extra512 (extra : Nat) : Int :=
  match e4m3.val extra with
  | .fin neg m e =>
    let z : Int := (m * 2 ^ (e + 9).toNat : Nat)
    if neg then -z else z
  | _ => 0

/-- The value of an element code in units of 2^−9 (R104). -/
def e2m1Val (extra code : Nat) : Int := if code = 8 then extra512 extra else 256 * e2m1Half code

/-- The code nearest num/den (in units of 2^−9): ties to the even code, then to the lower (R106). -/
def e2m1Near (extra : Nat) (num : Int) (den : Nat) : Nat :=
  let dist (c : Nat) : Nat := (num - e2m1Val extra c * (den : Int)).natAbs
  (List.range 16).foldl (fun best c =>
    if dist c < dist best then c
    else if dist c = dist best && best % 2 = 1 && c % 2 = 0 then c
    else best) 0

/-- A block: its element codes, its scale byte, and the flags (R106). -/
structure Block where
  codes : List Nat
  scale : Nat
  fl : BitVec 5
deriving DecidableEq, Repr

/-- 32 values into one block (R106). -/
def toBlock (extra : Nat) (vs : List FVal) : Block :=
  if vs.any (fun v => match v with
    | .fin _ _ _ => false
    | _ => true) then ⟨vs.map fun _ => 0, 0xFF, fIV⟩
  else
    let logs := vs.filterMap fun v => match v with
      | .fin _ m e => if m = 0 then none else some (e + (m.log2 : Int))
      | _ => none
    let ex : Int := match logs with
      | [] => -127
      | l :: ls => clamp (-127) 127 ((ls.foldl max l) - 2)
    -- each source over 2^ex as num/den in units of 2^−9
    let q (v : FVal) : Int × Nat := match v with
      | .fin n m e =>
        let k := e - ex + 9
        let z : Int := (m * 2 ^ k.toNat : Nat)
        (if n then -z else z, 2 ^ (-k).toNat)
      | _ => (0, 1)
    let codes := vs.map fun v => e2m1Near extra (q v).1 (q v).2
    let each := (vs.zip codes).map fun (v, c) =>
      let p := q v
      let val := e2m1Val extra c
      (decide (val * (p.2 : Int) ≠ p.1), decide (p.1 ≠ 0 ∧ val = 0))
    let nx := each.any fun p => p.1
    let uf := each.any fun p => p.2
    ⟨codes, (ex + 127).toNat, (if uf then fUF ||| fNX else 0#5) ||| (if nx then fNX else 0#5)⟩

/-- A block is invalid (R105). -/
def blockInvalid (scale extra : Nat) : Bool := scale = 0xFF || extra = 0x7F || extra = 0xFF

/-- The exact value of an element: sign, magnitude, exponent (R104). The code −0 does not exist; code 0 is +0. -/
def blockVal (scale extra code : Nat) : Bool × Nat × Int :=
  let z := e2m1Val extra code
  let neg := if z = 0 then code = 8 && extra = 0x80 else z < 0
  (neg, z.natAbs, (scale : Int) - 127 - 9)

/-- The register contents of the lanes that hold a block (R371). -/
def blockLane (b : Block) (extra i : Nat) : Nat :=
  if i < 4 then (List.range 8).foldl (fun z k => z + (b.codes.getD (8 * i + k) 0) * 2 ^ (4 * k)) 0
  else if i = 4 then b.scale + 256 * extra
  else 0

/-- Every lane of the heat is in the issuing set and executes (R371). -/
def allLanes : LaneSet := 0xFFFFFFFF#32

/-- A conversion into a block (R371). The extra is S[c][7:0]; the flags are raised once. The spec does not say in which
lanes an exception of it that is enabled occurs: here all 32 park under its cause (DESIGN CHOICE, log 74). -/
def cvtToBlock (f : RegF) (s : State) : Host.Outcome State Fault Refusal :=
  withUnit s fun F x =>
    let e := execLanes x F.lanes f.pred
    let S := fmtOf f.opx.toNat
    let w := { cvtAlu f with srcs := (cvtAlu f).srcs ++ [(true, f.c.toNat, 1)] }
    let sc := x.sreg f.c.toNat
    let extra := sc.val.toNat % 256
    let src (i : Nat) : Opd := readOpd x i f.sa f.a.toNat 1
    let b := toBlock extra (laneIds.map fun i => S.val (src i).val)
    let t := (laneIds.foldl (fun (t : Taint) i => t.join (src i).taint) .clean).join sc.taint
    let shape := if isPacer F.unit then [0x07]
      else unitCauses F.unit {} ++ (if F.lanes = allLanes && e = allLanes && sc.val.toNat < 256 then [] else [0x04])
    let traps := trapCauses x.fpe b.fl 0#4
    s.finish F x (regInfo f) w.dests e (fun i =>
      { laneNone with
        causes := shape ++ namedCauses s F.unit x i w.named ++ traps,
        v := [(f.d.toNat, ⟨BitVec.ofNat 32 (blockLane b extra i), t⟩)],
        fpf := b.fl }) []

/-- A conversion out of a block (R371). -/
def cvtOfBlock (f : RegF) (s : State) : Host.Outcome State Fault Refusal :=
  withUnit s fun F x =>
    let e := execLanes x F.lanes f.pred
    let D := fmtOf f.ty.toNat
    let w := cvtAlu f
    let src (i : Nat) : Opd := readOpd x i f.sa f.a.toNat 1
    let scale := (src 4).val % 256
    let extra := (src 4).val / 256 % 256
    let code (i : Nat) : Nat := (src (i / 8)).val / 2 ^ (4 * (i % 8)) % 16
    let t := (List.range 5).foldl (fun (t : Taint) i => t.join (src i).taint) .clean
    let shape := if isPacer F.unit then [0x07]
      else unitCauses F.unit {} ++ (if F.lanes = allLanes && e = allLanes then [] else [0x04])
    let bad := if blockInvalid scale extra then [0x39] else []
    s.finish F x (regInfo f) w.dests e (fun i =>
      let r := D.finish f.rnd false (blockVal scale extra (code i))
      { laneNone with
        causes := shape ++ namedCauses s F.unit x i w.named ++ bad ++ (if bad.isEmpty then trapCauses x.fpe r.fl 0#4 else []),
        v := splitRegs f.d.toNat r.bits t 1,
        fpf := r.fl }) []

/-- CVT (R369 to R371). -/
def execCvt (f : RegF) (s : State) : Host.Outcome State Fault Refusal :=
  if cvtDcl f && f.ty = 6#3 then cvtToBlock f s
  else if cvtScl f && f.opx = 6#3 then cvtOfBlock f s
  else aluWord s (cvtAlu f) fun l _ => cvtRes (cvtDcl f) (cvtScl f) f.ty f.opx f.rnd f.sat (arg l 0)

end Sys2Proof.Machine
end

