-- ==== Sys2Proof/Machine/Memory.lean ====
section
/-! DEFINITION. Loads, stores, atomics, prefetch, address computation, capability loads and fences
(R126 to R128, R350 to R354, R365, R366, R388, R389, R408 to R413, R429, R430, R452 to R454). -/

namespace Sys2Proof.Machine

/-! ### Operands -/

/-- The address register of a MEM or ATM word (R333, R335). -/
def addrOpd (x : Strand) (i : Nat) (a : Byte) (sa wide : Bool) : Opd := readOpd x i sa a.toNat (if wide then 2 else 1)

def addrNamed (a : Byte) (sa wide : Bool) : Named :=
  let l := span a.toNat (if wide then 2 else 1)
  if sa then ⟨[], l, []⟩ else ⟨l, [], []⟩

def Named.with (n : Named) (v s : List Nat) (p : Pred) : Named := ⟨n.v ++ v, n.s ++ s, n.p ++ predNamed p⟩

/-- off := zext(A) + sext(IMM12) (R125, R409). -/
def memOff (x : Strand) (i : Nat) (f : MemF) : Int := (addrOpd x i f.a f.sa f.wide).val + f.imm.toInt

/-- A loaded value in its registers (R408). -/
def loadValue (size : BitVec 3) (v : Nat) : Nat :=
  match size.toNat with
  | 5 => wrap 32 (signed 8 v)
  | 6 => wrap 32 (signed 16 v)
  | _ => v

def memInfo (f : MemF) : WordInfo := ⟨f.pred, f.la.toNat, 1, 1⟩

/-- A warm-up's loads are marked acquire loads at SYS scope (R230). -/
def loadOrder (u : UnitRef) (ord scope : BitVec 3) : Order := if isWarm u then ⟨true, true, false, 4⟩ else orderOf ord scope

/-! ### LD, LDS, ST, STS (R409, R453) -/

def loadAct (u : UnitRef) (o : Order) (size : BitVec 3) (d n : Nat) : LaneAct := fun s x _ l =>
  let r := s.doRead u x l n o
  (r.1, r.2.1, splitRegs d (loadValue size r.2.2.1) r.2.2.2 (sizeRegs size))

/-- LD and LDS. -/
def loadWord (scratch : Bool) (runs : Runs) (f : MemF) (s : State) : Host.Outcome State Fault Refusal :=
  withUnit s fun F x =>
    let u := F.unit
    let n := sizeBytes f.size
    let o := loadOrder u f.ord f.scope
    let dst := span f.d.toNat (sizeRegs f.size)
    let nm := (addrNamed f.a f.sa f.wide).with dst [] f.pred
    let plan (i : Nat) : Plan :=
      let p := if scratch then s.scrPlan u x (memOff x i f) n o
        else s.devPlan u x (x.creg f.cap.toNat) (memOff x i f) n .r false o true
      p.checked (unitCauses u runs ++ namedCauses s u x i nm) [(addrOpd x i f.a f.sa f.wide).taint]
    s.memWord F x (memInfo f) ⟨dst, [], []⟩ false plan (loadAct u o f.size f.d.toNat n)

/-- LD (R409). -/
def execLd (f : MemF) (s : State) : Host.Outcome State Fault Refusal := loadWord false anyUnit f s
/-- LDS (R409). -/
def execLds (f : MemF) (s : State) : Host.Outcome State Fault Refusal := loadWord true {} f s

/-- What a lane of ST or STS stores: D names the data register. -/
def storeData (f : MemF) (x : Strand) (i : Nat) : Opd := readOpd x i false f.d.toNat (sizeRegs f.size)

/-- Where it stores it. -/
def storePlan (scratch : Bool) (f : MemF) (s : State) (u : UnitRef) (x : Strand) (i : Nat) : Plan :=
  let n := sizeBytes f.size
  let o := orderOf f.ord f.scope
  let nm := (addrNamed f.a f.sa f.wide).with (span f.d.toNat (sizeRegs f.size)) [] f.pred
  let p := if scratch then s.scrPlan u x (memOff x i f) n o
    else s.devPlan u x (x.creg f.cap.toNat) (memOff x i f) n .w true o true
  p.checked (unitCauses u {} ++ namedCauses s u x i nm) [(addrOpd x i f.a f.sa f.wide).taint, (storeData f x i).taint]

/-- ST and STS. -/
def storeWord (scratch : Bool) (f : MemF) (s : State) : Host.Outcome State Fault Refusal :=
  withUnit s fun F x =>
    let u := F.unit
    s.memWord F x (memInfo f) ⟨[], [], []⟩ true (storePlan scratch f s u x) fun s x i l =>
      let r := s.doWrite u x l (sizeBytes f.size) (storeData f x i).val (orderOf f.ord f.scope)
      (r.1, r.2, [])

/-- The stores of the lanes of a set, to be performed later (R86). -/
def storeLates (scratch : Bool) (f : MemF) (s : State) (F : Focus) (x : Strand) : List Late :=
  let m := F.lanes
  (lanesOf (m &&& executing x m f.pred)).filterMap fun i =>
    let p := storePlan scratch f s F.unit x i
    p.loc.map fun l => .store i l (sizeBytes f.size) (storeData f x i).val (orderOf f.ord f.scope) (x.lane i) p.fva F.handler

/-- ST (R453). -/
def execSt (f : MemF) (s : State) : Host.Outcome State Fault Refusal := storeWord false f s
/-- STS (R453). -/
def execSts (f : MemF) (s : State) : Host.Outcome State Fault Refusal := storeWord true f s

/-! ### LDU, LDK (R411, R412) -/

/-- LDU: one access, its fault in every executing lane (R412). -/
def execLdu (f : MemF) (s : State) : Host.Outcome State Fault Refusal :=
  withUnit s fun F x =>
    let u := F.unit
    let e := effectLanes x F.lanes f.pred
    let n := sizeBytes f.size
    let o := orderOf f.ord f.scope
    let cnt := sizeRegs f.size
    let adr := addrOpd x 0 f.a true f.wide
    let dst := span f.d.toNat cnt
    let sregs := dst ++ span f.a.toNat (if f.wide then 2 else 1)
    match lowest e with
    | none => s.finish F x (memInfo f) ⟨[], [], dst⟩ e (fun _ => laneNone) []
    | some _ =>
      let p := (s.devPlan u x (x.creg f.cap.toNat) (adr.val + f.imm.toInt) n .r false o true).checked
        (unitCauses u {} ++ scalarCauses s u x e f.pred sregs) [adr.taint, guardTaint x F.lanes f.pred]
      if p.waits then s.waitFor u p
      else
        let outs := accessFaults e p.causes p.fva p.replay
        let fs := faultsOf e outs
        match p.causes, p.loc with
        | [], some l =>
          let r := s.doRead u x l n o
          r.1.finish F r.2.1 (memInfo f) ⟨[], [], dst⟩ e outs (splitRegs f.d.toNat (loadValue f.size r.2.2.1) r.2.2.2 cnt)
        | _, _ =>
          let s1 := s.finish F (s.noteRace u x (fun _ => p) fs) (memInfo f) ⟨[], [], dst⟩ e outs []
          if F.handler.isSome then s1 else s1.queueWalks u false fs

/-- The code object's capability: the queue's PKCAP entry as the front end holds it (R221). -/
def State.codeCap (s : State) (u : UnitRef) : Cap :=
  match s.fieldOf u with
  | some f =>
    match find s.queues f.queue with
    | some q => q.cap
    | none => capNull
  | none => capNull

/-- LDK (R411): bounds, then permission, then alignment; no race check. -/
def execLdk (f : LdkF) (s : State) : Host.Outcome State Fault Refusal :=
  withUnit s fun F x =>
    let u := F.unit
    let n := sizeBytes f.size
    let dst := span f.d.toNat (sizeRegs f.size)
    let nm := (addrNamed f.a f.sa f.wide).with dst [] f.pred
    let base := s.fieldD u 0 fun fd => fd.code + hdrDataOff fd
    let plan (i : Nat) : Plan :=
      let a := addrOpd x i f.a f.sa f.wide
      (s.devPlan u x (s.codeCap u) ((a.val + f.off.toNat + base : Nat) : Int) n .r false Order.data false).checked
        (unitCauses u {} ++ namedCauses s u x i nm) [a.taint]
    s.memWord F x ⟨f.pred, f.la.toNat, 2, 1⟩ ⟨dst, [], []⟩ false plan (loadAct u Order.data f.size f.d.toNat n)

/-! ### ATOM, ATOMS (R350 to R354) -/

/-- RNE32(old + b) under the value rules of R110: no flag. -/
def rne32Add (a b : Nat) : Nat := (fAdd f32 .rne false (f32.val a) (f32.val b)).bits

/-- The new value of an operation (R351) over w bits; CAS takes its comparand and swap value apart. -/
def atomNew (aop w old b : Nat) : Nat :=
  match aop with
  | 0 => (old + b) % 2 ^ w
  | 1 => if signed w b < signed w old then b else old
  | 2 => if signed w old < signed w b then b else old
  | 3 => min old b
  | 4 => max old b
  | 5 => old &&& b
  | 6 => old ||| b
  | 7 => old ^^^ b
  | 8 => b
  | 10 => if b ≤ old then 0 else old + 1
  | 11 => if old = 0 || b < old then b else old - 1
  | _ => rne32Add old b

/-- What an atomic writes: nothing for a CAS whose comparand differs. -/
def atomWrite (aop w old b swap : Nat) : Option Nat :=
  if aop = 9 then (if old = b then some swap else none) else some (atomNew aop w old b)

/-- ATOM and ATOMS. What it reads is verified before it writes what comes of that (R261), so its result needs no mark. -/
def atomWord (scratch : Bool) (f : AtmF) (s : State) : Host.Outcome State Fault Refusal :=
  withUnit s fun F x =>
    let u := F.unit
    let n := sizeBytes f.size
    let cnt := sizeRegs f.size
    let o := orderOf f.ord f.scope
    let cas := f.aop = 9#4
    let dst := span f.d.toNat cnt
    let bCnt := if cas then 2 * cnt else cnt
    let bOpd (x : Strand) (i : Nat) : Opd := readOpd x i false f.b.toNat bCnt
    let nm := (addrNamed f.a f.sa f.wide).with (dst ++ span f.b.toNat bCnt) [] f.pred
    let plan (i : Nat) : Plan :=
      let a := addrOpd x i f.a f.sa f.wide
      let p := if scratch then s.scrPlan u x a.val n o
        else s.devPlan u x (x.creg f.cap.toNat) a.val n .a true o true
      p.checked (unitCauses u {} ++ namedCauses s u x i nm) [a.taint, (bOpd x i).taint]
    s.memWord F x ⟨f.pred, f.la.toNat, 1, 1⟩ ⟨dst, [], []⟩ true plan fun s x i l =>
      let b := (bOpd x i).val
      let w := 8 * n
      let r := s.doRead u x l n o
      let out := splitRegs f.d.toNat r.2.2.1 .clean cnt
      match atomWrite f.aop.toNat w r.2.2.1 (b % 2 ^ w) (b / 2 ^ w) with
      | some v =>
        let q := r.1.doWrite u r.2.1 l n v o
        (q.1, q.2, out)
      | none => (r.1, r.2.1, out)

/-- ATOM (R353). -/
def execAtom (f : AtmF) (s : State) : Host.Outcome State Fault Refusal := atomWord false f s
/-- ATOMS (R353). -/
def execAtoms (f : AtmF) (s : State) : Host.Outcome State Fault Refusal := atomWord true f s

/-! ### PREF, LEA (R413, R429, R430) -/

/-- PREF: a hint, without effect on any value; lanes that would fault at its checks are dropped. -/
def execPref (f : MemF) (s : State) : Host.Outcome State Fault Refusal :=
  withUnit s fun F x =>
    let nm := (addrNamed f.a f.sa f.wide).with [] [] f.pred
    s.finish F x (memInfo f) ⟨[], [], []⟩ (execLanes x F.lanes f.pred)
      (fun i => laneFaults (unitCauses F.unit {} ++ namedCauses s F.unit x i nm)) []

/-- LEA (R413): tag, bounds and alignment; no access. -/
def execLea (f : MemF) (s : State) : Host.Outcome State Fault Refusal :=
  withUnit s fun F x =>
    let n := sizeBytes f.size
    let dst := span f.d.toNat 2
    let nm := (addrNamed f.a f.sa f.wide).with dst [] f.pred
    let c := x.creg f.cap.toNat
    s.finish F x (memInfo f) ⟨dst, [], []⟩ (execLanes x F.lanes f.pred) (fun i =>
      let off := memOff x i f
      { laneNone with
        causes := unitCauses F.unit {} ++ namedCauses s F.unit x i nm ++ capCauses c off n .none,
        fva := capVa c off,
        v := splitRegs f.d.toNat (c.base + off.toNat) (addrOpd x i f.a f.sa f.wide).taint 2 }) []

/-- LEA.S (R413). -/
def execLeaS (f : MemF) (s : State) : Host.Outcome State Fault Refusal :=
  withUnit s fun F x =>
    let n := sizeBytes f.size
    let nm := (addrNamed f.a f.sa f.wide).with [f.d.toNat] [] f.pred
    s.finish F x (memInfo f) ⟨[f.d.toNat], [], []⟩ (execLanes x F.lanes f.pred) (fun i =>
      let off := memOff x i f
      { laneNone with
        causes := unitCauses F.unit {} ++ namedCauses s F.unit x i nm ++ s.scrCauses F.unit off n false,
        fva := off.toNat,
        v := splitRegs f.d.toNat off.toNat (addrOpd x i f.a f.sa f.wide).taint 1 }) []

/-! ### CLD, CNARROW (R127, R128) -/

/-- Finish a CLD: the 16 bytes, with their tag from a capability page. -/
def cldFinish (f : MemF) (s : State) (F : Focus) (x : Strand) (e : LaneSet) (p : Plan) (capPage : Bool) : State :=
  if p.waits then s.waitFor F.unit p
  else
    let outs := accessFaults e p.causes p.fva p.replay
    match p.causes, p.loc with
    | [], some (.dev pa attr) =>
      let v := s.readMem pa 16
      let tag := capPage && s.tag pa
      let r := s.doRead F.unit x (.dev pa attr) 16 (loadOrder F.unit 0#3 0#3)
      r.1.finish F (r.2.1.setCreg f.d.toNat ⟨BitVec.ofNat 128 v, tag⟩) (memInfo f) ⟨[], [], []⟩ e outs []
    | _, _ =>
      let fs := faultsOf e outs
      let s1 := s.finish F (s.noteRace F.unit x (fun _ => p) fs) (memInfo f) ⟨[], [], []⟩ e outs []
      if F.handler.isSome then s1 else s1.queueWalks F.unit false fs

/-- The page of an access is a capability page. -/
def State.isCapPage (s : State) (u : UnitRef) (va : Nat) : Bool :=
  if isWarm u then
    match s.fieldOf u, s.ctxOf u with
    | some f, some cx =>
      match s.walk f.ctx cx va with
      | .leaf e => e.cap
      | _ => false
    | _, _ => false
  else match s.lookup u va with
    | some e => e.cap
    | none => false

/-- CLD, table form (R127). -/
def execCld (f : MemF) (s : State) : Host.Outcome State Fault Refusal :=
  withUnit s fun F x =>
    let u := F.unit
    let e := effectLanes x F.lanes f.pred
    let a := readOpd x 0 true f.a.toNat 1
    let (root, cnt) := match s.ctxOf u with
      | some c => (c.capRoot, c.capN)
      | none => (0, 0)
    if e = 0#32 then s.finish F x (memInfo f) ⟨[], [], []⟩ e (fun _ => laneNone) []
    else
      let va := (root + 16 * a.val) % 2 ^ 57
      let p0 : Plan := if cnt ≤ a.val then { causes := [0x24] }
        else s.vaPlan u x va 16 false (loadOrder u 0#3 0#3) true
      let p := p0.checked (unitCauses u anyUnit ++ scalarCauses s u x e f.pred [f.a.toNat])
        [a.taint, guardTaint x F.lanes f.pred]
      cldFinish f s F x e p (s.isCapPage u va)

/-- CLD, memory form (R127). -/
def execCldMemory (f : MemF) (s : State) : Host.Outcome State Fault Refusal :=
  withUnit s fun F x =>
    let u := F.unit
    let e := effectLanes x F.lanes f.pred
    let a := readOpd x 0 true f.a.toNat 1
    let c := x.creg f.cap.toNat
    let off : Int := a.val + f.imm.toInt
    if e = 0#32 then s.finish F x (memInfo f) ⟨[], [], []⟩ e (fun _ => laneNone) []
    else
      let p := (s.devPlan u x c off 16 .l false (loadOrder u 0#3 0#3) true).checked
        (unitCauses u anyUnit ++ scalarCauses s u x e f.pred [f.a.toNat]) [a.taint, guardTaint x F.lanes f.pred]
      cldFinish f s F x e p (s.isCapPage u (capVa c off))

/-- CNARROW (R128, R366). DESIGN CHOICE, entry 88: at length 0 and BASE + S[a] = 2^57 the register takes a base that its
field does not hold. -/
def execCnarrow (f : CapnF) (s : State) : Host.Outcome State Fault Refusal :=
  withUnit s fun F x =>
    let u := F.unit
    let e := execLanes x F.lanes f.pred
    let a := readOpd x 0 true f.a.toNat 2
    let b := readOpd x 0 true f.b.toNat 2
    let m := readOpd x 0 true f.c.toNat 1
    let src := x.creg f.cs.toNat
    let ts := [a.taint, b.taint, m.taint]
    if e = 0#32 then s.finish F x ⟨f.pred, 0, 1, 1⟩ ⟨[], [], []⟩ e (fun _ => laneNone) []
    else if mustVerify ts then s
    else
      let causes := unitCauses u {} ++
        scalarCauses s u x e f.pred (span f.a.toNat 2 ++ span f.b.toNat 2 ++ [f.c.toNat]) ++ poisonCause ts ++
        (if m.val < 16 then [] else [0x04]) ++ (if src.tag then [] else [0x20]) ++
        (if src.len < a.val + b.val then [0x23] else [])
      let d : Cap := mkCap (src.base + a.val) b.val (src.canR && bit m.val 0) (src.canW && bit m.val 1)
        (src.canA && bit m.val 2) (src.canL && bit m.val 3)
      let x1 := if causes.isEmpty then x.setCreg f.cd.toNat d else x
      s.finish F x1 ⟨f.pred, 0, 1, 1⟩ ⟨[], [], []⟩ e (scalarFaults e causes ((src.base + a.val) % 2 ^ 57) false) []

/-! ### FENCE (R388, R389) -/

/-- A FENCE of these lanes has not completed: of a release, an earlier access has not performed for every agent; or a CWAIT
or MWAIT in whose window it stands is open (R86, R389). -/
def Strand.fenceOpen (x : Strand) (rel : Bool) (m : LaneSet) : Bool :=
  (rel && (x.inflight ≠ 0 || !x.due.isEmpty || x.ops.any fun o => !o.late.isEmpty)) || x.openIn m

/-- What a FENCE does to the race table as it completes (R175). -/
def RaceTable.fence (t : RaceTable) (rel acq : Bool) (scope : Nat) : RaceTable :=
  let t1 := if rel then t.release scope else t
  if acq then t1.settle else t1

/-- The heat's FENCE completes, where it can (R389). -/
def Strand.passFence (x : Strand) : Strand :=
  match x.waiting with
  | .fence rel acq sc m => if x.fenceOpen rel m then x else { x with waiting := .none, race := x.race.fence rel acq sc }
  | _ => x

/-- FENCE: a release completes when every earlier access has performed; an acquire settles the race table. Until it has
completed the heat issues nothing. -/
def execFence (f : MemF) (s : State) : Host.Outcome State Fault Refusal :=
  withUnit s fun F x =>
    let o := orderOf f.ord f.scope
    let e := execLanes x F.lanes f.pred
    let causes (i : Nat) : List Nat := unitCauses F.unit {} ++ namedCauses s F.unit x i ⟨[], [], predNamed f.pred⟩
    let ok := laneSet fun i => e.getLsbD i && (causes i).isEmpty
    let x1 : Strand := if ok = 0#32 then x
      else if x.fenceOpen o.rel ok then { x with waiting := .fence o.rel o.acq o.scope ok }
      else { x with race := x.race.fence o.rel o.acq o.scope }
    s.finish F x1 (memInfo f) ⟨[], [], []⟩ e (fun i => laneFaults (causes i)) []

end Sys2Proof.Machine
end

