-- ==== Sys2Proof/Machine/Window.lean ====
section
/-! DEFINITION. Open windows of CWAIT and MWAIT, and what their end does (R84 to R86). -/

namespace Sys2Proof.Machine

/-! ### Words by what they do in a window -/

/-- The instructions that carry lookahead (R83). -/
def isLong : Instr → Bool
  | .ld _ | .lds _ | .ldu _ | .ldk _ | .atom _ | .atoms _ | .frcp _ | .frsq _ | .fexp2 _ | .flog2 _ | .fdiv _
  | .fsqrt _ | .sladd _ | .slmul _ | .slcvt _ | .ladd _ | .lsub _ | .lshl _ | .lshr _ | .lcmp _ | .lmac _ | .cwait _
  | .mwait _ => true
  | _ => false

/-- Words whose effect stays in their lanes, and is undone with them (R86). -/
def laneWord : Instr → Bool
  | .iadd f | .isub f | .iabs f | .imin f | .imax f | .iaddc f | .idot4 f | .qdot4 f | .imul f | .imulhi f | .imad f
  | .and f | .or f | .xor f | .not f | .shl f | .shr f | .sar f | .rotl f | .bfx f | .bfi f | .brev f | .clz f
  | .popc f | .sel f | .mov f | .fadd f | .fsub f | .fmul f | .ffma f | .fmin f | .fmax f | .fdiv f | .fsqrt f | .frcp f
  | .frsq f | .fexp2 f | .flog2 f | .vfma2 f | .dadd f | .dmul f | .dfma f | .cvt f | .sladd f | .slmul f | .slrcp f
  | .slcvt f | .srd f => !f.u
  | .icmp f | .fcmp f | .slcmp f => !f.u
  | .moviExt f => !f.u
  | .iaddImm _ | .iminImm _ | .imaxImm _ | .icmpImm _ | .imulImm _ | .andImm _ | .orImm _ | .xorImm _ | .shlImm _
  | .shrImm _ | .sarImm _ | .rotlImm _ | .movi _ | .nop _ | .pairWord _ _ | .ld _ | .lds _ | .ldk _ | .pref _ | .lea _
  | .leaS _ | .ladd _ | .lsub _ | .lshl _ | .lshr _ | .lcmp _ | .lmac _ | .bra _ | .brx _ | .call _ | .ret _ | .reconv _
  | .yield _ | .cwait _ | .mwait _ | .fence _ | .bkpt _ | .trap _ | .fretRetry _ | .fretSkip _ | .fkill _ | .xrv _
  | .xwv _ => true
  | _ => false

/-- Words that pass values between lanes. -/
def crossWord : Instr → Bool
  | .shfl f | .redux f | .vote f => !f.u
  | _ => false

/-- Matrix instructions are placed at once in an MWAIT's window (R417). -/
def isMatrix : Instr → Bool
  | .mzero _ | .mlda _ | .mma _ | .mstore _ => true
  | _ => false

/-- Words that do something outside the unit's registers while their lanes go on: they do it once the CWAIT or MWAIT in
whose window they issued has completed (R86). -/
def lateWord : Instr → Bool
  | .st _ | .sts _ | .cqgo _ | .gset _ | .qfence _ | .frelF _ | .frelE _ | .fork _ | .bara _ | .tdesc _ | .tinv _ | .swr _
  | .pgunpin _ | .mzero _ | .mlda _ | .mma _ | .mstore _ => true
  | _ => false

/-- Words whose result is what they do outside the unit's registers, or that hold their lanes: the lanes of one that has
issued in the window of a CWAIT or MWAIT wait with it for that (R57, R86). -/
def stayWord : Instr → Bool
  | .bar _ | .barw _ | .rbar _ | .rdv _ | .lbind _ | .lunbind _ | .facqF _ | .facqE _ | .mcommit _ | .yieldPoint _ | .exit _
  | .atom _ | .atoms _ | .boost _ | .boostSpare _ | .bankmode _ | .pgpin _ => true
  | _ => false

/-- Words that end a handler. -/
def handlerWord : Instr → Bool
  | .fretRetry _ | .fretSkip _ | .fkill _ | .trap _ => true
  | _ => false

/-- Words that act once for their unit, whichever lanes execute them (R347, R391, R79, R80). -/
def onceWord : Instr → Bool
  | .cqgo _ | .gset _ | .qfence _ | .frelF _ | .frelE _ | .fork _ | .tdesc _ | .tinv _ | .swr _ | .pgunpin _ | .mzero _
  | .mlda _ | .mma _ | .mstore _ | .lbind _ | .lunbind _ | .facqF _ | .facqE _ | .mcommit _ | .boost _ | .boostSpare _
  | .bankmode _ | .pgpin _ => true
  | _ => false

/-- Words that act on the issuing set as a whole, and read no register but their predicates. -/
def setWord : Instr → Bool
  | .yield _ | .fence _ => true
  | _ => false

/-! ### What window words have still to do -/

/-- A fragment whose lanes no open instruction covers any more is served (R86). -/
def State.unblock (s : State) (u : UnitRef) : State :=
  match s.strand u with
  | none => s
  | some x =>
    x.frags.foldl (fun s e =>
      if e.2.phase = .blocked && !x.openIn (x.fragLanes e.1) then
        let s1 := s.modStrand u fun y => { y with frags := modify y.frags e.1 fun fr => { fr with phase := .waiting } }
        s1.serveFrag u e.1
      else s) s

/-- The lanes of what a window word has still to do. -/
def Late.lanes : Late → LaneSet
  | .store i _ _ _ _ _ _ _ => 1#32 <<< i
  | .arrive _ m => m
  | .word _ m _ _ _ => m

/-- The same for fewer lanes; none where no lane is left. -/
def Late.without (d : Late) (m : LaneSet) : Option Late :=
  if (d.lanes &&& ~~~m) = 0#32 then none
  else match d with
    | .arrive n l => some (.arrive n (l &&& ~~~m))
    | .word i l v stays h => some (.word i (l &&& ~~~m) v stays h)
    | d => some d

/-- It is done in each of its lanes by itself. -/
def Late.perLane : Late → Bool
  | .word i _ _ _ _ => !onceWord i
  | _ => true

/-- The lanes of a set that a waiting instruction of a list covers. -/
def openLanes (l : List LongOp) (m : LaneSet) : LaneSet :=
  l.foldl (fun a o => if o.plain then a else a ||| (o.lanes &&& m)) 0#32

/-- What is done lane by lane waits in each lane with the last instruction that covers it. -/
def giveLate (d : Late) : List LongOp → List LongOp
  | [] => []
  | o :: os =>
    let mine := if o.plain then 0#32 else o.lanes &&& d.lanes &&& ~~~(openLanes os d.lanes)
    { o with late := o.late ++ (d.without (~~~mine)).toList } :: giveLate d os

/-- What a word has to do waits with the instructions of a list that cover its lanes; what none covers is left. -/
def handLate (l : List LongOp) (d : Late) : List LongOp × Option Late :=
  if d.perLane then (giveLate d l, d.without (openLanes l d.lanes))
  else if l.any fun o => o.opens d.lanes then
    (modLast (fun o => o.opens d.lanes) (fun o => { o with late := o.late ++ [d] }) l, none)
  else (l, some d)

def handLates (l : List LongOp) : List Late → List LongOp × List Late
  | [] => (l, [])
  | d :: ds =>
    let r := handLate l d
    let q := handLates r.1 ds
    (q.1, r.2.toList ++ q.2)

/-- Write what window words have written of the scalar registers. -/
def Strand.layOver (x : Strand) (o : Over) : Strand :=
  { x with s := Machine.layOver o.s x.s, c := Machine.layOver o.c x.c, k := Machine.layOver o.k x.k,
           kset := x.kset || o.kset }

def Over.layOver (o p : Over) : Over :=
  ⟨Machine.layOver o.s p.s, Machine.layOver o.c p.c, Machine.layOver o.k p.k, p.kset || o.kset⟩

/-- The last instruction whose window holds these lanes keeps what a word has written of the scalar registers. -/
def layLast (m : LaneSet) (laid : Over) (l : List LongOp) : List LongOp :=
  modLast (fun o => o.opens m) (fun o => { o with laid := laid.layOver o.laid }) l

/-- An open instruction completes without fault: its window's results stand, and what its window's words have still to
do is due; in the window of another it becomes part of that window (R86). -/
def State.closeOp (s : State) (u : UnitRef) (o : LongOp) (l : List RaceEntry) (rel : Bool) : State :=
  let s1 := s.modStrand u fun x =>
    let t := x.race.merge l
    let i := x.ops.idxOf o
    let older := x.ops.take i
    let newer := x.ops.drop (i + 1)
    let x1 : Strand := { x with race := if rel then t.release 2 else t }
    let r := handLates older o.late
    let x2 : Strand :=
      if older.any fun p => p.opens o.lanes then { x1 with ops := layLast o.lanes o.laid r.1 ++ newer }
      else ({ x1 with ops := r.1 ++ newer } : Strand).layOver o.laid
    { x2 with due := x2.due ++ r.2 }.addFlags o.lanes o.fpf o.slf
  s1.unblock u

/-- An instruction gives up what it would write, and what its window's words would do, in the lanes of a set. -/
def LongOp.leave (m : LaneSet) (q : LongOp) : LongOp :=
  { q with
    lanes := q.lanes &&& ~~~m, writes := q.writes.filter (fun w => !m.getLsbD w.lane),
    save := q.save.filter (fun e => !m.getLsbD e.1), late := q.late.filterMap fun d => d.without m }

/-- The instructions of a list leave the lanes of a set, and one left without a lane has never been (R86). -/
def leaveAll (m : LaneSet) (l : List LongOp) : List LongOp :=
  (l.map (LongOp.leave m)).filter fun q => q.lanes ≠ 0#32

/-- A lane goes back to the word at which it was saved; what other lanes' barriers have done since stands, and a lane that
has exited stays exited (R59). -/
def Lane.backTo (l saved : Lane) : Lane :=
  if l.ls = .exited then l
  else { saved with ls := .running, held := none, frag := none, arrived := l.arrived, arrivedR := l.arrivedR }

/-- The lane of a handler gets back the registers it had. -/
def Lane.regsOf (l saved : Lane) : Lane := { l with v := saved.v, p := saved.p, stack := saved.stack }

/-- A lane of a unit as it is committed: what the words of an open window have written there is nobody else's to see, but
for the words of the handler `h` whose window it is (R86). -/
def Strand.committedLane (x : Strand) (h : Option Nat) (i : Nat) : Lane :=
  match x.ops.find? fun o => o.opens (1#32 <<< i) && o.handler ≠ h with
  | some o => (find o.save i).elim (x.lane i) (x.lane i).regsOf
  | none => x.lane i

/-- Change a lane the unit has, and what an open CWAIT or MWAIT of another than `own` would restore of it (R86). -/
def Strand.spoil (x : Strand) (i : Nat) (g : Lane → Lane) (own : LongOp → Bool := fun _ => false) : Strand :=
  match find x.lanes i with
  | some l =>
    { x.setLane i (g l) with
      ops := x.ops.map fun o => if own o then o
        else { o with save := o.save.map fun e => if e.1 = i then (e.1, g e.2) else e } }
  | none => x

/-- After lanes have left: FCAUSE is the cause of the elected lane (R71), and an overflow fragment left with lanes that
wait for their pages alone is a replay fragment again (R72). -/
def Strand.recause (x : Strand) : Strand :=
  { x with frags := x.frags.map fun e =>
      let m := x.fragLanes e.1
      if 0x100 ≤ e.1 then
        if e.2.phase = .blocked || e.2.phase = .waiting then (e.1, { e.2 with replay := (m &&& ~~~e.2.misses) = 0#32 }) else e
      else if e.2.phase ≠ .blocked then e
      else match lowest m with
        | some i => (e.1, { e.2 with fcause := (x.lane i).own })
        | none => e }

/-- A FENCE that lanes of a set have executed in the window has never been. -/
def Wait.drop (m : LaneSet) (w : Wait) : Wait :=
  match w with
  | .fence rel acq sc l => if (l &&& ~~~m) = 0#32 then .none else .fence rel acq sc (l &&& ~~~m)
  | w => w

/-- The entries that the window placed in queue 10 leave it (R86, R417): they are the last ones. -/
def dropPlaced : Nat → List MItem → List MItem
  | 0, l => l
  | _ + 1, [] => []
  | n + 1, it :: l => match it with
    | .entry _ => dropPlaced n l
    | .marker i => .marker i :: dropPlaced (n + 1) l

def Relay.unplace (rl : Relay) (n : Nat) : Relay :=
  { rl with mq := (dropPlaced n rl.mq.reverse).reverse, openSeq := rl.openSeq - n }

/-- The window of an open instruction is discarded: its lanes go back to it (R86). -/
def Strand.discard (x : Strand) (o : LongOp) : Strand :=
  let i := x.ops.idxOf o
  let x1 := o.save.foldl (fun (x : Strand) e =>
    x.setLane e.1 (if o.handler.isSome then (x.lane e.1).regsOf e.2 else (x.lane e.1).backTo e.2)) x
  ({ x1 with
     ops := x1.ops.take i ++ leaveAll o.lanes (x1.ops.drop (i + 1)), waiting := x1.waiting.drop o.lanes,
     due := x1.due ++ o.late.filterMap fun d => d.without o.lanes } : Strand).dropEmpty.recause

/-- An open instruction faults in its lanes (R86). -/
def State.failOp (s : State) (u : UnitRef) (o : LongOp) (cause : Nat) : State :=
  let n := match s.strand u with
    | some x => ((x.ops.drop (x.ops.idxOf o)).map fun p => p.placed).foldl (· + ·) 0
    | none => 0
  let s1 := s.modStrand u fun x => x.discard o
  let s2 : State := match unitRelay u with
    | some r => s1.modRelay r fun rl => rl.unplace n
    | none => s1
  let back : List Nat := match s2.strand u with
    | some x => (lanesOf o.lanes).filter fun i => (x.lane i).ls ≠ LState.exited
    | none => []
  ((s2.takeFaults u o.handler (back.map fun i => ⟨i, cause, 0, false⟩)).unblock u).modStrand u Strand.tidyGroup

/-- The pacer's wait at MCOMMIT, MWAIT or RDV faults when a matrix failure is recorded (R195). -/
def State.failPacerWait (s : State) (r : Nat) (cause : Nat) : State :=
  let u : UnitRef := .pacer r
  match s.strand u with
  | none => s
  | some x =>
    -- an MWAIT whose condition holds has completed, in the cycle in which its groups did (R195, R416)
    let open_ (n : Nat) : Bool := match find s.relays r with
      | some rl => n < rl.groups.length
      | none => false
    let waits : Bool := match (x.lane 0).held with
      | some (.mcommit _ _) => true
      | some (.mwait n) => open_ n
      | some (.rdv _) => true
      | _ => false
    let mark (s : State) : State := s.modRelay r fun rl =>
      { rl with mqParked := true, pacerState := if rl.pacerState = .atRdv then .running else rl.pacerState }
    if waits then (mark s).takeFaults u none [⟨0, cause, 0, false⟩]
    else
      match x.ops.find? fun o => match o.kind with
        | .mwait n => open_ n
        | _ => false with
      | some o => (mark s).failOp u o cause
      | none => s

end Sys2Proof.Machine
end

