-- ==== Sys2Proof/Machine/Matrix.lean ====
section
/-! DEFINITION. The matrix queue and the tile array (R109, R110, R152, R190 to R198, R415 to R422). -/

namespace Sys2Proof.Machine

/-! ### Accumulators -/

def accKey (n i j : Nat) : Nat := n * 16384 + i * 128 + j
def Relay.cell (rl : Relay) (n i j : Nat) : Word32 := getD 0#32 rl.acc (accKey n i j)

/-- Write every cell of an accumulator. -/
def Relay.setAcc (rl : Relay) (n : Nat) (w : Nat → Nat → Nat) : Relay :=
  let put' (m : AMap Word32) (k : Nat) : AMap Word32 :=
    setD 0#32 m (n * 16384 + k) (BitVec.ofNat 32 (w (k / 128) (k % 128)))
  { rl with acc := (List.range 16384).foldl put' rl.acc }

/-! ### Operands of MMA (R109, R187, R192) -/

/-- The class of an operand format (R187). -/
def mmaClass (fmt : Nat) : Nat := if fmt = 1 then 0 else fmt

/-- The value of a code of an operand format of whole bytes. -/
def codeVal (fmt n : Nat) : FVal :=
  match fmt with
  | 0 => e4m3.val n
  | 1 => e5m2.val n
  | 3 => bf16.val n
  | _ => f16.val n

/-- Element k of a run of elements, read from byte offsets. -/
def elemVal (fmt : Nat) (rd : Nat → Nat → Nat) (pair : Nat → Nat) (k : Nat) : FVal :=
  if fmt = fmtE2M1X then
    let b := rd (k / 2) 1
    let p := pair (k / 32)
    blockFVal' (p % 256) (p / 256) (b / (if k % 2 = 0 then 1 else 16) % 16)
  else
    let n := elemsBytes fmt 1
    codeVal fmt (rd (n * k) n)
where
  blockFVal' (scale extra code : Nat) : FVal :=
    let v := blockVal scale extra code
    .fin v.1 v.2.1 v.2.2

/-- Where the bytes of the A operand stand: scratch, or the acquired slots joined in order (R192). -/
def Relay.readA (rl : Relay) (t : Tensor) (slots : List Nat) (pos n : Nat) : Nat :=
  match t.bank with
  | some k =>
    let sb := slotBytes (rl.bank k).slot
    rl.readScr (slotOff k (rl.bank k).slot (slots.getD (pos / sb) 0) + pos % sb) n
  | none => rl.readScr (t.base + pos) n

/-- Byte b of row i of A, n bytes. -/
def Relay.rowA (rl : Relay) (t : Tensor) (slots : List Nat) (i b n : Nat) : Nat :=
  rl.readA t slots (phys t.swzCode t.stride i b) n

/-- The scale pair of row i, block b of A. -/
def Relay.pairA (rl : Relay) (t : Tensor) (slots : List Nat) (i b : Nat) : Nat :=
  let off := 2 * (i * (t.cols / 32) + b)
  match t.bank with
  | some _ => rl.readA t slots (128 * t.rowBytes + off) 2
  | none => rl.readScr (t.scale + off) 2

/-- Byte b of column j of B (R151). -/
def Relay.colB (rl : Relay) (t : Tensor) (j b n : Nat) : Nat := rl.readB (j * bankBytes + t.base + b) n
def Relay.pairB (rl : Relay) (t : Tensor) (j b : Nat) : Nat := rl.colB t j (t.rows / 2 + 2 * b) 2

/-- One chain of R109: the products of every second k, added in ascending order with one rounding each. -/
def chain (a b : Nat → FVal) (ks : List Nat) : Nat :=
  ks.foldl (fun z k => (fFma f32 .rne false false (a k) (b k) (f32.val z)).bits) 0

def evens (n : Nat) : List Nat := (List.range (n / 2)).map fun i => 2 * i
def odds (n : Nat) : List Nat := (List.range (n / 2)).map fun i => 2 * i + 1

/-- One cell of a floating MMA (R109). -/
def mmaCell (k : Nat) (a b : Nat → FVal) (acc : Nat) : Nat :=
  rne32Add (rne32Add (chain a b (evens k)) (chain a b (odds k))) acc

/-- One cell of an INT8 MMA: exact, modulo 2^32. -/
def mmaInt (k : Nat) (a b : Nat → Int) (acc : Nat) : Nat :=
  wrap 32 ((List.range k).foldl (fun z i => z + a i * b i) (acc : Int))

/-- The working copy of an MMA (R192). -/
def Relay.mmaResult (rl : Relay) (acc : Nat) (ta tb : Tensor) (slots : List Nat) (k i j : Nat) : Nat :=
  let old := (rl.cell acc i j).toNat
  if ta.format = 5 then
    mmaInt k (fun n => signed 8 (rl.rowA ta slots i n 1)) (fun n => signed 8 (rl.colB tb j n 1)) old
  else
    mmaCell k (elemVal ta.format (rl.rowA ta slots i) (rl.pairA ta slots i))
      (elemVal tb.format (rl.colB tb j) (rl.pairB tb j)) old

/-- Some block of the operands is invalid (R105). -/
def Relay.mmaInvalid (rl : Relay) (ta tb : Tensor) (slots : List Nat) (k : Nat) : Bool :=
  ta.format = fmtE2M1X &&
  (List.range 128).any fun i => (List.range (k / 32)).any fun b =>
    let pa := rl.pairA ta slots i b
    let pb := rl.pairB tb i b
    blockInvalid (pa % 256) (pa / 256) || blockInvalid (pb % 256) (pb / 256)

/-! ### Placing entries (R191, R192, R418, R419) -/

def pacerOnly : Runs := { heat := false }

def mentries (rl : Relay) : Nat := (rl.mq.filter fun it => match it with
  | .entry _ => true
  | .marker _ => false).length

/-- The checks of MMA's tensors (R151, R187, R192). -/
def mmaCauses (ta tb : Tensor) (k : Nat) : List Nat :=
  (if k % 32 = 0 && 32 ≤ k && k ≤ 4096 then [] else [0x37]) ++
  (if ta.captureOk && (ta.loc = 1 || ta.loc = 2) && ta.rows = 128 && k ≤ ta.cols && ta.format < 6 then [] else [0x37]) ++
  (if tb.captureOk && tb.loc = 3 && k ≤ tb.rows && tb.cols = 128 && tb.base % 64 = 0 && tb.format < 6 then []
   else [0x37]) ++
  (if mmaClass ta.format = mmaClass tb.format then [] else [0x37]) ++
  (if ta.loc = 2 && (ta.cols ≠ k || ta.stride ≠ ta.rowBytes) then [0x37] else []) ++
  (if tb.loc = 3 && 0x20000 < tb.base + sliceBytes tb.format tb.rows then [0x58] else [])

/-- MLDA's source (R419). -/
def mldaCauses (t : Tensor) : List Nat :=
  if t.captureOk && t.loc = 1 && t.rows = 128 && t.cols = 128 && (t.format = 6 || t.format = 7) then [] else [0x37]

/-- MSTORE's destination (R197, R419); a device destination needs W (R188). -/
def mstoreCauses (t : Tensor) : List Nat :=
  (if t.captureOk && t.loc ≤ 1 && t.rows = 128 && t.cols = 128 &&
      (t.format ≤ 3 || t.format = 6 || t.format = 7) then [] else [0x37]) ++
  (if t.loc = 0 && !t.cap.canW then [0x22] else [])

/-- Place an entry: the pacer stream releases to queue 10 (R171). -/
def State.placeEntry (s : State) (u : UnitRef) (x : Strand) (op : MOp) : State × Strand :=
  let t := x.race.release 2
  let l := t.give (s.agentOf u) t.count
  (match unitRelay u with
   | some r => s.modRelay r fun rl =>
       { rl with
         mq := rl.mq ++ [.entry ⟨op, none, rl.openSeq, 0, false, [], []⟩], openSeq := rl.openSeq + 1,
         mqRace := rl.mqRace.merge l }
   | none => s,
   -- an MWAIT in whose window it stands remembers it (R417)
   { x with race := t, ops := modLast (fun o => o.opens 1#32) (fun o => { o with placed := o.placed + 1 }) x.ops })

/-- A matrix word: a recorded failure first, then its checks, then its place in the queue. -/
def matrixWord (s : State) (F : Focus) (x : Strand) (f : RegF) (sregs : List Nat) (ts : List Taint)
    (causes : List Nat) (op : MOp) (fva : Nat := 0) : State :=
  let e := effectLanes x F.lanes f.pred
  let mq := s.mqCause F
  let base := unitCauses F.unit pacerOnly ++ scalarCauses s F.unit x e f.pred sregs
  let ts := guardTaint x F.lanes f.pred :: ts
  if e = 0#32 then s.finishOnce F x (regInfo f) [] e {}
  else if !base.isEmpty then s.finishOnce F x (regInfo f) [] e { causes := base }
  else if !mq.isEmpty then (s.markMq F true).finishOnce F x (regInfo f) [] e { causes := mq }
  else
    -- beyond 64 entries the word does not issue (R191, R419)
    let full : Bool := match s.relayOf F.unit with
      | some rl => 64 ≤ mentries rl
      | none => true
    if full || mustVerify ts then s
    else
      let all := poisonCause ts ++ causes
      if !all.isEmpty then s.finishOnce F x (regInfo f) [] e { causes := all, fva := fva }
      else
        let r := s.placeEntry F.unit x op
        r.1.finishOnce F r.2 (regInfo f) [] e {}

def accCause (n : Nat) : List Nat := if n < 32 then [] else [0x57]

/-- MZERO. -/
def execMzero (f : RegF) (s : State) : Host.Outcome State Fault Refusal :=
  withUnit s fun F x => matrixWord s F x f [] [] (accCause f.d.toNat) (.mzero f.d.toNat)

/-- MLDA. -/
def execMlda (f : RegF) (s : State) : Host.Outcome State Fault Refusal :=
  withUnit s fun F x =>
    let t := s.tensor F.unit f.a.toNat
    matrixWord s F x f [] [] (accCause f.d.toNat ++ mldaCauses t) (.mlda f.d.toNat t)

/-- MMA. -/
def execMma (f : RegF) (s : State) : Host.Outcome State Fault Refusal :=
  withUnit s fun F x =>
    let ta := s.tensor F.unit f.a.toNat
    let tb := s.tensor F.unit f.b.toNat
    let k := readOpd x 0 true f.c.toNat 1
    matrixWord s F x f [f.c.toNat] [k.taint] (accCause f.d.toNat ++ mmaCauses ta tb k.val)
      (.mma f.d.toNat ta tb k.val)

/-- MSTORE. -/
def execMstore (f : RegF) (s : State) : Host.Outcome State Fault Refusal :=
  withUnit s fun F x =>
    let t := s.tensor F.unit f.d.toNat
    matrixWord s F x f [] [] (accCause f.a.toNat ++ mstoreCauses t) (.mstore t f.a.toNat (f.opx.getLsbD 0))
      (capVa t.cap t.base)

/-! ### MCOMMIT, MWAIT (R198, R415 to R417) -/

/-- Close the open entries as the next group; an empty group completes at once. -/
def Relay.closeGroup (rl : Relay) : Relay :=
  let g := (rl.groupNo + 1) % 2 ^ 32
  let isOpen (it : MItem) : Bool := match it with
    | .entry e => e.group.isNone
    | .marker _ => false
  let n := (rl.mq.filter isOpen).length
  { rl with
    groupNo := g, openSeq := 0, groups := if n = 0 then rl.groups else put rl.groups g n,
    groupHand := if n = 0 && rl.groups.isEmpty then rl.queueGives 10 else rl.groupHand,
    mq := rl.mq.map fun it => match it with
      | .entry e => .entry (if e.group.isNone then { e with group := some g } else e)
      | m => m }

/-- MCOMMIT. -/
def execMcommit (f : RegF) (s : State) : Host.Outcome State Fault Refusal :=
  withUnit s fun F x =>
    let e := execLanes x F.lanes f.pred
    let d := f.d.toNat
    let mq := s.mqCause F
    let base := unitCauses F.unit pacerOnly ++ scalarCauses s F.unit x e f.pred [d]
    match s.relayOf F.unit, unitRelay F.unit with
    | some rl, some r =>
      if e = 0#32 then s.finishOnce F x (regInfo f) [d] e {}
      else if !base.isEmpty then s.finishOnce F x (regInfo f) [d] e { causes := base }
      else if !mq.isEmpty then (s.markMq F true).finishOnce F x (regInfo f) [d] e { causes := mq }
      else if 64 ≤ rl.groups.length then s.finishOnce F x (regInfo f) [d] e { hold := some (.mcommit d (guardTaint x F.lanes f.pred)) }
      else
        let rl1 := rl.closeGroup
        ({ s with relays := put s.relays r rl1 }).finishOnce F x (regInfo f) [d] e
          { sw := [(d, ⟨BitVec.ofNat 32 rl1.groupNo, .clean⟩)] }
    | _, _ => s.finishOnce F x (regInfo f) [d] e { causes := base }

/-- MWAIT. -/
def execMwait (f : ImmF) (s : State) : Host.Outcome State Fault Refusal :=
  withUnit s fun F x =>
    let e := execLanes x F.lanes f.pred
    let n := f.imm.toNat
    let mq := s.mqCause F
    let named := unitCauses F.unit pacerOnly ++ scalarCauses s F.unit x e f.pred []
    let base := named ++ (if n < 64 then [] else [0x54])
    match s.relayOf F.unit with
    | some rl =>
      -- a recorded failure comes before the check of the group (R195, R416)
      if e ≠ 0#32 && named.isEmpty && !mq.isEmpty then
        (s.markMq F true).finishOnce F x (immInfo f) [] e { causes := mq }
      else
        let ready : Bool := rl.groups.length ≤ n
        let x1 : Strand := if e ≠ 0#32 && base.isEmpty && ready then
          { x with race := (x.race.merge rl.groupHand).release 2 } else x
        s.waitWord F x1 (immInfo f) f.la.toNat (.mwait n) (.mwait n) base ready [] []
    | none => s.finishOnce F x (immInfo f) [] e { causes := base }

/-! ### The array (R192 to R197, R420, R421) -/

/-- Change the entry at the head of queue 10. -/
def Relay.setEntry (rl : Relay) (e : MEntry) : Relay :=
  match rl.mq with
  | .entry _ :: rest => { rl with mq := .entry e :: rest }
  | _ => rl

/-- The held slots that stand for an entry's: its own, and for each that an FREL.F has released in its turn (R150) the
oldest of the others (log 83). -/
def Bank.standFor (b : Bank) (slots : List Nat) : List Nat :=
  let own := slots.filter fun i => b.heldC.contains i
  own ++ (b.heldC.filter fun i => !slots.contains i).take (slots.length - own.length)

/-- Held slots return to the filled state at the head of the consumer order (R195, R196). -/
def Bank.returnSlots (b : Bank) (slots : List Nat) : Bank :=
  { b with again := slots ++ b.again, filled := b.filled + slots.length,
           heldC := b.heldC.filter fun i => !slots.contains i }

/-- The FIFO bank of an entry's A operand. -/
def MOp.bank : MOp → Option Nat
  | .mma _ a _ _ => a.bank
  | _ => none

/-- An entry leaves the array without committing: its slots go back (R195, R196), which a failure remembers. -/
def Relay.unbegin (rl : Relay) (e : MEntry) (fails : Bool) : Relay :=
  let l := match e.op.bank with
    | some k => (rl.bank k).standFor e.slots
    | none => []
  let rl1 := match e.op.bank with
    | some k => rl.modBank k fun b => b.returnSlots l
    | none => rl
  rl1.setEntry { e with begun := false, slots := [], replays := 0, back := if fails then l else e.back }

/-- Pre-emption or migration abandons the entry in the array (R196). -/
def Relay.abandon (rl : Relay) : Relay :=
  match rl.mq with
  | .entry e :: _ => rl.unbegin e false
  | _ => rl

/-- Record a failure: queue 10 stops at the failed entry (R195). DESIGN CHOICE, entry 91: SEQ holds the entry's position in
its group modulo 256. -/
def State.failEntry (s : State) (r : Nat) (e : MEntry) (cause : Nat) : State :=
  let s1 := s.modRelay r fun rl =>
    let g := e.group.getD ((rl.groupNo + 1) % 2 ^ 32)
    { rl.unbegin e true with
      mqerr := BitVec.ofNat 32 (pack [(16, g % 2 ^ 16), (8, e.seq % 256), (7, cause), (1, 1)]), mqParked := false }
  s1.failPacerWait r cause

/-- The entry at the head is complete: its group counts it, and queue 10 releases (R198, R175). -/
def Relay.retireEntry (rl : Relay) : Relay :=
  match rl.mq with
  | .entry e :: rest =>
    let groups := match e.group with
      | some g =>
        match find rl.groups g with
        | some n => if n ≤ 1 then del rl.groups g else put rl.groups g (n - 1)
        | none => rl.groups
      | none => rl.groups
    let rl1 : Relay := { rl with mq := rest, groups := groups, mqRace := rl.mqRace.release 2 }
    let hand := if groups.length < rl.groups.length then rl1.queueGives 10 else rl.groupHand
    ({ rl1 with groupHand := hand } : Relay).tidyMarkers.drain
  | _ => rl

/-- Slots an MMA on a FIFO operand needs (R192). -/
def Relay.slotsNeeded (rl : Relay) (t : Tensor) (k : Nat) : Nat :=
  let sb := slotBytes (rl.bank k).slot
  let scale := if t.format = fmtE2M1X then 128 * (t.cols / 32) * 2 else 0
  (128 * t.rowBytes + scale + sb - 1) / sb

/-- The command reads or writes the unit n of its stream next, and that stands in a slot it has yet to acquire. -/
def Relay.wantsSlot (rl : Relay) (q k : Nat) (filled : Bool) (c : Command) : Bool :=
  let upr := c.rowBytes / 16
  let far (n back held stride swz : Nat) : Bool :=
    back + held ≤ phys swz stride (n / upr) (16 * (n % upr)) / slotBytes (rl.bank k).slot
  rl.guardOf c = .yes &&
  if filled then c.src = .fifo k && c.unitsRead q < c.units && far (c.unitsRead q) c.srcBack c.srcHeld.length c.sstride c.sswz
  else c.dst = .fifo k && c.unitsWritten < c.units && far c.unitsWritten c.dstBack c.dstHeld.length c.dstride c.swz

/-- The slots of bank k that the copy engine's commands want next: it is served before the matrix queue (R380). -/
def Relay.copyWants (rl : Relay) (k : Nat) : Nat :=
  (rl.queues.filter fun e => (rl.head e.1).any fun c => rl.wantsSlot e.1 k true c).length

/-- Acquire filled slots for an entry until it has m of them. -/
def Relay.acquireFor (rl : Relay) (k m : Nat) (slots : List Nat) : Nat → Relay × List Nat
  | 0 => (rl, slots)
  | n + 1 =>
    if m ≤ slots.length || (rl.bank k).busy || (rl.bank k).avail true ≤ rl.facqBefore true k none + rl.copyWants k then (rl, slots)
    else
      let b := rl.bank k
      let i := b.nextSlot true
      let rl1 := rl.modBank k Bank.acqFilled
      Relay.acquireFor { rl1 with mqRace := rl1.mqRace.merge ((find b.hand i).getD []) } k m (slots ++ [i]) n

/-- The pages of n bytes from an offset. -/
def pagesOf (off n : Nat) : List Nat := span (off / 4096) ((off + n - 1) / 4096 + 1 - off / 4096)

/-- The scratch pages that the rows of a tensor cover. -/
def Tensor.pages (t : Tensor) : List Nat :=
  ((List.range t.rows).flatMap fun i => pagesOf (t.base + i * t.stride) t.rowBytes).eraseDups

/-- The scratch pages of the scale pairs of an E2M1X tensor: the array reads them, but the span code places none of their
bytes (R187, R189), so no swizzle record is compared for them (DEDUCED, log 68). -/
def Tensor.scalePages (t : Tensor) : List Nat :=
  if t.format = fmtE2M1X then pagesOf t.scale (2 * (t.rows * (t.cols / 32))) else []

/-- The scale pairs of an E2M1X tensor do not stand on two-byte boundaries. -/
def Tensor.oddScale (t : Tensor) (at_ : Nat) : Bool := t.format = fmtE2M1X && at_ % 2 ≠ 0

/-- A scratch tensor must lie in the rounded .scratch, its units on 16-byte boundaries and its scale pairs on two-byte
ones. -/
def Tensor.scratchCause (t : Tensor) (rounded : Nat) : Option Nat :=
  if t.base % 16 ≠ 0 || t.oddScale t.scale then some 0x12 else if rounded < t.extent then some 0x13 else none

/-- The scratch tensor an entry reads or writes. -/
def MOp.scratchTensor : MOp → Option Tensor
  | .mzero _ => none
  | .mlda _ t => some t
  | .mma _ a _ _ => if a.loc = 1 then some a else none
  | .mstore t _ _ => if t.loc = 1 then some t else none

/-- The entry compares swizzle records when it begins (R190). -/
def MOp.compares : MOp → Bool
  | .mlda _ _ => true
  | .mma _ _ _ _ => true
  | _ => false

/-- How an entry's beginning goes: it waits for slots, fails, or is in the array. -/
inductive Begin where
  | wait (rl : Relay)
  | fail (rl : Relay) (e : MEntry) (cause : Nat)
  | begun (rl : Relay)

/-- Begin the entry at the head (R190, R192, R420). -/
def Relay.beginEntry (rl : Relay) (e : MEntry) (rounded owned pick : Nat) : Begin :=
  match e.op.bank, e.op with
  | some k, .mma _ a _ _ =>
    if owned ≤ k then .fail rl e 0x17
    else if (rl.bank k).mode ≠ .fifo then .fail rl e 0x18
    else
      let m := rl.slotsNeeded a k
      if nslot (rl.bank k).slot < m then .fail rl e 0x37
      else
        let r := rl.acquireFor k m e.slots (m + 1)
        let e1 := { e with slots := r.2 }
        if r.2.length < m then .wait (r.1.setEntry e1)
        else if r.2.any fun i => getD 0 (r.1.bank k).swz i ≠ a.swzCode then .fail r.1 e1 0x38
        else .begun (r.1.setEntry { e1 with begun := true })
  | _, op =>
    match op.scratchTensor with
    | none => .begun (rl.setEntry { e with begun := true })
    | some t =>
      match t.scratchCause rounded with
      | some c => .fail rl e c
      | none =>
        let rl1 := rl.refillAll pick (t.pages ++ t.scalePages)
        if (t.pages ++ t.scalePages).any fun n => rl1.inTransition (4096 * n) then .wait rl
        else if op.compares && t.pages.any fun n => (rl1.page n).swz ≠ t.swzCode then .fail rl1 e 0x38
        else .begun (rl1.setEntry { e with begun := true })

/-- MATRIX_ENTRY_BEGIN: the entry at the head of a queue that is not stopped. -/
def execMatrixEntryBegin (relay : Nat) (s : State) : Host.Outcome State Fault Refusal :=
  match find s.relays relay with
  | none => .next s
  | some rl =>
    match rl.mq, find s.fields rl.field with
    | .entry e :: _, some f =>
      if !rl.active || rl.mqerr.getLsbD 31 || e.begun then .next s
      else
        let put' (rl : Relay) : State := s.paged relay rl
        match rl.beginEntry e (scratchRounded f) (ownedBanks f) (s.freeNat 4) with
        | .wait rl1 => .next (put' rl1)
        | .begun rl1 => .next (put' rl1)
        | .fail rl1 e1 c => .next ((put' rl1).failEntry relay e1 c)
    | _, _ => .next s

/-- Count a replay in SR.MRETRY (R194). -/
def countReplay (w : Word32) : Word32 :=
  let n := w.toNat
  BitVec.ofNat 32 (pack [(8, bits n 7 0), (8, min 255 (bits n 15 8 + 1))])

/-- One converted row of MSTORE (R197): its bytes, and the scale pairs of an E2M1X row. -/
def storeRow (fmt : Nat) (sat : Bool) (cell : Nat → Nat) : List Nat × List Nat :=
  let conv (D : Fmt) (n : Nat) : List Nat := (List.range 128).flatMap fun j =>
    bytesOf' n (cvtFF f32 D .rne sat (cell j)).bits
  match fmt with
  | 0 => (conv e4m3 1, [])
  | 1 => (conv e5m2 1, [])
  | 2 =>
    let bs := (List.range 4).map fun b => toBlock 0x50 (laneIds.map fun i => f32.val (cell (32 * b + i)))
    (bs.flatMap fun r => (List.range 16).map fun i => r.codes.getD (2 * i) 0 + 16 * r.codes.getD (2 * i + 1) 0,
     bs.flatMap fun r => [r.scale, 0x50])
  | 3 => (conv bf16 2, [])
  | 6 => ((List.range 128).flatMap fun j => bytesOf' 4 (if sat then finite (cell j) else cell j), [])
  | _ => ((List.range 128).flatMap fun j => bytesOf' 4 (cell j), [])
where
  /-- an infinite cell is replaced by the largest finite value of its sign (R99, R110) -/
  finite (n : Nat) : Nat := if n % 2 ^ 31 = 0x7F800000 then n - 1 else n
  bytesOf' : Nat → Nat → List Nat
    | 0, _ => []
    | n + 1, v => v % 256 :: bytesOf' n (v / 256)

def listNum : List Nat → Nat
  | [] => 0
  | b :: bs => b + 256 * listNum bs

/-- Where n bytes of an MSTORE's destination stand. -/
def State.storeAt (s : State) (r ctx : Nat) (t : Tensor) (off : Nat) : State × UnitAt :=
  if t.loc = 0 then s.deviceUnit (.engine r 10) ctx t.cap off true else s.scratchUnit r off true

/-- Every unit of the destination: what stops the store before a byte is written (R421). -/
def State.storeReach (s : State) (r ctx : Nat) (t : Tensor) : List Nat → State × Option UnitAt
  | [] => (s, none)
  | off :: offs =>
    let p := s.storeAt r ctx t off
    match p.2 with
    | .at _ => p.1.storeReach r ctx t offs
    | w => (p.1, some w)

/-- The offsets of the 16-byte units and of the scale pairs of an MSTORE. -/
def Tensor.storeOffs (t : Tensor) : List Nat :=
  (List.range 128).flatMap (fun i => (List.range (t.rowBytes / 16)).map fun c => t.base + phys t.swzCode t.stride i (16 * c)) ++
  (if t.format = fmtE2M1X then (List.range 512).map fun p => t.scale + 2 * p else [])

/-- Perform an MSTORE whose destination is within reach. -/
def State.performStore (s : State) (r : Nat) (f : Field) (t : Tensor) (acc : Nat) (sat : Bool) : State :=
  match find s.relays r with
  | none => s
  | some rl =>
    let wr (s : State) (off n v : Nat) : State :=
      let p := s.storeAt r f.ctx t off
      match p.2 with
      | .at l => p.1.engineWrite r 10 f.epoch f.nodet l n v t.swzCode
      | _ => p.1
    (List.range 128).foldl (fun s i =>
      let row := storeRow t.format sat fun j => (rl.cell acc i j).toNat
      let s1 := (List.range (t.rowBytes / 16)).foldl (fun s c =>
        wr s (t.base + phys t.swzCode t.stride i (16 * c)) 16 (listNum ((row.1.drop (16 * c)).take 16))) s
      (List.range (row.2.length / 2)).foldl (fun s b =>
        wr s (t.scale + 2 * (4 * i + b)) 2 (listNum ((row.2.drop (2 * b)).take 2))) s1) s

/-- The causes of a device destination at the store (R125, R421). -/
def storeCapCause (t : Tensor) : Option Nat :=
  if t.loc = 0 then pickCause ((if t.cap.tag then [] else [0x20]) ++ (if t.cap.len < t.extent then [0x21] else []) ++
    (if t.cap.canW then [] else [0x22]) ++ (if capVa t.cap t.base % 16 = 0 && !t.oddScale (capVa t.cap t.scale) then [] else [0x12])) else none

/-- Release the slots of a committed or discarded entry as empty. -/
def Relay.freeSlots (rl : Relay) (e : MEntry) : Relay :=
  match e.op.bank with
  | some k => e.slots.foldl (fun rl _ => rl.giveBack 10 k true) rl
  | none => rl

/-- The array has read the pages of an entry's scratch tensor to the end (R143). -/
def Relay.reads (rl : Relay) (e : MEntry) (pick : Nat) : Relay :=
  match e.op.scratchTensor with
  | some t => rl.refillAll pick (t.pages ++ t.scalePages)
  | none => rl

/-- MATRIX_ENTRY_COMPLETE: the entry in the array commits, replays or fails. -/
def execMatrixEntryComplete (relay : Nat) (residueOk : Bool) (s : State) : Host.Outcome State Fault Refusal :=
  match find s.relays relay with
  | none => .next s
  | some rl =>
    match rl.mq, find s.fields rl.field with
    | .entry e :: _, some f =>
      if !rl.active || rl.mqerr.getLsbD 31 || !e.begun then .next s
      else
        match e.op with
        | .mzero n => .next (s.modRelay relay fun rl => (rl.setAcc n fun _ _ => 0).retireEntry)
        | .mlda n t =>
          .next ((s.paged relay (rl.reads e (s.freeNat 4))).modRelay relay fun rl =>
            (rl.setAcc n fun i j => rl.readScr (t.base + phys t.swzCode t.stride i (4 * j)) 4).retireEntry)
        | .mma n a b k =>
          if rl.mmaInvalid a b e.slots k then .next (s.failEntry relay e 0x39)
          else if residueOk then
            .next ((s.paged relay (rl.reads e (s.freeNat 4))).modRelay relay fun rl =>
              ((rl.setAcc n fun i j => rl.mmaResult n a b e.slots k i j).freeSlots e).retireEntry)
          else if e.replays < bits rl.mretry.toNat 2 0 then
            .next (s.modRelay relay fun rl =>
              { rl.setEntry { e with replays := e.replays + 1 } with mretry := countReplay rl.mretry })
          else .next (s.failEntry relay e 0x53)
        | .mstore t n sat =>
          match storeCapCause t with
          | some c => .next (s.failEntry relay e c)
          | none =>
            let p := s.storeReach relay f.ctx t t.storeOffs
            match p.2 with
            | some (.fail c) => .next (p.1.failEntry relay e c)
            | some _ => .next p.1
            | none =>
              .next ((p.1.performStore relay f t n sat).modRelay relay fun rl => rl.retireEntry)
    | _, _ => .next s

/-! ### A handler ends a matrix failure (R195) -/

/-- Release an entry's slots as empty: those it holds, and those its failure returned and nobody has acquired since. -/
def Relay.discardSlots (rl : Relay) (e : MEntry) : Relay :=
  match e.op.bank with
  | some k =>
    (e.back.filter fun i => (rl.bank k).again.contains i).foldl
      (fun rl _ => (rl.modBank k Bank.acqFilled).giveBack 10 k true) (rl.freeSlots e)
  | none => rl

/-- Discard every entry of queue 10. -/
def Relay.discardAll (rl : Relay) : Relay :=
  let rl1 := rl.mq.foldl (fun rl it => match it with
    | .entry e => rl.discardSlots e
    | .marker _ => rl) rl
  ({ rl1 with mq := rl1.mq.filter (fun it => match it with
      | .entry _ => false
      | .marker _ => true), groups := [], openSeq := 0 } : Relay).tidyMarkers

/-- V cleared (R195). -/
def clearV (w : Word32) : Word32 := w &&& 0x7FFFFFFF#32

/-- The effect of FRET or FKILL on queue 10. -/
def Relay.endMqFailure (rl : Relay) (how : FragEnd) : Relay :=
  let rl0 := { rl with mqerr := clearV rl.mqerr, mqParked := false }
  match how, rl.mq with
  | .retry, .entry e :: _ => rl0.setEntry { e with replays := 0, back := [] }
  | .skip, .entry e :: _ => ((rl0.discardSlots e).setEntry { e with slots := [], back := [] }).retireEntry
  | .kill, _ => { rl0.discardAll with pacerState := .idle }
  | _, _ => rl0

end Sys2Proof.Machine
end

