-- ==== Sys2Proof/Machine/Special.lean ====
section
/-! DEFINITION. The special registers, SRD and SWR, and TDESC and TINV (R27, R28, R37, R65, R71, R78, R100, R101,
R126, R144, R178, R186, R194, R195, R206, R207, R231, R240, R248, R279, R283, R286, R307, R448 to R450, R455, R456). -/

namespace Sys2Proof.Machine

/-! ### Reading -/

/-- The physical clusters of the device. -/
def clusterIds : List Nat := List.range 104

def State.clustersWith (s : State) (st : ClusterStatus) : Nat :=
  (clusterIds.filter fun c => (s.cluster c).status = st).length

/-- A field of the unit's relay. -/
def State.relayD (s : State) (u : UnitRef) (g : Relay → Nat) : Nat :=
  match s.relayOf u with
  | some rl => g rl
  | none => 0

/-- The unit's squad. -/
def State.squadOf (s : State) (u : UnitRef) : Option Squad :=
  match u with
  | .heat _ q _ => (s.relayOf u).bind fun rl => find rl.squads q
  | _ => none

/-- The lane that runs the fragment's handler (R73). -/
def FragPhase.elected : FragPhase → Option Nat
  | .handler _ lane => some lane
  | _ => none

/-- SR.FRAG of a lane (R71). A lane is elected when its handler starts, not before: the lanes of a fragment that waits for
a page read ELECT 0 (R476). -/
def State.srFrag (_s : State) (_u : UnitRef) (x : Strand) (i : Nat) : Nat :=
  let l := x.lane i
  match l.frag with
  | none => 0x1FF
  | some fid =>
    match find x.frags fid with
    | none => 0x1FF
    | some fr =>
      let mine := boolBit (fr.phase.elected = some i)
      pack [(9, fid), (7, fr.fcause.toNat), (7, l.own.toNat), (1, 0), (1, mine), (1, mine), (1, boolBit fr.replay),
        (1, boolBit fr.bound), (4, fr.gen.toNat)]

/-- SR.FMASK of a lane (R248). -/
def srFmask (x : Strand) (i : Nat) : Nat :=
  match (x.lane i).frag with
  | some fid => (x.fragLanes fid).toNat
  | none => 0

def srStreak (x : Strand) : Nat := pack [(5, x.streak), (3, 0), (1, boolBit x.nextMode)]

/-- SR.RACE (R178). -/
def srRace (t : RaceTable) (off : Bool) : Nat :=
  pack [(24, t.wagent.toNat), (1, boolBit t.wv), (4, t.entries.length), (1, boolBit t.ovf), (1, boolBit off)]

/-- SR.SCR (R144). -/
def Relay.srScr (rl : Relay) : Nat := pack [(11, rl.pinned), (11, rl.resident), (6, rl.sbanks)]

/-- SR.PLACE (R27). -/
def State.srPlace (s : State) (u : UnitRef) : Nat :=
  let c := (s.clusterOf u).getD 0
  let p := if isPacer u then 0x1FF else (s.coreOf u).getD 0
  pack [(9, p), (7, c), (2, c / 26)]

/-- SR.SHAPE (R37). -/
def srShape (f : Field) : Nat := pack [(6, hdrSquad f), (2, 0), (5, hdrRelay f), (3, 0), (2, f.mode)]

/-- Cycles of a grant spent since its level was reached (R283). -/
def Cluster.grantRun (cl : Cluster) (g : Grant) : Nat :=
  match g.since with
  | some t => cl.cyc.toNat - t
  | none => 0

/-- Whole intervals of a grant remaining. -/
def Cluster.grantLeft (cl : Cluster) (g : Grant) : Nat := (g.left * 2 ^ 20 - cl.grantRun g) / 2 ^ 20
def Cluster.grantSpent (cl : Cluster) (g : Grant) : Bool := g.left * 2 ^ 20 ≤ cl.grantRun g

/-- SR.BOOST of a cluster (R283). -/
def srBoost (cl : Cluster) : Nat :=
  match cl.grant with
  | some g => if cl.grantSpent g then 0 else pack [(3, g.level), (13, 0), (13, cl.grantLeft g)]
  | none => 0

/-- The hottest of a list of sensors. -/
def hottest : List Int → Int
  | [] => 0
  | t :: l => l.foldl max t

/-- The core sensors of a cluster. -/
def Cluster.coreTemps (cl : Cluster) : List Int := (List.range 4).map fun i => getD 0 cl.coreT i

/-- SR.TALLOW of a die (R286): the sensors of its active clusters and of its stacks. -/
def State.srTallow (s : State) (die : Nat) : Nat :=
  let d := (find s.dies die).getD dieInit
  let act := (List.range 26).filter fun i => (s.cluster (die * 26 + i)).status = .active
  let core := hottest (act.flatMap fun i => (s.cluster (die * 26 + i)).coreTemps)
  pack [(8, min 255 (95 - core).toNat), (8, 0), (7, min 127 (hottest (d.stackT.map fun e => e.2)).toNat), (1, boolBit (d.refx2.any fun e => e.2))]

/-- The value of a special register for lane i of a heat or pacer, as it stands (R449, R450). -/
def State.srValue (s : State) (u : UnitRef) (x : Strand) (i n : Nat) : Nat :=
  let rl (g : Relay → Nat) : Nat := s.relayD u g
  let fd (g : Field → Nat) : Nat := s.fieldD u 0 g
  let ctx (g : Ctx → Nat) : Nat := match s.ctxOf u with
    | some c => g c
    | none => 0
  let cl := s.cluster ((s.clusterOf u).getD 0)
  let pacer := isPacer u
  match n with
  | 0x00 => if pacer then 0 else i
  | 0x01 => if pacer then 0x3F else (unitSquadHeat u).2
  | 0x02 => if pacer then 0x1F else (unitSquadHeat u).1
  | 0x03 => if pacer then 0x1FF else match s.squadOf u with
    | some q => q.coreL
    | none => 0
  | 0x04 => rl fun r => r.lcluster
  | 0x05 => pack [(7, s.clustersWith .active), (4, s.clustersWith .spare)]
  | 0x06 => s.srPlace u
  | 0x07 => fd srShape
  | 0x08 => rl fun r => r.x
  | 0x09 => rl fun r => r.y
  | 0x0A => rl fun r => r.z
  | 0x0B => fd fun f => f.dimX
  | 0x0C => fd fun f => f.dimZ * 65536 + f.dimY
  | 0x10 => x.fpf.toNat
  | 0x11 => x.fpe.toNat
  | 0x12 => x.slf.toNat
  | 0x13 => pack [(3, x.g.toNat), (5, 0), (1, boolBit x.ovfe)]
  | 0x14 => srStreak x
  | 0x15 => s.srFrag u x i
  | 0x16 => srFmask x i
  | 0x17 => (x.lane i).fva.toNat
  | 0x18 => srRace x.race (s.fieldD u false fun f => f.nodet)
  | 0x19 => boolBit (s.yieldPending u)
  | 0x1A => rl Relay.srScr
  | 0x20 => ctx fun c => c.capRoot
  | 0x21 => ctx fun c => c.capN
  | 0x22 => rl fun r => r.cqerr.toNat
  | 0x23 => rl fun r => r.mretry.toNat
  | 0x24 => rl fun r => r.mqerr.toNat
  | 0x28 => cl.cyc.toNat
  | 0x29 => s.dev.lifeh
  | 0x2A => wrap 64 s.dev.bal
  | 0x2B => srBoost cl
  | 0x2C => s.srTallow ((s.clusterOf u).getD 0 / 26)
  | _ => if 0x30 ≤ n && n < 0x40 then rl fun r => (getD 0#64 r.counters (n - 0x30)).toNat else 0

/-- The value for a warm-up (R231): every register but its own reads 0. -/
def State.warmSr (s : State) (q n : Nat) : Nat :=
  match find s.warms q with
  | none => 0
  | some w =>
    if 0x40 ≤ n && n < 0x80 then (getD 0#32 w.wpar (n - 0x40)).toNat
    else if n = 0x80 then w.wdimx else if n = 0x81 then w.wrep else 0

def State.sr (s : State) (u : UnitRef) (x : Strand) (i n : Nat) : Nat :=
  match u with
  | .warm q => s.warmSr q n
  | _ => s.srValue u x i n

/-- The causes of reading register n (R28, R450). -/
def State.srCauses (s : State) (u : UnitRef) (n : Nat) : List Nat :=
  (if !isWarm u && 0x40 ≤ n && n ≤ 0x81 then [0x04] else []) ++
  (if !isWarm u && n = 0x06 && !(s.fieldD u false fun f => f.priv) then [0x25] else [])

def flagSr (n : Nat) : Bool := n = 0x10 || n = 0x12

/-- SRD: reading a flag register first lets every instruction outstanding complete (R101). -/
def execSrd (f : RegF) (s : State) : Host.Outcome State Fault Refusal :=
  withUnit s fun F x0 =>
    let n := f.a.toNat
    let x := if flagSr n && !isWarm F.unit then x0.landWhere fun _ => true else x0
    if flagSr n && !x.ops.isEmpty then s
    else
      let u := F.unit
      let d := f.d.toNat
      let count := if srWide n then 2 else 1
      let e := execLanes x F.lanes f.pred
      if f.u then
        let causes := if e = 0#32 then [] else
          unitCauses u anyUnit ++ scalarCauses s u x e f.pred (span d count) ++ s.srCauses u n
        s.finishOnce F x (regInfo f) (span d count) e
          { causes := causes,
            sw := if e = 0#32 then [] else splitRegs d (s.sr u x ((lowest e).getD 0) n) .clean count }
      else
        s.finish F x (regInfo f) ⟨span d count, [], []⟩ e (fun i =>
          { laneNone with
            causes := unitCauses u anyUnit ++ namedCauses s u x i ⟨span d count, [], predNamed f.pred⟩ ++ s.srCauses u n,
            v := splitRegs d (s.sr u x i n) .clean count }) []

/-! ### Writing -/

/-- A write of SR.MRETRY (R194). -/
def writeMretry (old v : Nat) : Nat := pack [(3, v % 8), (5, 0), (8, if bits v 15 8 = 0 then 0 else bits old 15 8)]

/-- A write of SR.DCi (R207). -/
def writeCounter (old v : Nat) : Nat :=
  pack [(48, v % 2 ^ 48), (8, if bits v 55 48 = 0 then 0 else bits old 55 48),
    (7, if bit v 63 then bits old 62 56 else 0), (1, if bit v 63 then boolBit (bit old 63) else 0)]

/-- The causes of writing register n (R449, R450, R231). -/
def State.swrCauses (s : State) (u : UnitRef) (n v : Nat) : List Nat :=
  match u with
  | .warm q =>
    if 0x40 ≤ n && n < 0x80 then []
    else if n = 0x80 then
      -- bit 31 is reserved and ignored (R231, R451)
      match find s.warms q with
      | some w => if v % 2 ^ 31 = 0 || w.proto.dimX < v % 2 ^ 31 then [0x04] else []
      | none => [0x04]
    else if n = 0x81 then [0x04]
    else [0x25]
  | _ => (if !srWritable n || 0x40 ≤ n then [0x04] else []) ++ (if n = 0x23 && isHeat u then [0x06] else [])

/-- A write to one of the unit's own registers. -/
def Strand.writeSr (x : Strand) (n v : Nat) : Strand :=
  match n with
  | 0x10 => { x with fpf := x.fpf &&& BitVec.ofNat 5 v }
  | 0x11 => { x with fpe := BitVec.ofNat 7 v }
  | 0x12 => { x with slf := x.slf &&& BitVec.ofNat 4 v }
  | 0x13 => { x with ovfe := bit v 8 }
  | _ => x

/-- A write to a register of the relay. -/
def Relay.writeSr (rl : Relay) (n v : Nat) : Relay :=
  if n = 0x22 then { rl with cqerr := if bit v 31 then rl.cqerr else 0#32 }
  else if n = 0x23 then { rl with mretry := BitVec.ofNat 32 (writeMretry rl.mretry.toNat v) }
  else if 0x30 ≤ n && n < 0x40 then
    let c := writeCounter (getD 0#64 rl.counters (n - 0x30)).toNat v
    { rl with counters := put rl.counters (n - 0x30) (BitVec.ofNat 64 c) }
  else rl

/-- A write to a warm-up's register. -/
def Warm.writeSr (w : Warm) (n v : Nat) : Warm :=
  if n = 0x80 then { w with wdimx := v % 2 ^ 31 } else { w with wpar := put w.wpar (n - 0x40) (BitVec.ofNat 32 v) }

def State.writeSr (s : State) (u : UnitRef) (n v : Nat) : State :=
  match u with
  | .warm q => { s with warms := modify s.warms q fun w => w.writeSr n v }
  | .heat r _ _ => s.modRelay r fun rl => rl.writeSr n v
  | .pacer r => s.modRelay r fun rl => rl.writeSr n v

/-- SWR: instructions outstanding complete before a flag or enable register changes (R101). -/
def execSwr (f : RegF) (s : State) : Host.Outcome State Fault Refusal :=
  withUnit s fun F x0 =>
    let u := F.unit
    let n := f.d.toNat
    let own : Bool := 0x10 ≤ n && n ≤ 0x12
    let x := if own then x0.landWhere fun _ => true else x0
    let e := effectLanes x F.lanes f.pred
    let count := if srWide n then 2 else 1
    let a := readOpd x 0 true f.a.toNat count
    let ts := [a.taint, guardTaint x F.lanes f.pred]
    if e = 0#32 then s.finishOnce F x (regInfo f) [] e {}
    else if (own && !x.ops.isEmpty) || mustVerify ts then s
    else
      let causes := unitCauses u anyUnit ++ scalarCauses s u x e f.pred (span f.a.toNat count) ++ poisonCause ts ++
        s.swrCauses u n a.val
      if causes.isEmpty then (s.writeSr u n a.val).finishOnce F (x.writeSr n a.val) (regInfo f) [] e {}
      else s.finishOnce F x (regInfo f) [] e { causes := causes }

/-! ### TDESC and TINV -/

/-- Change the unit's context. -/
def State.modCtxOf (s : State) (u : UnitRef) (g : Ctx → Ctx) : State :=
  match s.fieldOf u with
  | some f => { s with ctxs := modify s.ctxs f.ctx g }
  | none => s

/-- The 256 bits TDESC supplies, VALID clear (R455). -/
def tdescBits (x : Strand) (a : Nat) (hi : Word64) : Nat :=
  let r (k : Nat) : Nat := (x.sreg (a + k)).val.toNat
  pack [(32, r 4), (32, r 5), (32, r 2), (32, r 3), (32, r 0), (32, r 1), (64, hi.toNat)]

/-- The causes of an entry (R186, R456). -/
def Tensor.writeCauses (t : Tensor) : List Nat :=
  (if t.reserved || (t.loc = 3 && t.stride ≠ 0) then [0x04] else []) ++
  (if t.loc = 0 then
    (if t.cap.tag then [] else [0x20]) ++ (if t.cap.len < t.extent then [0x21] else [])
   else [])

/-- TDESC. -/
def execTdesc (f : TdescF) (s : State) : Host.Outcome State Fault Refusal :=
  withUnit s fun F x =>
    let u := F.unit
    let e := effectLanes x F.lanes f.pred
    let info : WordInfo := ⟨f.pred, 0, 2, 1⟩
    let a := readOpd x 0 true f.a.toNat 6
    let ts := [a.taint, guardTaint x F.lanes f.pred]
    if e = 0#32 then s.finishOnce F x info [] e {}
    else if mustVerify ts then s
    else
      let b := tdescBits x f.a.toNat f.hi
      let t0 : Tensor := ⟨BitVec.ofNat 256 b, capNull⟩
      let t : Tensor := ⟨BitVec.ofNat 256 (b + 2 ^ 207), if t0.loc = 0 then x.creg t0.cidx else capNull⟩
      let causes := unitCauses u {} ++ scalarCauses s u x e f.pred (span f.a.toNat 6) ++ poisonCause ts ++
        t.writeCauses
      if causes.isEmpty then
        (s.modCtxOf u fun c => { c with tensors := put c.tensors f.t.toNat t }).finishOnce F x info [] e {}
      else s.finishOnce F x info [] e { causes := causes, fva := capVa t.cap t.base }

/-- VALID cleared (R456). -/
def Tensor.invalid (t : Tensor) : Tensor := { t with bits := t.bits &&& ~~~(1#256 <<< 207) }

/-- TINV. -/
def execTinv (f : RegF) (s : State) : Host.Outcome State Fault Refusal :=
  withUnit s fun F x =>
    let u := F.unit
    let e := effectLanes x F.lanes f.pred
    let n := f.d.toNat
    let ts := [guardTaint x F.lanes f.pred]
    if e = 0#32 then s.finishOnce F x (regInfo f) [] e {}
    else if mustVerify ts then s
    else
      let causes := unitCauses u {} ++ scalarCauses s u x e f.pred [] ++ poisonCause ts
      if causes.isEmpty then
        (s.modCtxOf u fun c => { c with tensors := put c.tensors n ((s.tensor u n).invalid) }).finishOnce F x (regInfo f) [] e {}
      else s.finishOnce F x (regInfo f) [] e { causes := causes }

end Sys2Proof.Machine
end

