-- ==== Sys2Proof/Machine/Handler.lean ====
section
/-! DEFINITION. Ending a handler and the words of handler mode: FRET, FKILL, TRAP, XRV and XWV (R73 to R76, R195,
R390, R392, R458, R463 to R465). -/

namespace Sys2Proof.Machine

/-- The pacer's fragment is the one that reports a matrix failure (R195). -/
def State.mqFragment (s : State) (u : UnitRef) : Bool :=
  isPacer u && match s.relayOf u with
    | some rl => rl.mqParked
    | none => false

/-- End a fragment and what hangs on it: the matrix failure it reports (R195), the pacer's exit (R390), and the
barriers and rendezvous that awaited only its lanes, exited or resumed with their arrival made (R77, R357). DESIGN CHOICE,
entry 90: where FKILL ends a matrix failure, the pacer goes idle as at its EXIT, and lanes at RDV meet 0x56 (R195). -/
def State.endUnitFrag (s : State) (u : UnitRef) (fid : Nat) (how : FragEnd) : State :=
  let s1 := s.endFrag u fid how
  match u with
  | .pacer r =>
    let s2 := if s.mqFragment u then s1.modRelay r fun rl => rl.endMqFailure how else s1
    if how = .kill then s2.pacerExit r else s2
  | _ => s1.settleBars u

/-- Instructions that the handler of a lane issued complete (R390, R392). -/
def Strand.landHandler (x : Strand) (m : LaneSet) : Strand := x.landWhere fun o => (o.lanes &&& m) ≠ 0#32

/-- A word that ends the handler: it issues, so that yield-deferred lanes run again (R66), and acts on the fragment. -/
def handlerEnd (f : NilF) (outside : List Nat) (act : State → UnitRef → Nat → State) (s : State) :
    Host.Outcome State Fault Refusal :=
  withUnit s fun F x =>
    let e := execLanes x F.lanes f.pred
    let o (i : Nat) : LaneOut :=
      laneFaults (bareCauses s F x {} f.pred i ++ if F.handler.isSome then [] else outside)
    match F.handler with
    | some fid =>
      if e = 0#32 || !(faultsOf e o).isEmpty then s.finish F x (nilInfo f) ⟨[], [], []⟩ e o []
      else
        let x1 : Strand := ({ (x.landHandler F.lanes).spend 1 with count := bump x.count } : Strand).undefer F.lanes
        act (s.setStrand F.unit x1) F.unit fid
    | none => s.finish F x (nilInfo f) ⟨[], [], []⟩ e o []

/-- FRET.RETRY (R392). -/
def execFretRetry (f : NilF) (s : State) : Host.Outcome State Fault Refusal :=
  handlerEnd f [0x0C] (fun s u fid => s.endUnitFrag u fid .retry) s
/-- FRET.SKIP (R392). -/
def execFretSkip (f : NilF) (s : State) : Host.Outcome State Fault Refusal :=
  handlerEnd f [0x0C] (fun s u fid => s.endUnitFrag u fid .skip) s
/-- FKILL (R390). -/
def execFkill (f : NilF) (s : State) : Host.Outcome State Fault Refusal :=
  handlerEnd f [0x0C] (fun s u fid => s.endUnitFrag u fid .kill) s
/-- TRAP (R458). -/
def execTrap (f : NilF) (s : State) : Host.Outcome State Fault Refusal :=
  handlerEnd f [0x49] (fun s u fid => s.escalate u fid) s

/-! ### XRV and XWV -/

/-- The lane a word names in S[a], and the causes of naming it, which fall in handler mode (R464). -/
def laneCauses (F : Focus) (l : Nat) : List Nat :=
  if F.handler.isSome && (32 ≤ l || (isPacer F.unit && l ≠ 0)) then [0x04] else []

def handlerOnly (F : Focus) : List Nat := if F.handler.isSome then [] else [0x0C]

/-- LSTATE as a number (R56). -/
def LState.code : LState → Nat
  | .running => 0
  | .parked => 1
  | .exited => 2
  | .deferred => 3

/-- What XRV reads for the handler `h`: the value over `count` registers with its poison (R463); of a lane in another's
window the registers that have committed (R86). -/
def State.xrvValue (s : State) (u : UnitRef) (x : Strand) (h : Option Nat) (sel b l : Nat) : Opd :=
  let ln := x.committedLane h l
  match sel with
  | 0 => ⟨(ln.reg b).val.toNat, (ln.reg b).taint⟩
  | 1 => ⟨boolBit (ln.pred b).val, (ln.pred b).taint⟩
  | 2 => ⟨ln.lpc.toNat, .clean⟩
  | 3 => ⟨ln.ls.code, .clean⟩
  | 4 => ⟨s.srFrag u x l, .clean⟩
  | _ => ⟨ln.fva.toNat, .clean⟩

/-- XRV. -/
def execXrv (f : RegF) (s : State) : Host.Outcome State Fault Refusal :=
  withUnit s fun F x =>
    let sl := x.sreg f.a.toNat
    let l := sl.val.toNat
    let sel := f.opx.toNat
    let count := if sel = 5 then 2 else 1
    let far : Named := ⟨if sel = 0 then [f.b.toNat] else [], [], if sel = 1 then [f.b.toNat] else []⟩
    let near : Named := ⟨span f.d.toNat count, [f.a.toNat], predNamed f.pred⟩
    let v := s.xrvValue F.unit x F.handler sel f.b.toNat l
    s.finish F x (regInfo f) ⟨span f.d.toNat count, [], []⟩ (execLanes x F.lanes f.pred) (fun i =>
      { laneNone with
        causes := unitCauses F.unit {} ++ handlerOnly F ++ namedCauses s F.unit x i near ++ laneCauses F l ++
          (if F.handler.isSome then namedCauses s F.unit x l far else []),
        v := splitRegs f.d.toNat v.val (v.taint.join sl.taint) count }) []

/-- The limits of XWV (R464): `a` is the handler's fragment. -/
def xwvCauses (x : Strand) (a : Option Nat) (sel l v : Nat) : List Nat :=
  let ln := x.lane l
  let own : Bool := ln.frag.isSome && ln.frag = a
  match sel with
  | 0 => if ln.ls = .exited then [0x04] else []
  | 1 => if ln.ls = .exited then [0x04] else []
  | 2 => if own then [] else [0x04]
  | _ =>
    if !own || !(v % 4 = 1 || v % 4 = 2) then [0x04]
    else if v % 4 = 2 && (match a.bind fun fid => find x.frags fid with
      | some fr => fr.bound
      | none => false) then [0x40] else []

/-- What XWV does to its target lane. -/
def xwvLane (sel d : Nat) (v : Reg) (ln : Lane) : Lane :=
  match sel with
  | 0 => ln.setReg d v
  | 1 => ln.setPred d ⟨v.val.getLsbD 0, v.taint⟩
  | 2 => { ln with lpc := v.val }
  | _ => if v.val.toNat % 4 = 2 then { ln with ls := .exited, frag := none, own := 0#7, fva := 0#57 } else ln

/-- XWV. -/
def execXwv (f : RegF) (s : State) : Host.Outcome State Fault Refusal :=
  withUnit s fun F x =>
    let sl := x.sreg f.a.toNat
    let l := sl.val.toNat
    let sel := f.opx.toNat
    let d := f.d.toNat
    let far : Named := ⟨if sel = 0 then [d] else [], [], if sel = 1 then [d] else []⟩
    let near : Named := ⟨[f.b.toNat], [f.a.toNat], predNamed f.pred⟩
    let e := execLanes x F.lanes f.pred
    let src (i : Nat) : Reg := (x.lane i).reg f.b.toNat
    let taint (i : Nat) : Taint := ((src i).taint.join sl.taint).join ((x.lane i).predTaint f.pred)
    let o (i : Nat) : LaneOut := laneFaults
      (unitCauses F.unit {} ++ handlerOnly F ++ namedCauses s F.unit x i near ++ laneCauses F l ++
        (if F.handler.isSome then
          namedCauses s F.unit x l far ++ xwvCauses x F.handler sel l (src i).val.toNat else []) ++
        (if sel ≤ 1 then [] else poisonCause [taint i]))
    if 2 ≤ sel && (lanesOf e).any (fun i => mustVerify [taint i]) then s
    else
      match F.handler, lanesOf (okLanes x e (faultsOf e o)) with
      | some _, i :: _ =>
        -- an entry that the exited lane was the last of returns to the pool, and its handler is over (R69)
        let w := xwvLane sel d ⟨(src i).val, taint i⟩
        let x1 := (if sel ≤ 1 && x.openIn (1#32 <<< l) then x.spoil l w (fun o => o.handler = F.handler) else x.setLane l (w (x.lane l))).dropEmpty
        let s1 := s.finish F x1 (regInfo f) ⟨[], [], []⟩ e o []
        if (x1.lane l).ls = .exited then
          match F.unit with
          | .pacer r => s1.pacerExit r
          | u => s1.settleBars u
        else s1
      | _, _ => s.finish F x (regInfo f) ⟨[], [], []⟩ e o []

end Sys2Proof.Machine
end

