-- ==== Sys2Proof/Machine/Collective.lean ====
section
/-! DEFINITION. Collective commands of queue 9: participants, reductions and their status (R211 to R213,
R298). -/

namespace Sys2Proof.Machine

/-! ### Participants (R298) -/

def entryDevice (n : Nat) : Nat := bits n 7 0
def entryCtx (n : Nat) : Nat := bits n 22 8
def entryLin (n : Nat) : Nat := bits n 63 24

/-- The relay of this device that an entry names, with the command at the head of its queue 9. -/
def State.participant (s : State) (cgrp n : Nat) : Option (Nat × Relay × Command) :=
  if entryDevice n ≠ s.dev.domain then none
  else s.relays.findSome? fun (r, rl) =>
    match find s.fields rl.field, (rl.queue 9).items with
    | some f, .command c :: _ =>
      if c.cgrp = cgrp && f.ctx = entryCtx n && rl.linear = entryLin n && rl.active && rl.guardOf c = .yes &&
          c.result.isNone && c.aborted.isNone then some (r, rl, c) else none
    | _, _ => none

/-! ### Reading and writing one side -/

/-- The bytes of a number, lowest first. -/
def bytesOf : Nat → Nat → List Nat
  | 0, _ => []
  | n + 1, v => v % 256 :: bytesOf n (v / 256)

/-- Little-endian number of a byte list. -/
def numOf : List Nat → Nat
  | [] => 0
  | b :: bs => b + 256 * numOf bs

/-! ### Formats and values (R211, R212) -/

/-- Element bytes of a collective format but E2M1X. -/
def cfmtBytes (cfmt : Nat) : Nat :=
  match cfmt with
  | 0 => 4
  | 1 => 2
  | 2 => 2
  | 3 => 1
  | 4 => 1
  | _ => 4

def cfmtFloat (cfmt : Nat) : Fmt :=
  match cfmt with
  | 0 => f32
  | 1 => bf16
  | 2 => f16
  | 3 => e4m3
  | _ => e5m2

/-- Split bytes into elements of n bytes. -/
def elements (n : Nat) : Nat → List Nat → List Nat
  | 0, _ => []
  | m + 1, bs => numOf (bs.take n) :: elements n m (bs.drop n)

/-- floor(log2 |v|) of a non-zero finite value. -/
def finLog (m : Nat) (e : Int) : Int := e + (m.log2 : Int)

/-- The term of a contribution in units of 2^(E−112), truncated towards zero (R212). -/
def sumTerm (top : Int) (neg : Bool) (m : Nat) (e : Int) : Int :=
  let k := e - (top - 112)
  let t := if 0 ≤ k then m * 2 ^ k.toNat else m / 2 ^ (-k).toNat
  if neg then -(t : Int) else t

/-- The exact sum of finite contributions: sign, magnitude, exponent. -/
def exactSum (l : List FVal) : Bool × Nat × Int :=
  let logs := l.filterMap fun v => match v with
    | .fin _ m e => if m = 0 then none else some (finLog m e)
    | _ => none
  match logs with
  | [] => (false, 0, 0)
  | a :: as =>
    let top := as.foldl max a
    let z := l.foldl (fun (z : Int) v => match v with
      | .fin n m e => z + sumTerm top n m e
      | _ => z) 0
    (decide (z < 0), z.natAbs, top - 112)

def isInf (neg : Bool) : FVal → Bool
  | .inf n => n = neg
  | _ => false

/-- The sum of one element (R212). -/
def sumFloat (F : Fmt) (l : List FVal) : Nat :=
  let pos := l.any (isInf false)
  let neg := l.any (isInf true)
  if l.any FVal.isNan || (pos && neg) then F.nan
  else if pos || neg then F.infinite false neg
  else
    let z := exactSum l
    (F.finish .rne false z).bits

/-- A sum, maximum or minimum of one element's codes. -/
def combine (cop cfmt : Nat) (l : List Nat) : Nat :=
  if cfmt = 5 then
    let z := l.map (signed 32)
    match cop, z with
    | 0, _ => wrap 32 (z.foldl (· + ·) 0)
    | 1, a :: as => wrap 32 (as.foldl max a)
    | _, a :: as => wrap 32 (as.foldl min a)
    | _, [] => 0
  else
    let F := cfmtFloat cfmt
    match cop, l with
    | 0, _ => sumFloat F (l.map F.val)
    | _, [] => 0
    | _, a :: as =>
      if l.any fun n => (F.val n).isNan then F.nan else as.foldl (fun x y => (fMinMax F (cop = 1) x y).bits) a

/-- The elements of one position across the contributions. -/
def columns (n : Nat) (ls : List (List Nat)) : List (List Nat) :=
  (List.range n).map fun i => ls.map fun l => l.getD i 0

/-- The exact value of an E2M1X element. -/
def blockFVal (scale extra code : Nat) : FVal :=
  let v := blockVal scale extra code
  .fin v.1 v.2.1 v.2.2

/-- The 32 values of block b of a contribution: 16 bytes a block, then the scale pairs. -/
def blockValues (blocks b : Nat) (l : List Nat) : List FVal :=
  let pair := 16 * blocks + 2 * b
  let at_ (i : Nat) : Nat := (l.getD (16 * b + i / 2) 0) / (if i % 2 = 0 then 1 else 16) % 16
  laneIds.map fun i => blockFVal (l.getD pair 0) (l.getD (pair + 1) 0) (at_ i)

/-- The larger or smaller of two finite values, −0 below +0. -/
def pickFin (isMax : Bool) (a b : FVal) : FVal :=
  let less := fLess a b || (!fLess b a && a.neg && !b.neg)
  if less = isMax then b else a

/-- One element's combined value, before re-encoding. -/
def combineBlock (cop : Nat) (l : List FVal) : FVal :=
  match cop, l with
  | 0, _ =>
    let z := exactSum l
    .fin z.1 z.2.1 z.2.2
  | _, [] => .fin false 0 0
  | _, a :: as => as.foldl (pickFin (cop = 1)) a

/-- Combine one block: its 16 element bytes and its scale pair, with the extra 8.0 (R104, R106, R212). -/
def combineBlocks (cop blocks b : Nat) (ls : List (List Nat)) : List Nat × List Nat :=
  let vs := ls.map (blockValues blocks b)
  let r := toBlock 0x50 (laneIds.map fun i => combineBlock cop (vs.map fun v => v.getD i (.fin false 0 0)))
  ((List.range 16).map fun i => r.codes.getD (2 * i) 0 + 16 * r.codes.getD (2 * i + 1) 0, [r.scale, 0x50])

/-- A contribution holds an invalid block (R105). -/
def badBlocks (blocks : Nat) (l : List Nat) : Bool :=
  (List.range blocks).any fun b => blockInvalid (l.getD (16 * blocks + 2 * b) 0) (l.getD (16 * blocks + 2 * b + 1) 0)

/-- The result bytes of a collective over `n` bytes of elements: of E2M1X with its scale pairs after them. What an
all-gather writes is not stated: `free` stands for it. -/
def collect (cop cfmt n : Nat) (ls : List (List Nat)) (free : Nat → Nat) : List Nat :=
  let full := if cfmt = 6 then n + n / 8 else n
  match cop with
  | 3 => (List.range full).map free
  | 4 => (ls.headD []).take full
  | _ =>
    if cfmt = 6 then
      let bs := (List.range (n / 16)).map fun b => combineBlocks cop (n / 16) b ls
      bs.flatMap (fun p => p.1) ++ bs.flatMap fun p => p.2
    else
      let eb := cfmtBytes cfmt
      (columns (n / eb) (ls.map (elements eb (n / eb)))).flatMap fun c => bytesOf eb (combine cop cfmt c)

/-! ### Reading contributions and writing results (R205, R211) -/

/-- Bytes of a contribution: its elements, and of E2M1X their scale pairs after them. -/
def Command.contribution (c : Command) : Nat := c.total + 2 * c.pairs

/-- Where a scale pair stands: on its two-byte boundary, within the rounded .scratch. In a FIFO bank no rule places the
pairs of a command. -/
def State.pairUnit (s : State) (r ctx rounded : Nat) (place : Place) (off : Nat) (store : Bool) : State × UnitAt :=
  match place with
  | .device cap _ => if capVa cap off % 2 ≠ 0 then (s, .fail 0x12) else s.deviceUnit (.engine r 9) ctx cap off store
  | .scratch _ =>
    if off % 2 ≠ 0 then (s, .fail 0x12) else if rounded < off + 2 then (s, .fail 0x13) else s.scratchUnit r off store
  | _ => (s, .bstore 0)

/-- The next piece of a contribution: a unit, or a scale pair, which is free where the side gives none. -/
def State.readPiece (s : State) (r ctx rounded : Nat) (c : Command) : State × UnitAt × List Nat :=
  let n := c.got.length
  let take (p : State × UnitAt) (k : Nat) : State × UnitAt × List Nat :=
    match p.2 with
    | .at l => (p.1.useSlice (.pacer r) l, .at l, bytesOf k (p.1.readLoc (.pacer r) l k))
    | .bstore o => (p.1, .bstore o, (List.range k).map fun i => s.freeNat (2000 + n + i) % 256)
    | w => (p.1, w, [])
  if n < c.total then
    let upr := c.rowBytes / 16
    let k := n / 16
    take (s.srcUnit r 9 ctx rounded c (k / upr) (16 * (k % upr))) 16
  else
    match c.sscale with
    | some off => take (s.pairUnit r ctx rounded c.src (off + (n - c.total)) false) 2
    | none => take (s, .bstore 0) 2

/-- Read a contribution piece by piece, releasing FIFO slots as they have been read; what stops the read. -/
def State.readAll (s : State) (r : Nat) (f : Field) : Nat → State × Option UnitAt
  | 0 => (s, none)
  | n + 1 =>
    match (find s.relays r).bind fun rl => rl.head 9 with
    | none => (s, none)
    | some c =>
      if c.contribution ≤ c.got.length then (s, none)
      else
        let p := s.readPiece r f.ctx (scratchRounded f) c
        match p.2.1 with
        | .wait => (p.1.passHead r 9 id, some .wait)
        | .fail k => (p.1, some (.fail k))
        | _ => (p.1.passHead r 9 fun c => { c with got := c.got ++ p.2.2.map fun b => BitVec.ofNat 8 b }).readAll r f n

/-- The next piece of a result goes to its destination. -/
def State.writePiece (s : State) (r : Nat) (f : Field) (c : Command) (out : List Byte) : State × UnitAt :=
  let put' (p : State × UnitAt) (from_ k : Nat) : State × UnitAt :=
    match p.2 with
    | .at l =>
      (p.1.engineWrite r 9 f.epoch f.nodet l k (numOf (((out.drop from_).take k).map fun b => b.toNat)) c.swz, .at l)
    | w => (p.1, w)
  if c.done < c.units then
    let upr := c.rowBytes / 16
    put' (s.dstUnit r 9 f.ctx c (c.done / upr) (16 * (c.done % upr))) (16 * c.done) 16
  else
    let i := c.done - c.units
    match c.dscale with
    | some off => put' (s.pairUnit r f.ctx (scratchRounded f) c.dst (off + 2 * i) true) (c.total + 2 * i) 2
    | none => (s, .bstore 0)

/-- One participant as the reduction sees it. -/
structure Party where
  relay : Option (Nat × Command)
  keygen : Nat
  agrees : Bool
  cancelled : Bool
  cop : Nat
  cfmt : Nat
  rows : Nat
  rowBytes : Nat
  bytes : List Nat

/-- The status of a collective: of one that a participant's queue reset has cancelled nothing is compared; else the lowest
number where several apply (log 23). -/
def collectStatus (ps : List Party) (confidential : Bool) : Nat :=
  match ps with
  | [] => 2
  | p :: rest =>
    if ps.any fun q => q.cancelled then 6
    else if confidential && rest.any (fun q => q.keygen ≠ p.keygen) then 1
    else if ps.any (fun q => !q.agrees) then 2
    else if rest.any (fun q => q.cop ≠ p.cop || q.cfmt ≠ p.cfmt || q.rows ≠ p.rows || q.rowBytes ≠ p.rowBytes) ||
      4 < p.cop || 6 < p.cfmt then 3
    else if p.cfmt = 6 && ps.any (fun q => badBlocks (p.rows * p.rowBytes / 16) q.bytes) then 5
    else 0

/-- Complete a participant's command with a status (R213). DESIGN CHOICE, entry 100: an abort of a command with CTRAP that
names no counter is recorded in SR.CQERR. -/
def State.endCollective (s : State) (r : Nat) (c : Command) (status : Nat) : State :=
  s.endCommand r 9 (if status ≠ 0 && c.ctrap then some 0x59 else none) (some status)

/-- The relays of this device that a group names; none while one has not placed its command. -/
def State.present (s : State) (cgrp : Nat) : List Nat → Option (List Nat)
  | [] => some []
  | n :: ns =>
    if entryDevice n = s.dev.domain then
      match s.participant cgrp n, s.present cgrp ns with
      | some p, some l => some (p.1 :: l)
      | _, _ => none
    else s.present cgrp ns

/-- The relays of a group read their contributions as far as they can; a read that fails ends that command (R206). DESIGN
CHOICE, entry 99: that command alone, and the other participants' commands wait on. -/
def State.readParties (s : State) : List Nat → State × Bool
  | [] => (s, true)
  | r :: rs =>
    match find s.relays r with
    | none => (s, false)
    | some rl =>
      match rl.head 9, find s.fields rl.field with
      | some c, some f =>
        let p := (s.takeHand r 9).readAll r f (c.contribution + 1)
        match p.2 with
        | some (.fail cause) => ((p.1.endCommand r 9 (some cause) none).readParties rs |>.1, false)
        | some _ => ((p.1.readParties rs).1, false)
        | none => p.1.readParties rs
      | _, _ => (s, false)

/-- The parties of a group, in its order: local relays with what they have read, the others as the links bring them. -/
def State.parties (s : State) (cgrp : Nat) : List Nat → List Contribution → Option (List Party)
  | [], _ => some []
  | n :: ns, remote =>
    if entryDevice n = s.dev.domain then
      (s.participant cgrp n).bind fun p =>
        (s.parties cgrp ns remote).map fun l =>
          ⟨some (p.1, p.2.2), s.dev.linkGen.getD 0, true, false, p.2.2.cop, p.2.2.cfmt, p.2.2.rows, p.2.2.rowBytes,
            p.2.2.got.map fun b => b.toNat⟩ :: l
    else
      match remote with
      | [] => none
      | m :: ms =>
        (s.parties cgrp ns ms).map fun l =>
          ⟨none, m.keygen, m.agrees, m.cancelled, m.cop, m.cfmt, m.rows, m.rowBytes, m.bytes.map fun b => b.toNat⟩ :: l

/-- The device takes part in confidential work on a port whose interface runs (R300). -/
def State.confidential (s : State) (ctx : Nat) : Bool :=
  match find s.ctxs ctx with
  | some c => (s.port c.port).iface = .run
  | none => false

/-- Write the result of the head collective of a relay as far as it goes, and complete the command (R205, R211, R213). -/
def State.writeResult (s : State) (r : Nat) : Nat → State
  | 0 => s
  | n + 1 =>
    match find s.relays r with
    | none => s
    | some rl =>
      match rl.head 9, find s.fields rl.field with
      | some c, some f =>
        match c.result with
        | none => s
        | some out =>
          if !rl.active then s
          else if c.units + c.pairs ≤ c.done then s.endCollective r c 0
          else
            let p := s.writePiece r f c out
            match p.2 with
            | .wait => p.1.passHead r 9 id
            | .fail cause => p.1.endCommand r 9 (some cause) none
            | _ => (p.1.passHead r 9 fun c => { c with done := c.done + 1 }).writeResult r n
      | _, _ => s

/-- A participant of this device takes the result, where the status is 0, or completes its command with the status: on
an abort nothing has been written, and no destination slot acquired (R211, R213). -/
def State.deliver (status : Nat) (out : List Byte) (s : State) (q : Party) : State :=
  match q.relay with
  | none => s
  | some (r, c) =>
    if status = 0 then
      (s.modRelay r fun rl => match rl.head 9 with
        | some d => rl.setHead 9 { d with result := some out }
        | none => rl).writeResult r (c.units + c.pairs + 1)
    else s.endCollective r c status

/-- A link port carries traffic: the device has started, there is such a port, and its macro is in service (R276, R306,
R309). -/
def State.linkUp (s : State) (link : Nat) : Bool := s.dev.startState = 3 && link < 18 && getD true s.links link

/-- Some port of the 18 carries what other devices send. -/
def State.anyLink (s : State) : Bool := (List.range 18).any s.linkUp

/-- COLLECTIVE_RUN (R211 to R213): the collective of the command at the head of the relay's queue 9, with the
contributions of the participants on other devices, in the order of the participant list, as the links bring them. It goes
on over several events where a FIFO side or a page keeps a participant waiting. -/
def execCollectiveRun (relay : Nat) (peers : List Contribution) (s : State) : Host.Outcome State Fault Refusal :=
  match find s.relays relay with
  | none => .next s
  | some rl =>
    match rl.head 9, find s.fields rl.field with
    | some c, some f =>
      if !rl.active || rl.guardOf c ≠ .yes then .next s
      else if c.result.isSome then .next (s.writeResult relay (c.units + c.pairs + 1))
      else if c.aborted.isSome then .next (s.endCollective relay c (c.aborted.getD 0))
      else if !(c.group.any fun n =>
          entryDevice n = s.dev.domain && entryCtx n = f.ctx && entryLin n = rl.linear) then
        .next (s.endCollective relay c 2)
      else
        let remote := (c.group.filter fun n => entryDevice n ≠ s.dev.domain).length
        match s.present c.cgrp c.group with
        | none => .next s
        | some locals =>
          if peers.length < remote || (remote ≠ 0 && !s.anyLink) then .next s
          else
            let p := s.readParties locals
            match (if p.2 then p.1.parties c.cgrp c.group peers else none) with
            | none => .next p.1
            | some ps =>
              let ps' := ps.map fun q => match q.relay with
                | some (_, d) => { q with agrees := d.group = c.group }
                | none => q
              let status := collectStatus ps' (s.confidential f.ctx)
              let out := if status = 0 then collect c.cop c.cfmt c.total (ps'.map fun q => q.bytes)
                (fun i => s.freeNat (4000 + i) % 256) else []
              .next (ps'.foldl (State.deliver status (out.map fun b => BitVec.ofNat 8 b)) p.1)
    | _, _ => .next s

/-- PEER_UNREACHABLE (R213): the collective aborts with status 0x04 at every participant of this device. -/
def execPeerUnreachable (relay : Nat) (s : State) : Host.Outcome State Fault Refusal :=
  match find s.relays relay with
  | none => .next s
  | some rl =>
    match rl.head 9 with
    | some c =>
      if !rl.active || rl.guardOf c ≠ .yes || c.result.isSome || !(c.group.any fun n => entryDevice n ≠ s.dev.domain) then
        .next s
      else .next (c.group.foldl (fun s n =>
        match s.participant c.cgrp n with
        | some (r, _, d) => s.endCollective r d 4
        | none => s) s)
    | none => .next s

end Sys2Proof.Machine
end

