-- ==== Sys2Proof/WellFormed.lean ====
section
/-! DEFINITION. The well-formed instructions: the words that no static decode cause rejects
(R329 to R347). -/

namespace Sys2Proof

/-- Well-formed: every static check of R331 to R347 passes (Machine/Fields.lean holds them). -/
def WellFormed (i : Instr) : Bool := Machine.fieldsOk i

end Sys2Proof
end

