-- ==== Sys2Proof/Decode.lean ====
section
/-! DEFINITION. Decoding of instruction words, total, rejecting by cause, and the encoder (R326 to
R346). -/

namespace Sys2Proof

open Machine

/-! ### Encoding -/

def rndCode : Rnd → Nat
  | .rne => 0
  | .rtz => 1
  | .rup => 2
  | .rdn => 3

def rndOf : Nat → Rnd
  | 0 => .rne
  | 1 => .rtz
  | 2 => .rup
  | _ => .rdn

/-- Word kinds, PRED, NEG, LA and the layout of a single or extended word (R330, R345). -/
def encHead (kind op : Nat) (p : Pred) (la : Nat) (low : Nat) : Word64 :=
  BitVec.ofNat 64
    (pack [(45, low), (4, la), (1, boolBit p.neg), (4, p.sel.toNat), (8, op), (2, kind)])

/-- MOD (R332), its fields from bit 0 up. -/
def modFields (opx : Nat) (u sc sb sa sat : Bool) (rnd : Rnd) (ty : Nat) : List (Nat × Nat) :=
  [(3, opx), (1, boolBit u), (1, boolBit sc), (1, boolBit sb), (1, boolBit sa), (1, boolBit sat),
   (2, rndCode rnd), (3, ty)]

/-- Layout REG (R331). -/
def encReg (op : Nat) (f : RegF) : Word64 :=
  encHead 0 op f.pred f.la.toNat
    (pack (modFields f.opx.toNat f.u f.sc f.sb f.sa f.sat f.rnd f.ty.toNat ++
      [(8, f.c.toNat), (8, f.b.toNat), (8, f.a.toNat), (8, f.d.toNat)]))

/-- Layout IMM (R331). -/
def encImm (op : Nat) (f : ImmF) : Word64 :=
  encHead 0 op f.pred f.la.toNat (pack [(29, f.imm.toNat), (8, f.a.toNat), (8, f.d.toNat)])

/-- Layout CMP (R331). -/
def encCmp (op : Nat) (f : CmpF) : Word64 :=
  encHead 0 op f.pred 0
    (pack (modFields f.opx.toNat f.u f.sc f.sb f.sa f.sat f.rnd f.ty.toNat ++
      [(8, f.c.toNat), (8, f.b.toNat), (8, f.a.toNat), (4, f.pd.toNat), (4, f.cc.toNat)]))

/-- Layout CMPI (R331). -/
def encCmpi (op : Nat) (f : CmpiF) : Word64 :=
  encHead 0 op f.pred 0 (pack [(29, f.imm.toNat), (8, f.a.toNat), (4, f.pd.toNat), (4, f.cc.toNat)])

/-- Layout CHN (R331, R403): OPX [0] is the one bit of OPX a chain instruction may use. -/
def encChn (op : Nat) (f : ChnF) : Word64 :=
  encHead 0 op f.pred f.la.toNat
    (pack (modFields (boolBit f.opx) false false f.sb f.sa false .rne 0 ++
      [(4, 0), (4, f.pc.toNat), (8, f.b.toNat), (8, f.a.toNat), (8, f.d.toNat)]))

/-- Layout CAPN (R331, R366). -/
def encCapn (op : Nat) (f : CapnF) : Word64 :=
  encHead 0 op f.pred 0
    (pack [(13, 0), (8, f.c.toNat), (8, f.b.toNat), (8, f.a.toNat), (4, f.cd.toNat), (4, f.cs.toNat)])

/-- Layout JMP (R331). -/
def encJmp (op : Nat) (f : JmpF) : Word64 :=
  encHead 0 op f.pred 0 (pack [(29, f.off.toNat), (16, 0)])

/-- Layout NIL (R331). -/
def encNil (op opx : Nat) (f : NilF) : Word64 := encHead 0 op f.pred 0 (pack [(3, opx), (42, 0)])

/-- Layout MEM with MMOD (R331, R333). -/
def encMem (op : Nat) (f : MemF) : Word64 :=
  encHead 0 op f.pred f.la.toNat
    (pack [(2, f.opx.toNat), (3, f.scope.toNat), (1, boolBit f.wide), (1, boolBit f.sa), (3, f.ord.toNat),
      (3, f.size.toNat), (12, f.imm.toNat), (4, f.cap.toNat), (8, f.a.toNat), (8, f.d.toNat)])

/-- Layout ATM (R331, R350). -/
def encAtm (op : Nat) (f : AtmF) : Word64 :=
  encHead 0 op f.pred f.la.toNat
    (pack [(2, 0), (3, f.scope.toNat), (1, boolBit f.wide), (1, boolBit f.sa), (3, f.ord.toNat),
      (3, f.size.toNat), (4, f.aop.toNat), (8, f.b.toNat), (4, f.cap.toNat), (8, f.a.toNat), (8, f.d.toNat)])

/-- Extended first words (R346). -/
def encLdk (f : LdkF) : Word64 :=
  encHead 2 1 f.pred f.la.toNat
    (pack [(5, 0), (1, boolBit f.wide), (1, boolBit f.sa), (3, 0), (3, f.size.toNat), (16, 0), (8, f.a.toNat),
      (8, f.d.toNat)])

def encCqwx (f : CqwxF) : Word64 := encHead 2 2 f.pred 0 (pack [(37, 0), (8, f.slot.toNat)])

def encTdesc (f : TdescF) : Word64 :=
  encHead 2 3 f.pred 0 (pack [(29, 0), (8, f.a.toNat), (8, f.t.toNat)])

def encMovix (f : MovixF) : Word64 :=
  encHead 2 4 f.pred 0
    (pack [(3, 0), (1, boolBit f.u), (6, 0), (3, f.ty.toNat), (24, 0), (8, f.d.toNat)])

/-- The fields of one half of a pair word (R341). -/
def halfFields (h : HalfF) : List (Nat × Nat) :=
  [(6, h.hmod.toNat), (8, h.s.toNat), (8, h.d.toNat), (3, h.hpred.toNat), (6, h.hop.toNat)]

/-- A pair word (R341). -/
def encPair (h0 h1 : HalfF) : Word64 :=
  BitVec.ofNat 64 (pack (halfFields h1 ++ halfFields h0 ++ [(2, 1)]))

/-- The words of an instruction (R326, R338, R341, R346); an event has none. -/
def encode (i : Instr) : List Word64 :=
  match i with
  | .pairWord h0 h1 => [encPair h0 h1]
  | .iadd f => [encReg 0x01 f]
  | .isub f => [encReg 0x02 f]
  | .iaddc f => [encReg 0x03 f]
  | .imul f => [encReg 0x04 f]
  | .imulhi f => [encReg 0x05 f]
  | .imad f => [encReg 0x06 f]
  | .iabs f => [encReg 0x07 f]
  | .imin f => [encReg 0x08 f]
  | .imax f => [encReg 0x09 f]
  | .icmp f => [encCmp 0x0A f]
  | .idot4 f => [encReg 0x0B f]
  | .qdot4 f => [encReg 0x0C f]
  | .and f => [encReg 0x0D f]
  | .or f => [encReg 0x0E f]
  | .xor f => [encReg 0x0F f]
  | .not f => [encReg 0x10 f]
  | .shl f => [encReg 0x11 f]
  | .shr f => [encReg 0x12 f]
  | .sar f => [encReg 0x13 f]
  | .rotl f => [encReg 0x14 f]
  | .bfx f => [encReg 0x15 f]
  | .bfi f => [encReg 0x16 f]
  | .brev f => [encReg 0x17 f]
  | .clz f => [encReg 0x18 f]
  | .popc f => [encReg 0x19 f]
  | .sel f => [encReg 0x1A f]
  | .mov f => [encReg 0x1B f]
  | .iaddImm f => [encImm 0x20 f]
  | .imulImm f => [encImm 0x21 f]
  | .iminImm f => [encImm 0x22 f]
  | .imaxImm f => [encImm 0x23 f]
  | .icmpImm f => [encCmpi 0x24 f]
  | .andImm f => [encImm 0x25 f]
  | .orImm f => [encImm 0x26 f]
  | .xorImm f => [encImm 0x27 f]
  | .shlImm f => [encImm 0x28 f]
  | .shrImm f => [encImm 0x29 f]
  | .sarImm f => [encImm 0x2A f]
  | .rotlImm f => [encImm 0x2B f]
  | .movi f => [encImm 0x2C f]
  | .iaddImmUniform f => [encImm 0x30 f]
  | .imulImmUniform f => [encImm 0x31 f]
  | .iminImmUniform f => [encImm 0x32 f]
  | .imaxImmUniform f => [encImm 0x33 f]
  | .icmpImmUniform f => [encCmpi 0x34 f]
  | .andImmUniform f => [encImm 0x35 f]
  | .orImmUniform f => [encImm 0x36 f]
  | .xorImmUniform f => [encImm 0x37 f]
  | .shlImmUniform f => [encImm 0x38 f]
  | .shrImmUniform f => [encImm 0x39 f]
  | .sarImmUniform f => [encImm 0x3A f]
  | .rotlImmUniform f => [encImm 0x3B f]
  | .moviUniform f => [encImm 0x3C f]
  | .fadd f => [encReg 0x40 f]
  | .fsub f => [encReg 0x41 f]
  | .fmul f => [encReg 0x42 f]
  | .ffma f => [encReg 0x43 f]
  | .fmin f => [encReg 0x44 f]
  | .fmax f => [encReg 0x45 f]
  | .fcmp f => [encCmp 0x46 f]
  | .fdiv f => [encReg 0x47 f]
  | .fsqrt f => [encReg 0x48 f]
  | .frcp f => [encReg 0x49 f]
  | .frsq f => [encReg 0x4A f]
  | .fexp2 f => [encReg 0x4B f]
  | .flog2 f => [encReg 0x4C f]
  | .vfma2 f => [encReg 0x4D f]
  | .dadd f => [encReg 0x4E f]
  | .dmul f => [encReg 0x4F f]
  | .dfma f => [encReg 0x50 f]
  | .cvt f => [encReg 0x51 f]
  | .sladd f => [encReg 0x58 f]
  | .slmul f => [encReg 0x59 f]
  | .slrcp f => [encReg 0x5A f]
  | .slcmp f => [encCmp 0x5B f]
  | .slcvt f => [encReg 0x5C f]
  | .ld f => [encMem 0x70 f]
  | .st f => [encMem 0x71 f]
  | .lds f => [encMem 0x72 f]
  | .sts f => [encMem 0x73 f]
  | .ldu f => [encMem 0x74 f]
  | .atom f => [encAtm 0x75 f]
  | .atoms f => [encAtm 0x76 f]
  | .pref f => [encMem 0x77 f]
  | .lea f => [encMem 0x78 f]
  | .leaS f => [encMem 0x78 f]
  | .cld f => [encMem 0x79 f]
  | .cldMemory f => [encMem 0x79 f]
  | .cnarrow f => [encCapn 0x7A f]
  | .fence f => [encMem 0x7B f]
  | .facqF f => [encReg 0x7C f]
  | .facqE f => [encReg 0x7C f]
  | .frelF f => [encReg 0x7D f]
  | .frelE f => [encReg 0x7D f]
  | .bankmode f => [encReg 0x7E f]
  | .bankmodeQ f => [encReg 0x7E f]
  | .pgpin f => [encReg 0x7F f]
  | .pgunpin f => [encReg 0x80 f]
  | .shfl f => [encReg 0x90 f]
  | .vote f => [encReg 0x91 f]
  | .redux f => [encReg 0x92 f]
  | .lbind f => [encImm 0x93 f]
  | .lunbind f => [encNil 0x94 0 f]
  | .ladd f => [encChn 0x95 f]
  | .lsub f => [encChn 0x96 f]
  | .lshl f => [encChn 0x97 f]
  | .lshr f => [encChn 0x98 f]
  | .lcmp f => [encChn 0x99 f]
  | .lmac f => [encChn 0x9A f]
  | .nop f => [encNil 0xA0 0 f]
  | .bra f => [encJmp 0xA1 f]
  | .brx f => [encReg 0xA2 f]
  | .call f => [encJmp 0xA3 f]
  | .ret f => [encNil 0xA4 0 f]
  | .exit f => [encImm 0xA5 f]
  | .reconv f => [encNil 0xA6 0 f]
  | .yield f => [encNil 0xA7 0 f]
  | .yieldPoint f => [encNil 0xA7 1 f]
  | .bar f => [encImm 0xA8 f]
  | .bara f => [encImm 0xA9 f]
  | .barw f => [encImm 0xAA f]
  | .rbar f => [encNil 0xAB 0 f]
  | .fork f => [encImm 0xAC f]
  | .rdv f => [encImm 0xAD f]
  | .fretRetry f => [encNil 0xAE 0 f]
  | .fretSkip f => [encNil 0xAE 1 f]
  | .fkill f => [encNil 0xAF 0 f]
  | .xrv f => [encReg 0xB0 f]
  | .xwv f => [encReg 0xB1 f]
  | .cqw f => [encReg 0xC0 f]
  | .cqgo f => [encImm 0xC1 f]
  | .cwait f => [encReg 0xC2 f]
  | .gset f => [encImm 0xC3 f]
  | .qfence f => [encImm 0xC4 f]
  | .mzero f => [encReg 0xC5 f]
  | .mlda f => [encReg 0xC6 f]
  | .mma f => [encReg 0xC7 f]
  | .mstore f => [encReg 0xC8 f]
  | .mcommit f => [encReg 0xC9 f]
  | .mwait f => [encImm 0xCA f]
  | .tinv f => [encReg 0xCB f]
  | .srd f => [encReg 0xD0 f]
  | .swr f => [encReg 0xD1 f]
  | .trap f => [encNil 0xD2 0 f]
  | .bkpt f => [encNil 0xD3 0 f]
  | .boost f => [encReg 0xD4 f]
  | .boostSpare f => [encReg 0xD4 f]
  | .therm f => [encReg 0xD5 f]
  | .wrd f => [encReg 0xD6 f]
  | .ldk f => [encLdk f, f.off]
  | .cqwExt f => [encCqwx f, f.val]
  | .tdesc f => [encTdesc f, f.hi]
  | .moviExt f => [encMovix f, f.val]
  | .deviceReset => []
  | .vxStart _ _ => []
  | .vxDoorbell _ _ => []
  | .clearQuar _ _ => []
  | .queueReset _ _ => []
  | .queueResetReport _ => []
  | .ctxCreate _ => []
  | .ctxEnd _ => []
  | .qCreate _ => []
  | .qDestroy _ => []
  | .frameAssign _ => []
  | .frameRelease _ => []
  | .frameScrub _ => []
  | .capSet _ => []
  | .tlbInval _ => []
  | .cgrpSet _ => []
  | .hostCommandDone _ => []
  | .fctlRetry _ _ => []
  | .fctlSkip _ _ => []
  | .fctlKill _ _ => []
  | .hostTeardown _ _ => []
  | .vxDbgctl _ _ => []
  | .vxLife _ _ => []
  | .vxSched _ _ => []
  | .vxDomain _ _ => []
  | .vxFlog _ _ => []
  | .registerWrite _ _ _ => []
  | .bar2Access _ _ _ _ _ => []
  | .lockInterface _ => []
  | .startInterface _ => []
  | .stopInterface _ => []
  | .linkSecurityError _ => []
  | .getCertificate _ => []
  | .challenge _ _ => []
  | .keyExchange _ _ => []
  | .getMeasurements _ _ _ => []
  | .batchValidation _ => []
  | .meetDispatch _ => []
  | .launch _ => []
  | .wait _ => []
  | .signal _ _ => []
  | .copy _ _ => []
  | .copyDone _ _ => []
  | .relayPlacement _ _ => []
  | .relayRetirement _ => []
  | .concurrencyLost _ => []
  | .sliceExpiry _ _ => []
  | .preemption _ _ => []
  | .yieldDeadline _ _ => []
  | .migration _ _ => []
  | .rotationSlotEnd _ => []
  | .rotationScanDone _ _ => []
  | .tileArrayScan _ _ => []
  | .wearIntegration _ _ _ _ _ => []
  | .boostLevelReached _ => []
  | .boostGrantEnd _ => []
  | .sensorSample _ _ => []
  | .translationWalkDone _ => []
  | .fragmentReplay _ _ => []
  | .scratchRefill _ _ => []
  | .storageError _ => []
  | .longLatencyCompletion _ _ => []
  | .handlerEntry _ => []
  | .copyEngineTransfer _ _ => []
  | .commandCompletion _ _ => []
  | .collectiveRun _ _ => []
  | .matrixEntryBegin _ => []
  | .matrixEntryComplete _ _ => []
  | .powerLoss _ _ _ => []
  | .supplyDroop _ _ => []
  | .mappingDeclined _ => []
  | .bankmodeTransitionDone _ _ => []
  | .zeroingComplete _ => []
  | .accessPerformed _ => []
  | .dataVerified _ => []
  | .peerUnreachable _ => []
  | .cacheSectorEviction _ => []
  | .peerDeviceAccess _ => []

/-! ### Decoding -/

/-- The fields of a single or extended word outside its layout (R330, R345). -/
structure Head where
  low : Nat
  la : Nat
  pred : Pred
  op : Nat
  kind : Nat
deriving DecidableEq, Repr

/-- Split a word into its head and the 45 bits of its layout. -/
def head (w : Word64) : Head :=
  match unpack [45, 4, 1, 4, 8, 2] w.toNat with
  | [low, la, neg, sel, op, kind] => ⟨low, la, ⟨BitVec.ofNat 4 sel, neg = 1⟩, op, kind⟩
  | _ => ⟨0, 0, ⟨0#4, false⟩, 0, 0⟩

/-- Layout REG. -/
def decReg (h : Head) : RegF :=
  match unpack [3, 1, 1, 1, 1, 1, 2, 3, 8, 8, 8, 8] h.low with
  | [opx, u, sc, sb, sa, sat, rnd, ty, c, b, a, d] =>
    { pred := h.pred, la := BitVec.ofNat 4 h.la, d := BitVec.ofNat 8 d, a := BitVec.ofNat 8 a,
      b := BitVec.ofNat 8 b, c := BitVec.ofNat 8 c, ty := BitVec.ofNat 3 ty, rnd := rndOf rnd,
      sat := sat = 1, sa := sa = 1, sb := sb = 1, sc := sc = 1, u := u = 1, opx := BitVec.ofNat 3 opx }
  | _ => ⟨h.pred, 0, 0, 0, 0, 0, 0, .rne, false, false, false, false, false, 0⟩

/-- Layout IMM. -/
def decImm (h : Head) : ImmF :=
  match unpack [29, 8, 8] h.low with
  | [imm, a, d] => ⟨h.pred, BitVec.ofNat 4 h.la, BitVec.ofNat 8 d, BitVec.ofNat 8 a, BitVec.ofNat 29 imm⟩
  | _ => ⟨h.pred, 0, 0, 0, 0⟩

/-- Layout CMP. -/
def decCmp (h : Head) : CmpF :=
  match unpack [3, 1, 1, 1, 1, 1, 2, 3, 8, 8, 8, 4, 4] h.low with
  | [opx, u, sc, sb, sa, sat, rnd, ty, c, b, a, pd, cc] =>
    { pred := h.pred, cc := BitVec.ofNat 4 cc, pd := BitVec.ofNat 4 pd, a := BitVec.ofNat 8 a,
      b := BitVec.ofNat 8 b, c := BitVec.ofNat 8 c, ty := BitVec.ofNat 3 ty, rnd := rndOf rnd,
      sat := sat = 1, sa := sa = 1, sb := sb = 1, sc := sc = 1, u := u = 1, opx := BitVec.ofNat 3 opx }
  | _ => ⟨h.pred, 0, 0, 0, 0, 0, 0, .rne, false, false, false, false, false, 0⟩

/-- Layout CMPI. -/
def decCmpi (h : Head) : CmpiF :=
  match unpack [29, 8, 4, 4] h.low with
  | [imm, a, pd, cc] =>
    ⟨h.pred, BitVec.ofNat 4 cc, BitVec.ofNat 4 pd, BitVec.ofNat 8 a, BitVec.ofNat 29 imm⟩
  | _ => ⟨h.pred, 0, 0, 0, 0⟩

/-- Layout CHN. -/
def decChn (h : Head) : ChnF :=
  match unpack [3, 1, 1, 1, 1, 1, 2, 3, 4, 4, 8, 8, 8] h.low with
  | [opx, _, _, sb, sa, _, _, _, _, pc, b, a, d] =>
    ⟨h.pred, BitVec.ofNat 4 h.la, BitVec.ofNat 8 d, BitVec.ofNat 8 a, BitVec.ofNat 8 b, BitVec.ofNat 4 pc,
      sa = 1, sb = 1, opx = 1⟩
  | _ => ⟨h.pred, 0, 0, 0, 0, 0, false, false, false⟩

/-- Layout CAPN. -/
def decCapn (h : Head) : CapnF :=
  match unpack [13, 8, 8, 8, 4, 4] h.low with
  | [_, c, b, a, cd, cs] =>
    ⟨h.pred, BitVec.ofNat 4 cs, BitVec.ofNat 4 cd, BitVec.ofNat 8 a, BitVec.ofNat 8 b, BitVec.ofNat 8 c⟩
  | _ => ⟨h.pred, 0, 0, 0, 0, 0⟩

/-- Layout JMP. -/
def decJmp (h : Head) : JmpF := ⟨h.pred, BitVec.ofNat 29 (h.low % 2 ^ 29)⟩

/-- Layout NIL. -/
def decNil (h : Head) : NilF := ⟨h.pred⟩

/-- Layout MEM. -/
def decMem (h : Head) : MemF :=
  match unpack [2, 3, 1, 1, 3, 3, 12, 4, 8, 8] h.low with
  | [opx, scope, wide, sa, ord, size, imm, cap, a, d] =>
    { pred := h.pred, la := BitVec.ofNat 4 h.la, d := BitVec.ofNat 8 d, a := BitVec.ofNat 8 a,
      cap := BitVec.ofNat 4 cap, imm := BitVec.ofNat 12 imm, size := BitVec.ofNat 3 size,
      ord := BitVec.ofNat 3 ord, sa := sa = 1, wide := wide = 1, scope := BitVec.ofNat 3 scope,
      opx := BitVec.ofNat 2 opx }
  | _ => ⟨h.pred, 0, 0, 0, 0, 0, 0, 0, false, false, 0, 0⟩

/-- Layout ATM. -/
def decAtm (h : Head) : AtmF :=
  match unpack [2, 3, 1, 1, 3, 3, 4, 8, 4, 8, 8] h.low with
  | [_, scope, wide, sa, ord, size, aop, b, cap, a, d] =>
    { pred := h.pred, la := BitVec.ofNat 4 h.la, d := BitVec.ofNat 8 d, a := BitVec.ofNat 8 a,
      cap := BitVec.ofNat 4 cap, b := BitVec.ofNat 8 b, aop := BitVec.ofNat 4 aop, size := BitVec.ofNat 3 size,
      ord := BitVec.ofNat 3 ord, sa := sa = 1, wide := wide = 1, scope := BitVec.ofNat 3 scope }
  | _ => ⟨h.pred, 0, 0, 0, 0, 0, 0, 0, 0, false, false, 0⟩

/-- Extended words (R346). -/
def decLdk (h : Head) (w1 : Word64) : LdkF :=
  match unpack [5, 1, 1, 3, 3, 16, 8, 8] h.low with
  | [_, wide, sa, _, size, _, a, d] =>
    ⟨h.pred, BitVec.ofNat 4 h.la, BitVec.ofNat 8 d, BitVec.ofNat 8 a, BitVec.ofNat 3 size, sa = 1, wide = 1, w1⟩
  | _ => ⟨h.pred, 0, 0, 0, 0, false, false, w1⟩

def decCqwx (h : Head) (w1 : Word64) : CqwxF := ⟨h.pred, BitVec.ofNat 8 (h.low / 2 ^ 37), w1⟩

def decTdesc (h : Head) (w1 : Word64) : TdescF :=
  match unpack [29, 8, 8] h.low with
  | [_, a, t] => ⟨h.pred, BitVec.ofNat 8 t, BitVec.ofNat 8 a, w1⟩
  | _ => ⟨h.pred, 0, 0, w1⟩

def decMovix (h : Head) (w1 : Word64) : MovixF :=
  match unpack [3, 1, 6, 3, 24, 8] h.low with
  | [_, u, _, ty, _, d] => ⟨h.pred, BitVec.ofNat 8 d, BitVec.ofNat 3 ty, u = 1, w1⟩
  | _ => ⟨h.pred, 0, 0, false, w1⟩

/-- The halves of a pair word (R341). -/
def decHalves (w : Word64) : HalfF × HalfF :=
  match unpack [6, 8, 8, 3, 6, 6, 8, 8, 3, 6, 2] w.toNat with
  | [m1, s1, d1, p1, o1, m0, s0, d0, p0, o0, _] =>
    (⟨BitVec.ofNat 6 o0, BitVec.ofNat 3 p0, BitVec.ofNat 8 d0, BitVec.ofNat 8 s0, BitVec.ofNat 6 m0⟩,
     ⟨BitVec.ofNat 6 o1, BitVec.ofNat 3 p1, BitVec.ofNat 8 d1, BitVec.ofNat 8 s1, BitVec.ofNat 6 m1⟩)
  | _ => (⟨0, 0, 0, 0, 0⟩, ⟨0, 0, 0, 0, 0⟩)

/-- The opcode map of single words (R338); `none` is an unassigned code (R339). Forms that share an
opcode are told apart by OPX. -/
def singleOf (h : Head) : Option Instr :=
  match h.op with
  | 0x01 => some (.iadd (decReg h))
  | 0x02 => some (.isub (decReg h))
  | 0x03 => some (.iaddc (decReg h))
  | 0x04 => some (.imul (decReg h))
  | 0x05 => some (.imulhi (decReg h))
  | 0x06 => some (.imad (decReg h))
  | 0x07 => some (.iabs (decReg h))
  | 0x08 => some (.imin (decReg h))
  | 0x09 => some (.imax (decReg h))
  | 0x0A => some (.icmp (decCmp h))
  | 0x0B => some (.idot4 (decReg h))
  | 0x0C => some (.qdot4 (decReg h))
  | 0x0D => some (.and (decReg h))
  | 0x0E => some (.or (decReg h))
  | 0x0F => some (.xor (decReg h))
  | 0x10 => some (.not (decReg h))
  | 0x11 => some (.shl (decReg h))
  | 0x12 => some (.shr (decReg h))
  | 0x13 => some (.sar (decReg h))
  | 0x14 => some (.rotl (decReg h))
  | 0x15 => some (.bfx (decReg h))
  | 0x16 => some (.bfi (decReg h))
  | 0x17 => some (.brev (decReg h))
  | 0x18 => some (.clz (decReg h))
  | 0x19 => some (.popc (decReg h))
  | 0x1A => some (.sel (decReg h))
  | 0x1B => some (.mov (decReg h))
  | 0x20 => some (.iaddImm (decImm h))
  | 0x21 => some (.imulImm (decImm h))
  | 0x22 => some (.iminImm (decImm h))
  | 0x23 => some (.imaxImm (decImm h))
  | 0x24 => some (.icmpImm (decCmpi h))
  | 0x25 => some (.andImm (decImm h))
  | 0x26 => some (.orImm (decImm h))
  | 0x27 => some (.xorImm (decImm h))
  | 0x28 => some (.shlImm (decImm h))
  | 0x29 => some (.shrImm (decImm h))
  | 0x2A => some (.sarImm (decImm h))
  | 0x2B => some (.rotlImm (decImm h))
  | 0x2C => some (.movi (decImm h))
  | 0x30 => some (.iaddImmUniform (decImm h))
  | 0x31 => some (.imulImmUniform (decImm h))
  | 0x32 => some (.iminImmUniform (decImm h))
  | 0x33 => some (.imaxImmUniform (decImm h))
  | 0x34 => some (.icmpImmUniform (decCmpi h))
  | 0x35 => some (.andImmUniform (decImm h))
  | 0x36 => some (.orImmUniform (decImm h))
  | 0x37 => some (.xorImmUniform (decImm h))
  | 0x38 => some (.shlImmUniform (decImm h))
  | 0x39 => some (.shrImmUniform (decImm h))
  | 0x3A => some (.sarImmUniform (decImm h))
  | 0x3B => some (.rotlImmUniform (decImm h))
  | 0x3C => some (.moviUniform (decImm h))
  | 0x40 => some (.fadd (decReg h))
  | 0x41 => some (.fsub (decReg h))
  | 0x42 => some (.fmul (decReg h))
  | 0x43 => some (.ffma (decReg h))
  | 0x44 => some (.fmin (decReg h))
  | 0x45 => some (.fmax (decReg h))
  | 0x46 => some (.fcmp (decCmp h))
  | 0x47 => some (.fdiv (decReg h))
  | 0x48 => some (.fsqrt (decReg h))
  | 0x49 => some (.frcp (decReg h))
  | 0x4A => some (.frsq (decReg h))
  | 0x4B => some (.fexp2 (decReg h))
  | 0x4C => some (.flog2 (decReg h))
  | 0x4D => some (.vfma2 (decReg h))
  | 0x4E => some (.dadd (decReg h))
  | 0x4F => some (.dmul (decReg h))
  | 0x50 => some (.dfma (decReg h))
  | 0x51 => some (.cvt (decReg h))
  | 0x58 => some (.sladd (decReg h))
  | 0x59 => some (.slmul (decReg h))
  | 0x5A => some (.slrcp (decReg h))
  | 0x5B => some (.slcmp (decCmp h))
  | 0x5C => some (.slcvt (decReg h))
  | 0x70 => some (.ld (decMem h))
  | 0x71 => some (.st (decMem h))
  | 0x72 => some (.lds (decMem h))
  | 0x73 => some (.sts (decMem h))
  | 0x74 => some (.ldu (decMem h))
  | 0x75 => some (.atom (decAtm h))
  | 0x76 => some (.atoms (decAtm h))
  | 0x77 => some (.pref (decMem h))
  | 0x78 => some (if h.low % 4 = 1 then .leaS (decMem h) else .lea (decMem h))
  | 0x79 => some (if h.low % 4 = 1 then .cldMemory (decMem h) else .cld (decMem h))
  | 0x7A => some (.cnarrow (decCapn h))
  | 0x7B => some (.fence (decMem h))
  | 0x7C => some (if h.low % 8 = 1 then .facqE (decReg h) else .facqF (decReg h))
  | 0x7D => some (if h.low % 8 = 1 then .frelE (decReg h) else .frelF (decReg h))
  | 0x7E => some (if h.low % 8 = 1 then .bankmodeQ (decReg h) else .bankmode (decReg h))
  | 0x7F => some (.pgpin (decReg h))
  | 0x80 => some (.pgunpin (decReg h))
  | 0x90 => some (.shfl (decReg h))
  | 0x91 => some (.vote (decReg h))
  | 0x92 => some (.redux (decReg h))
  | 0x93 => some (.lbind (decImm h))
  | 0x94 => some (.lunbind (decNil h))
  | 0x95 => some (.ladd (decChn h))
  | 0x96 => some (.lsub (decChn h))
  | 0x97 => some (.lshl (decChn h))
  | 0x98 => some (.lshr (decChn h))
  | 0x99 => some (.lcmp (decChn h))
  | 0x9A => some (.lmac (decChn h))
  | 0xA0 => some (.nop (decNil h))
  | 0xA1 => some (.bra (decJmp h))
  | 0xA2 => some (.brx (decReg h))
  | 0xA3 => some (.call (decJmp h))
  | 0xA4 => some (.ret (decNil h))
  | 0xA5 => some (.exit (decImm h))
  | 0xA6 => some (.reconv (decNil h))
  | 0xA7 => some (if h.low % 8 = 1 then .yieldPoint (decNil h) else .yield (decNil h))
  | 0xA8 => some (.bar (decImm h))
  | 0xA9 => some (.bara (decImm h))
  | 0xAA => some (.barw (decImm h))
  | 0xAB => some (.rbar (decNil h))
  | 0xAC => some (.fork (decImm h))
  | 0xAD => some (.rdv (decImm h))
  | 0xAE => some (if h.low % 8 = 1 then .fretSkip (decNil h) else .fretRetry (decNil h))
  | 0xAF => some (.fkill (decNil h))
  | 0xB0 => some (.xrv (decReg h))
  | 0xB1 => some (.xwv (decReg h))
  | 0xC0 => some (.cqw (decReg h))
  | 0xC1 => some (.cqgo (decImm h))
  | 0xC2 => some (.cwait (decReg h))
  | 0xC3 => some (.gset (decImm h))
  | 0xC4 => some (.qfence (decImm h))
  | 0xC5 => some (.mzero (decReg h))
  | 0xC6 => some (.mlda (decReg h))
  | 0xC7 => some (.mma (decReg h))
  | 0xC8 => some (.mstore (decReg h))
  | 0xC9 => some (.mcommit (decReg h))
  | 0xCA => some (.mwait (decImm h))
  | 0xCB => some (.tinv (decReg h))
  | 0xD0 => some (.srd (decReg h))
  | 0xD1 => some (.swr (decReg h))
  | 0xD2 => some (.trap (decNil h))
  | 0xD3 => some (.bkpt (decNil h))
  | 0xD4 => some (if h.low % 8 = 1 then .boostSpare (decReg h) else .boost (decReg h))
  | 0xD5 => some (.therm (decReg h))
  | 0xD6 => some (.wrd (decReg h))
  | _ => none

/-- The extended opcodes (R346). -/
def extOf (h : Head) (w1 : Word64) : Option Instr :=
  match h.op with
  | 0x01 => some (.ldk (decLdk h w1))
  | 0x02 => some (.cqwExt (decCqwx h w1))
  | 0x03 => some (.tdesc (decTdesc h w1))
  | 0x04 => some (.moviExt (decMovix h w1))
  | _ => none

/-- What decoding gives: an instruction, or the decode cause with the lanes it reaches (R329).
`everyLane` says that the whole issuing set faults; otherwise the lanes in which one of `preds` is
true do, and the others advance by `size` words. -/
inductive Decoded where
  | instr (i : Instr) (size : Nat)
  | bad (cause : Nat) (everyLane : Bool) (preds : List Pred) (size : Nat)
deriving DecidableEq, Repr

/-- HPRED of a half: 0 to 6 select P0 to P6, 7 is PT (R341). -/
def halfPred (h : HalfF) : Pred := ⟨if h.hpred = 7#3 then 12#4 else h.hpred.zeroExtend 4, false⟩

/-- The words with a predicate of PT in place of PRED. -/
def repred (w : Word64) : Word64 :=
  BitVec.ofNat 64 (w.toNat - 2 ^ 50 * bits w.toNat 53 50 + 2 ^ 50 * 12)

/-- Accept a candidate whose words and fields are right, or give the first decode cause (R329, R334, R336). -/
def settle (ws : List Word64) (h : Head) (i : Instr) (relaxed : Option Instr) : Decoded :=
  if encode i = ws ∧ WellFormed i then .instr i ws.length
  else if h.pred.sel.toNat ≤ 12 then .bad 0x04 false [h.pred] ws.length
  else
    match relaxed with
    | some j =>
      if encode j = repred (ws.headD 0#64) :: ws.tail ∧ WellFormed j then .bad 0x05 true [] ws.length
      else .bad 0x04 true [] ws.length
    | none => .bad 0x04 true [] ws.length

/-- The instruction whose opcode a first word carries, whatever its fields hold; none for a pair word. -/
def opcodeOf (w0 : Word64) (w1 : Option Word64) : Option Instr :=
  let h := head w0
  match h.kind with
  | 0 => singleOf h
  | 2 => extOf h (w1.getD 0#64)
  | _ => none

/-- Decode one instruction from its words: the first word, and the one after it where there is one.
`none` for a second word means it lies at CODEW (R327: 0x0B FETCH_BOUNDS). -/
def decodeWords (w0 : Word64) (w1 : Option Word64) : Decoded :=
  let h := head w0
  match h.kind with
  | 0 =>
    match singleOf h with
    | some i => settle [w0] h i (singleOf (head (repred w0)))
    | none => .bad 0x02 (h.op = 0 || 12 < h.pred.sel.toNat) [h.pred] 1
  | 1 =>
    let (h0, h1) := decHalves w0
    let preds := [halfPred h0, halfPred h1]
    if !pairHopsOk h0 h1 then .bad 0x02 false preds 1
    else if !pairRulesOk h0 h1 then .bad 0x03 false preds 1
    else if !(halfFieldsOk h0 && halfFieldsOk h1) then .bad 0x04 false preds 1
    else .instr (.pairWord h0 h1) 1
  | 2 =>
    match extOf h (w1.getD 0#64) with
    | some i =>
      match w1 with
      | some x => settle [w0, x] h i (extOf (head (repred w0)) x)
      | none =>
        match settle [w0, 0#64] h i (extOf (head (repred w0)) 0#64) with
        | .instr _ _ => .bad 0x0B false [h.pred] 2
        | b => b
    | none => .bad 0x02 (12 < h.pred.sel.toNat) [h.pred] 2
  | _ => .bad 0x01 true [] 1

/-- The instruction read from an instruction whose bits are `w`, words counted from the least
significant bits up; the words above `nbits` are zero. -/
def decodeTableWord (nbits w : Nat) : Option Instr :=
  let n := w % 2 ^ nbits
  match decodeWords (BitVec.ofNat 64 n) (some (BitVec.ofNat 64 (n / 2 ^ 64))) with
  | .instr i _ => some i
  | .bad _ _ _ _ => none

end Sys2Proof
end

