-- ==== Sys2Proof/Machine/Cross.lean ====
section
/-! DEFINITION. Words that pass values between the lanes of a heat: SHFL, VOTE, REDUX (R437, R438, R443,
R444, R460, R461). -/

namespace Sys2Proof.Machine

def heatOnly : Runs := { pacer := false }

/-! ### SHFL -/

/-- The source lane of lane i (R443). -/
def shflSource (mode b i : Nat) : Nat :=
  match mode with
  | 0 => b
  | 1 => if b ≤ i then i - b else i
  | 2 => if i + b ≤ 31 then i + b else i
  | _ => i ^^^ b

/-- SHFL (R444): every lane reads before any lane writes. -/
def execShfl (f : RegF) (s : State) : Host.Outcome State Fault Refusal :=
  withUnit s fun F x =>
    let u := F.unit
    let cnt := Wd.count .byTy .int f.ty
    let dst := span f.d.toNat cnt
    let src := span f.a.toNat cnt
    let sel : Named := if f.sb then ⟨dst, [f.b.toNat], predNamed f.pred⟩ else ⟨dst ++ [f.b.toNat], [], predNamed f.pred⟩
    s.finish F x (regInfo f) ⟨dst, [], []⟩ (execLanes x F.lanes f.pred) (fun i =>
      let b := readOpd x i f.sb f.b.toNat 1
      let j := shflSource f.opx.toNat (b.val % 32) i
      let a := readOpd x j false f.a.toNat cnt
      { laneNone with
        causes := unitCauses u heatOnly ++ namedCauses s u x i sel ++
          (if beyondHeader (s.nv u) (s.ns u) ⟨src, [], []⟩ then [0x08] else []) ++
          (if pendingIn x j ⟨src, [], []⟩ then [0x09] else []),
        v := splitRegs f.d.toNat a.val (a.taint.join b.taint) cnt }) []

/-! ### VOTE -/

/-- The predicate VOTE reads in a lane: 12 is PT, and .NOT inverts it (R460). -/
def voteIn (f : RegF) (l : Lane) : Bool := (if f.a = 12#8 then true else (l.pred f.a.toNat).val) != f.opx.getLsbD 2

def voteTaint (f : RegF) (l : Lane) : Taint := if f.a = 12#8 then .clean else (l.pred f.a.toNat).taint

def voteMode (f : RegF) : Nat := f.opx.toNat % 4

/-- The ballot mask over E. -/
def ballot (f : RegF) (x : Strand) (e : LaneSet) : LaneSet := laneSet fun i => e.getLsbD i && voteIn f (x.lane i)

/-- ANY, ALL and UNI over E. -/
def voteBit (f : RegF) (x : Strand) (e : LaneSet) : Bool :=
  let l := lanesOf e
  match voteMode f with
  | 1 => l.any fun i => voteIn f (x.lane i)
  | 2 => l.all fun i => voteIn f (x.lane i)
  | _ =>
    match l with
    | [] => true
    | j :: js => js.all fun i => ((x.lane i).reg f.a.toNat).val = ((x.lane j).reg f.a.toNat).val

/-- VOTE (R461). -/
def execVote (f : RegF) (s : State) : Host.Outcome State Fault Refusal :=
  withUnit s fun F x =>
    let u := F.unit
    let e := execLanes x F.lanes f.pred
    let mode := voteMode f
    let t := (lanesOf e).foldl (fun (t : Taint) i => t.join
      (if mode = 3 then ((x.lane i).reg f.a.toNat).taint else voteTaint f (x.lane i))) .clean
    let pin := if mode = 3 || f.a = 12#8 then [] else [f.a.toNat]
    let vin := if mode = 3 then [f.a.toNat] else []
    let pn := predNamed f.pred
    let word := ballot f x e
    if mode = 0 && f.u then
      let causes := unitCauses u heatOnly ++ scalarCauses s u x e f.pred [f.d.toNat] ++
        (if (lanesOf e).any fun i => pendingIn x i ⟨[], [], pin⟩ then [0x09] else [])
      s.finishOnce F x (regInfo f) [f.d.toNat] e
        (if causes.isEmpty && e ≠ 0#32 then { sw := [(f.d.toNat, ⟨word, t⟩)] } else { causes := causes })
    else
      let nm : Named := if mode = 0 then ⟨[f.d.toNat], [], pin ++ pn⟩ else ⟨vin, [], f.d.toNat :: pin ++ pn⟩
      s.finish F x (regInfo f) (if mode = 0 then ⟨[f.d.toNat], [], []⟩ else ⟨[], [f.d.toNat], []⟩) e (fun i =>
        { laneNone with
          causes := unitCauses u heatOnly ++ namedCauses s u x i nm,
          v := if mode = 0 then [(f.d.toNat, ⟨word, t⟩)] else [],
          p := if mode = 0 then [] else [(f.d.toNat, ⟨voteBit f x e, t⟩)] }) []

/-! ### REDUX -/

/-- The reduction of the values of E (R438). -/
def reduce (f : RegF) (l : List Nat) : Nat :=
  let z := l.map (intVal f.ty)
  let fold (op : Int → Int → Int) : Nat :=
    match z with
    | [] => 0
    | a :: as => place f.ty (as.foldl op a)
  let bitwise (op : Nat → Nat → Nat) : Nat :=
    match l with
    | [] => 0
    | a :: as => as.foldl op a
  match f.opx.toNat with
  | 0 => (intRes f.ty f.sat (z.foldl (· + ·) 0)).d
  | 1 => fold min
  | 2 => fold max
  | 3 => bitwise (· &&& ·)
  | 4 => bitwise (· ||| ·)
  | _ => bitwise (· ^^^ ·)

/-- REDUX (R438). -/
def execRedux (f : RegF) (s : State) : Host.Outcome State Fault Refusal :=
  withUnit s fun F x =>
    let u := F.unit
    let e := execLanes x F.lanes f.pred
    let cnt := Wd.count .byTy .int f.ty
    let dst := span f.d.toNat cnt
    let src := span f.a.toNat cnt
    let nm : Named := if f.sa then ⟨dst, src, predNamed f.pred⟩ else ⟨dst ++ src, [], predNamed f.pred⟩
    let args := (lanesOf e).map fun i => readOpd x i f.sa f.a.toNat cnt
    let r := reduce f (args.map fun a => a.val)
    s.finish F x (regInfo f) ⟨dst, [], []⟩ e (fun i =>
      { laneNone with
        causes := unitCauses u heatOnly ++ namedCauses s u x i nm,
        v := splitRegs f.d.toNat r (argTaint args) cnt }) []

end Sys2Proof.Machine
end

