-- ==== Sys2Proof/Machine/Chain.lean ====
section
/-! DEFINITION. Lane binding and the chain instructions on integers of g limbs (R78 to R82, R403 to R407,
R414). -/

namespace Sys2Proof.Machine

/-! ### Limbs (R404) -/

/-- The lanes of the group that lane i belongs to, lowest first. -/
def groupLanes (x : Strand) (i : Nat) : List Nat := span (i / groupSize x * groupSize x) (groupSize x)

/-- The integer whose limbs stand in the lanes of a list, the lowest first. -/
def limbs (r : Nat → Nat) : List Nat → Nat
  | [] => 0
  | i :: is => r i + 2 ^ 32 * limbs r is

/-- What a group computes: the limbs of the result, the carry, the compare's equality, and LMAC's high word. -/
structure ChainRes where
  r : Nat
  k : Bool
  eq : Bool := false
  h : Nat := 0

/-- A chain operation on its inputs (R405): W, X, Y, Z0, the scalar, the carry in. -/
abbrev ChainFn := (w x y z m cin : Nat) → ChainRes

def laddFn : ChainFn := fun w x y _ _ c => ⟨(x + y + c) % 2 ^ w, (x + y + c) / 2 ^ w % 2 = 1, false, 0⟩

def lsubFn : ChainFn := fun w x y _ _ c =>
  ⟨wrap w ((x : Int) - y - c), decide ((x : Int) - y - c < 0), false, 0⟩

/-- A shift of W or more leaves 0, and loses every 1. -/
def lshlFn : ChainFn := fun w x _ _ s _ =>
  if w ≤ s then ⟨0, x ≠ 0, false, 0⟩ else ⟨x * 2 ^ s % 2 ^ w, x * 2 ^ s / 2 ^ w ≠ 0, false, 0⟩

def lshrFn (arith : Bool) : ChainFn := fun w x _ _ s _ =>
  let v : Int := if arith then signed w x else x
  if w ≤ s then ⟨if v < 0 then 2 ^ w - 1 else 0, x ≠ 0, false, 0⟩
  else ⟨wrap w (v / ((2 ^ s : Nat) : Int)), decide (v % ((2 ^ s : Nat) : Int) ≠ 0), false, 0⟩

def lcmpFn (sgn : Bool) : ChainFn := fun w x y _ _ _ =>
  let lt : Bool := if sgn then signed w x < signed w y else x < y
  ⟨0, lt, x = y, 0⟩

def lmacFn : ChainFn := fun w x _ z m c =>
  let v := z + x * m + c
  ⟨v % 2 ^ w, v / 2 ^ w ≠ 0, false, v / 2 ^ w⟩

/-- How a chain instruction uses its fields (R403). -/
structure ChainForm where
  /-- B is read in the lowest lane only -/
  scalarB : Bool := false
  cin : Bool := false
  readsD : Bool := false
  compare : Bool := false
  high : Bool := false

/-- Limb i of a result for the lane that stands at position k of its group. -/
def limbAt (r k : Nat) : Nat := r / 2 ^ (32 * k) % 2 ^ 32

/-- A chain instruction (R404, R405). DESIGN CHOICE, entry 86: V[d+1] of an LMAC is a destination in the lanes of the top
group, and pending no other lane: the lanes that keep it raise no 0x09 for it (R85). -/
def chainWord (form : ChainForm) (fn : ChainFn) (f : ChnF) (s : State) : Host.Outcome State Fault Refusal :=
  withUnit s fun F x =>
    let u := F.unit
    let e := execLanes x F.lanes f.pred
    let d := f.d.toNat
    let c := f.pc.toNat
    let gs := groupSize x
    let w := 32 * gs
    let vdst := if form.compare then [] else if form.high then [d, d + 1] else [d]
    let pdst := if form.compare then [d, c] else [c]
    let srcV := (if f.sa then [] else [f.a.toNat]) ++ (if f.sb then [] else [f.b.toNat])
    let srcS := (if f.sa then [f.a.toNat] else []) ++ (if f.sb then [f.b.toNat] else [])
    let nm : Named := ⟨vdst ++ srcV, srcS, pdst ++ predNamed f.pred⟩
    -- B of the other lanes of the group is ignored (R404)
    let other : Named := { nm with v := vdst ++ (if f.sa then [] else [f.a.toNat]) }
    let a (i : Nat) := readOpd x i f.sa f.a.toNat 1
    let b (i : Nat) := readOpd x i f.sb f.b.toNat 1
    s.finish F x ⟨f.pred, f.la.toNat, 1, 1⟩ ⟨vdst, pdst, []⟩ e (fun i =>
      let g := groupLanes x i
      let lo := g.headD 0
      let pin := (x.lane lo).pred c
      let r := fn w (limbs (fun j => (a j).val) g) (limbs (fun j => (b j).val) g)
        (limbs (fun j => ((x.lane j).reg d).val.toNat) g) (b lo).val (if form.cin && pin.val then 1 else 0)
      let ts := g.map (fun j => (a j).taint) ++ (if form.scalarB then [(b lo).taint] else g.map fun j => (b j).taint) ++
        (if form.readsD then g.map fun j => ((x.lane j).reg d).taint else []) ++ (if form.cin then [pin.taint] else []) ++
        g.map fun j => (x.lane j).predTaint f.pred
      let t := ts.foldl Taint.join .clean
      let k := i % gs
      { laneNone with
        causes := unitCauses u heatOnly ++ headerCauses s u nm ++
          pendingCauses x i (if form.scalarB && i ≠ lo then other else nm) ++
          (if x.g = 0#3 then [0x46]
           else if g.all (fun j => e.getLsbD j) then (if x.ovfe && r.k && !form.compare then [0x3A] else []) else [0x40]),
        v := if form.compare then []
          else (d, ⟨BitVec.ofNat 32 (limbAt r.r k), t⟩) ::
            (if form.high && k + 1 = gs then [(d + 1, ⟨BitVec.ofNat 32 r.h, t⟩)] else []),
        p := if form.compare then [(d, ⟨r.eq, t⟩), (c, ⟨r.k, t⟩)] else [(c, ⟨r.k, t⟩)] }) []

/-- LADD (R405). -/
def execLadd (f : ChnF) (s : State) : Host.Outcome State Fault Refusal := chainWord { cin := f.opx } laddFn f s
/-- LSUB (R405). -/
def execLsub (f : ChnF) (s : State) : Host.Outcome State Fault Refusal := chainWord { cin := f.opx } lsubFn f s
/-- LSHL (R405). -/
def execLshl (f : ChnF) (s : State) : Host.Outcome State Fault Refusal := chainWord { scalarB := true } lshlFn f s
/-- LSHR (R405). -/
def execLshr (f : ChnF) (s : State) : Host.Outcome State Fault Refusal := chainWord { scalarB := true } (lshrFn f.opx) f s
/-- LCMP (R405). -/
def execLcmp (f : ChnF) (s : State) : Host.Outcome State Fault Refusal := chainWord { compare := true } (lcmpFn f.opx) f s
/-- LMAC (R405). -/
def execLmac (f : ChnF) (s : State) : Host.Outcome State Fault Refusal :=
  chainWord { scalarB := true, cin := f.opx, readsD := true, high := true } lmacFn f s

/-! ### LBIND, LUNBIND -/

/-- log2 g of an allowed group size (R79). -/
def bindSize (n : Nat) : Option (BitVec 3) :=
  match n with
  | 2 => some 1#3
  | 4 => some 2#3
  | 8 => some 3#3
  | 16 => some 4#3
  | 32 => some 5#3
  | _ => none

/-- LBIND (R79, R407). -/
def execLbind (f : ImmF) (s : State) : Host.Outcome State Fault Refusal :=
  withUnit s fun F x =>
    let e := execLanes x F.lanes f.pred
    let info : WordInfo := ⟨f.pred, 0, 1, 1⟩
    let base := unitCauses F.unit heatOnly ++ handlerBars F ++ scalarCauses s F.unit x e f.pred []
    let size := bindSize f.imm.toNat
    let causes := base ++ (if size.isNone || x.g ≠ 0#3 || e ≠ 0xFFFFFFFF#32 then [0x46] else [])
    let x1 := match size with
      | some g => if causes.isEmpty then { x with g := g } else x
      | none => x
    s.finish F x1 info ⟨[], [], []⟩ e (scalarFaults e causes 0 false) []

/-- The lanes of a set are every non-exited lane of the heat (R80). -/
def Strand.isAll (x : Strand) (m : LaneSet) : Bool :=
  laneIds.all fun i => (x.lane i).ls = .exited || m.getLsbD i

/-- LUNBIND (R80, R414): held as at RECONV, then its issuing set, the lanes whose predicate is false among it (R62),
must be every non-exited lane of the heat. -/
def execLunbind (f : NilF) (s : State) : Host.Outcome State Fault Refusal :=
  withUnit s fun F x =>
    let e := execLanes x F.lanes f.pred
    let info : WordInfo := ⟨f.pred, 0, 1, 1⟩
    let base := unitCauses F.unit heatOnly ++ handlerBars F ++ scalarCauses s F.unit x e f.pred []
    let pc := (x.lane ((lowest e).getD 0)).lpc
    if !base.isEmpty then s.finish F x info ⟨[], [], []⟩ e (scalarFaults e base 0 false) []
    else if x.g = 0#3 || e = 0#32 then s.finish F x info ⟨[], [], []⟩ e (fun _ => laneNone) []
    else if x.parkedBelow pc then
      s.finish F x info ⟨[], [], []⟩ e
        (fun i => if e.getLsbD i then { laneNone with hold := some (.lunbind F.lanes) } else laneNone) []
    else if x.isAll F.lanes then s.finish F { x with g := 0#3 } info ⟨[], [], []⟩ e (fun _ => laneNone) []
    else s.finish F x info ⟨[], [], []⟩ e (scalarFaults e [0x46] 0 false) []

end Sys2Proof.Machine
end

