-- ==== Sys2Proof/Machine/Pair.lean ====
section
/-! DEFINITION. Pair words: each half acts as its single word (R87, R341 to R344). -/

namespace Sys2Proof.Machine

/-- The predicate of a half (R341). -/
def halfPred (h : HalfF) : Pred := ⟨if h.hpred = 7#3 then 12#4 else h.hpred.zeroExtend 4, false⟩

/-- The conversions of a half: destination and source type codes (R342). -/
def halfCvt (h : HalfF) : BitVec 3 × BitVec 3 :=
  match (halfTy h).toNat / 2 with
  | 0 => (2#3, 0#3)
  | 1 => (3#3, 0#3)
  | 2 => (0#3, 2#3)
  | _ => (0#3, 3#3)

/-- The integer or 32-bit type a half computes in. -/
def halfIntTy (h : HalfF) : BitVec 3 :=
  match hopClass h.hop.toNat with
  | some .integer => if h.hop = 0x0F#6 then 6#3 else halfTy h
  | _ => 6#3

/-- Rounding of a half (R342). -/
def halfRnd (h : HalfF) : Rnd := rndFrom (h.hmod.toNat % 4)
where
  rndFrom : Nat → Rnd
    | 0 => .rne
    | 1 => .rtz
    | 2 => .rup
    | _ => .rdn

/-- What a half computes from D and S, or from S alone (R342). -/
def halfFn (h : HalfF) (l : List Nat) (p : Bool) : Res :=
  let ty := halfIntTy h
  let sat := h.hmod.getLsbD 1
  let z := l.map (intVal ty)
  let w := tyW ty
  let F := fmtOf (halfTy h).toNat
  let sh (op : Nat → Nat → Nat → Nat) : Res :=
    { d := place ty (intVal ty (op w (arg l 0 % 2 ^ w) (arg l 1 % 256))) }
  match h.hop.toNat with
  | 0x01 => intRes ty sat (iAdd z)
  | 0x02 => intRes ty sat (iSub z)
  | 0x03 => intRes ty sat (iMul z)
  | 0x04 => intRes ty false (iMin z)
  | 0x05 => intRes ty false (iMax z)
  | 0x06 => { d := arg l 0 &&& arg l 1 }
  | 0x07 => { d := arg l 0 ||| arg l 1 }
  | 0x08 => { d := arg l 0 ^^^ arg l 1 }
  | 0x09 => { d := 2 ^ 32 - 1 - arg l 0 }
  | 0x0A => { d := arg l 0 }
  | 0x0B => sh shlVal
  | 0x0C => sh shrVal
  | 0x0D => sh sarVal
  | 0x0E => sh rotlVal
  | 0x0F => { d := if p then arg l 1 else arg l 0 }
  | 0x10 => floatRes (fAdd F (halfRnd h) false (F.val (arg l 0)) (F.val (arg l 1)))
  | 0x11 => floatRes (fMul F (halfRnd h) false (F.val (arg l 0)) (F.val (arg l 1)))
  | 0x12 => floatRes (fMinMax F false (arg l 0) (arg l 1))
  | 0x13 => floatRes (fMinMax F true (arg l 0) (arg l 1))
  | 0x18 => cvtRes true true (halfCvt h).1 (halfCvt h).2 (halfRnd h) false (arg l 0)
  | 0x19 => { d := popcVal 32 (arg l 0) }
  | 0x1A => { d := clzVal 32 (arg l 0) }
  | _ => { d := brevVal 32 (arg l 0) }

/-- A half may run in a warm-up when its single word may (R230). -/
def halfRuns (h : HalfF) : Runs :=
  match hopClass h.hop.toNat with
  | some .float => {}
  | some .special => { warm := h.hop ≠ 0x18#6 }
  | _ => { warm := true }

/-- A half as a computing word. -/
def halfAlu (h : HalfF) : Alu :=
  { info := ⟨halfPred h, 0, 1, 1⟩, runs := halfRuns h, u := false, dst := some (h.d.toNat, 1),
    srcs := (if hopReadsD h.hop.toNat then [(false, h.d.toNat, 1)] else []) ++ [(halfSS h, h.s.toNat, 1)],
    psrc := if h.hop = 0x0F#6 then some (halfTy h).toNat else none, pdst := none }

/-- A half in one lane: nothing where it does not execute, but a poisoned predicate poisons D (R260). -/
def halfLane (h : HalfF) (s : State) (u : UnitRef) (x : Strand) (m : LaneSet) (i : Nat) : LaneOut :=
  let w := halfAlu h
  let l := x.lane i
  let t := l.predTaint (halfPred h)
  if (execLanes x m (halfPred h)).getLsbD i then
    let o := w.lane s u x (halfFn h) i
    { o with v := taintRegs t o.v }
  else if m.getLsbD i && t ≠ .clean then
    { laneNone with v := [(h.d.toNat, ⟨(l.reg h.d.toNat).val, (l.reg h.d.toNat).taint.join t⟩)] }
  else laneNone

/-- Both halves of a lane: neither writes where either faults (R87). -/
def bothHalves (a b : LaneOut) : LaneOut :=
  { a with causes := a.causes ++ b.causes, v := a.v ++ b.v, fpf := a.fpf ||| b.fpf, slf := a.slf ||| b.slf }

/-- What decode finds against a half: it reaches every lane in which either half's predicate is true (R329). -/
def halfFinds (h : HalfF) (s : State) (u : UnitRef) : List Nat :=
  unitCauses u (halfRuns h) ++ if beyondHeader (s.nv u) (s.ns u) (halfAlu h).named then [0x08] else []

/-- A lane of a pair word. -/
def pairLane (h0 h1 : HalfF) (s : State) (u : UnitRef) (x : Strand) (m : LaneSet) (i : Nat) : LaneOut :=
  let o := bothHalves (halfLane h0 s u x m i) (halfLane h1 s u x m i)
  if (execLanes x m (halfPred h0) ||| execLanes x m (halfPred h1)).getLsbD i then
    { o with causes := halfFinds h0 s u ++ halfFinds h1 s u ++ o.causes }
  else o

/-- PAIR_WORD (R344). -/
def execPairWord (h0 h1 : HalfF) (s : State) : Host.Outcome State Fault Refusal :=
  withUnit s fun F x =>
    s.finish F x ⟨⟨12#4, false⟩, 0, 1, 2⟩ ⟨[], [], []⟩ F.lanes (pairLane h0 h1 s F.unit x F.lanes) []

end Sys2Proof.Machine
end

