-- ==== Sys2Proof/Machine/Issue.lean ====
section
/-! DEFINITION. Which word issues next: what held lanes and open windows complete, handler entry, selection within a
heat, fetch and decode, windows, and selection among the heats of a core (R57, R58, R60, R64, R74, R80, R84 to R92,
R198, R240, R326 to R329, R379). -/

namespace Sys2Proof.Machine

/-! ### Held lanes complete (R57) -/

/-- Held lanes complete their word. -/
def State.passLanes (s : State) (u : UnitRef) (m : List Nat) : State := s.modStrand u fun x => x.pass m

/-- The lanes held by a condition of the given kind at a word. -/
def Strand.heldAt (x : Strand) (h : Hold) (pc : Word32) : List Nat :=
  laneIds.filter fun i => (x.lane i).held = some h && (x.lane i).lpc = pc

/-- LUNBIND (R80). -/
def State.passLunbind (s : State) (u : UnitRef) (x : Strand) (issued : LaneSet) (pc : Word32) : State :=
  let m := x.heldAt (.lunbind issued) pc
  if x.parkedBelow pc then s
  else if x.isAll issued then s.modStrand u fun y => { y.pass m with g := 0#3 }
  else s.takeFaults u none (m.map fun i => ⟨i, 0x46, 0, false⟩)

/-- FACQ: a slot that nobody is served before, or the fault of a bank that has left FIFO mode (R379, R380). -/
def State.passFacq (s : State) (u : UnitRef) (x : Strand) (h : Hold) (filled : Bool) (k d : Nat) (t : Taint)
    (pc : Word32) : State :=
  match s.relayOf u with
  | some rl =>
    let m := x.heldAt h pc
    if (rl.bank k).mode ≠ .fifo then s.takeFaults u none (m.map fun i => ⟨i, 0x18, 0, false⟩)
    else if rl.dry filled k (some u) then s
    else
      let r := s.acquire u x filled k
      r.1.setStrand u ((r.2.1.setSreg d ⟨BitVec.ofNat 32 r.2.2, t⟩).pass m)
  | none => s

/-- CWAIT: every lane of the word completes, or parks under the counter's cause (R69, R372). DESIGN CHOICE, entry 93: a cause
that was deferred to it comes with the address 0 (R248). -/
def State.passCwait (s : State) (u : UnitRef) (rl : Relay) (x : Strand) (h : Hold) (n target : Nat) (pc : Word32) :
    State :=
  let m := x.heldAt h pc
  if !counterReached (rl.counter n) target then s
  else
    match counterCause (rl.counter n) with
    | c :: _ => s.takeFaults u none (m.map fun i => ⟨i, c, 0, false⟩)
    | [] => s.modStrand u fun y => { y.pass m with race := y.race.merge (rl.countedGives n) }

/-- The condition a held lane waits for, judged once; barriers and rendezvous complete jointly (Waits.lean). -/
def State.passLane (s : State) (u : UnitRef) (i : Nat) : State :=
  match s.strand u, s.relayOf u with
  | some x, some rl =>
    let l := x.lane i
    match l.held with
    | none => s
    | some h =>
      match h with
      | .reconv => if x.parkedBelow l.lpc then s else s.passLanes u [i]
      | .lunbind issued => s.passLunbind u x issued l.lpc
      | .facq filled k d _ t => s.passFacq u x h filled k d t l.lpc
      | .cwait n t _ => s.passCwait u rl x h n t l.lpc
      | .mwait n =>
        if n < rl.groups.length then s
        else s.modStrand u fun y => { y.pass [i] with race := (y.race.merge rl.groupHand).release 2 }
      | .mcommit d t =>
        if 64 ≤ rl.groups.length then s
        else
          let rl1 := rl.closeGroup
          let s1 := match unitRelay u with
            | some r => { s with relays := put s.relays r rl1 }
            | none => s
          s1.modStrand u fun y => (y.setSreg d ⟨BitVec.ofNat 32 rl1.groupNo, t⟩).pass [i]
      | .yieldPoint => if s.yieldPending u then s else s.passLanes u [i]
      | .bar _ => s
      | .barw _ => s
      | .rbar => s
      | .rdv _ =>
        if isHeat u && (rl.pacerState = .idle || rl.pacerState = .draining) then
          s.takeFaults u none (x.rdvLanes.map fun j => ⟨j, 0x56, 0, false⟩)
        else s
      | .window => s
  | _, _ => s

/-- An open CWAIT or MWAIT completes or faults (R84, R86). -/
def State.settleOp (s : State) (u : UnitRef) (o : LongOp) : State :=
  match s.relayOf u with
  | none => s
  | some rl =>
    if rl.place.isNone then s
    else match o.kind with
    | .plain => s
    | .cwait n t =>
      if !counterReached (rl.counter n) t then s
      else
        match counterCause (rl.counter n) with
        | c :: _ => s.failOp u o c
        | [] => s.closeOp u o (rl.countedGives n) false
    | .mwait n => if n < rl.groups.length then s else s.closeOp u o rl.groupHand true

/-! ### Handler entry (R73, R74) -/

/-- The fragment served next: of those that await a handler, the one allocated first. -/
def Strand.nextFrag (x : Strand) : Option (Nat × Frag) :=
  (x.frags.filter fun e => e.2.phase = .waiting && !e.2.replay).foldl
    (fun (best : Option (Nat × Frag)) e =>
      match best with
      | some b => if e.2.order < b.2.order then some e else some b
      | none => some e) none

def Strand.inHandler (x : Strand) : Option (Nat × Word32 × Nat) :=
  x.frags.findSome? fun e => match e.2.phase with
    | .handler pc lane => some (e.1, pc, lane)
    | _ => none

/-- The elected lane starts the handler. -/
def State.enterHandler (s : State) (u : UnitRef) : State :=
  match s.strand u, s.handlerOf u with
  | some x, some h =>
    if x.inHandler.isSome then s
    else
      match x.nextFrag with
      | none => s
      | some (fid, fr) =>
        match lowest (x.fragLanes fid) with
        | none => s
        | some lane =>
          let fr1 : Frag := { fr with phase := .handler (BitVec.ofNat 32 h) lane }
          s.setStrand u { x with frags := put x.frags fid fr1 }
  | _, _ => s

/-- Open windows complete. An instruction that has left the list is open no more. -/
def State.settleOps (s : State) (u : UnitRef) : State :=
  match s.strand u with
  | none => s
  | some x => (x.ops.filter fun o => !o.plain).foldl (fun s o =>
      if (s.strand u).any fun y => y.ops.contains o then s.settleOp u o else s) s

/-- Held lanes complete, but for those that `skip` leaves waiting. -/
def State.passHeld (s : State) (u : UnitRef) (skip : State → Hold → Bool) : State :=
  laneIds.foldl (fun s i =>
    if (s.strand u).any fun x => (x.lane i).held.any (skip s) then s else s.passLane u i) s

/-! ### The issuing set (R60, R64, R66) -/

/-- The lanes of a list at their least LPC. -/
def Strand.atMin (x : Strand) (l : List Nat) : LaneSet :=
  match (l.map fun i => (x.lane i).lpc.toNat).min? with
  | some pc => laneSet fun i => l.contains i && (x.lane i).lpc.toNat = pc
  | none => 0#32

/-- What the unit may issue, the case that applies first in front: the handler's lane, then the next group or the
candidates at the least LPC (R64). -/
def Strand.select (x : Strand) (u : UnitRef) : List (Focus × Word32) :=
  let handler : List (Focus × Word32) := match x.inHandler with
    | some (fid, pc, lane) => [(⟨u, 1#32 <<< lane, some fid⟩, pc)]
    | none => []
  let grp := if x.nextMode then (lanesOf x.group).filter fun i => (x.lane i).candidate else []
  let m := x.atMin (if grp.isEmpty then x.candidates else grp)
  handler ++ match lowest m with
    | some i => [(⟨u, m, none⟩, (x.lane i).lpc)]
    | none => []

/-! ### Fetch (R230, R326 to R329) -/

/-- A word that faults as it is fetched or decoded: its causes for every lane of the issuing set and for the lanes in which
one of `preds` is true, the registers named by what of it has been read, and the window places it takes (R84, R329). -/
structure BadWord where
  every : List Nat := []
  executing : List Nat := []
  preds : List Pred := []
  size : Nat := 1
  fva : Nat := 0
  replay : Bool := false
  places : Nat := 1
  named : Named := ⟨[], [], []⟩
deriving DecidableEq, Repr

/-- What a fetch gives: an instruction; a word that faults; a warm-up's page still to be mapped; or an instruction that
issues beside the window of an open CWAIT or MWAIT, whose results commit when that has completed (R86). -/
inductive Fetched where
  | instr (i : Instr) (size : Nat)
  | bad (b : BadWord)
  | wait (va : Nat)
  | later (i : Instr) (size : Nat)
deriving DecidableEq, Repr

def Fetched.every (c : Nat) : Fetched := .bad { every := [c] }

/-- A field value that its instruction refuses under 0x04 for the unit it runs on, found at decode (R329). -/
def lateField (u : UnitRef) : Instr → Bool
  | .exit f => if isWarm u then 3 ≤ f.imm.toNat else f.imm ≠ 0#29
  | .srd f => !isWarm u && 0x40 ≤ f.a.toNat && f.a.toNat ≤ 0x81
  | .swr f => if isWarm u then f.d = 0x81#8 else !srWritable f.d.toNat || 0x40 ≤ f.d.toNat
  | .tdesc f => (⟨BitVec.ofNat 256 (2 ^ 192 * f.hi.toNat), capNull⟩ : Tensor).reserved || f.hi.getLsbD 15
  | .cqgo f => cqgoReserved f.imm.toNat
  | .fork f => 8 < f.imm.toNat || 64 < f.a.toNat + f.imm.toNat || (f.imm = 0#29 && f.a ≠ 0#8)
  | _ => false

/-- The instructions a warm-up may use (R230, R425). -/
def warmRuns : Instr → Bool
  | .iadd _ | .iaddImm _ | .iaddImmUniform _ | .isub _ | .iabs _ | .imin _ | .iminImm _ | .iminImmUniform _ | .imax _
  | .imaxImm _ | .imaxImmUniform _ | .iaddc _ | .icmp _ | .icmpImm _ | .icmpImmUniform _ | .idot4 _ | .qdot4 _ | .imul _
  | .imulImm _ | .imulImmUniform _ | .imulhi _ | .imad _ | .and _ | .andImm _ | .andImmUniform _ | .or _ | .orImm _
  | .orImmUniform _ | .xor _ | .xorImm _ | .xorImmUniform _ | .not _ | .shl _ | .shlImm _ | .shlImmUniform _ | .shr _
  | .shrImm _ | .shrImmUniform _ | .sar _ | .sarImm _ | .sarImmUniform _ | .rotl _ | .rotlImm _ | .rotlImmUniform _
  | .bfx _ | .bfi _ | .brev _ | .clz _ | .popc _ | .sel _ | .mov _ | .movi _ | .moviUniform _ | .moviExt _ | .fcmp _
  | .slcmp _ | .bra _ | .ld _ | .cld _ | .cldMemory _ | .srd _ | .swr _ | .exit _ | .nop _ => true
  | _ => false

/-- A word that a warm-up may not use, however its other fields stand: 0x02 ranks before their causes (R68, R246). -/
def outsideWarm (u : UnitRef) (w0 : Word64) (w1 : Option Word64) : Bool :=
  isWarm u &&
  if (head w0).kind = 1 then !(halfRuns (decHalves w0).1).warm || !(halfRuns (decHalves w0).2).warm
  else match opcodeOf w0 w1 with
    | some i => !warmRuns i
    | none => false

/-- The registers that the first word of an extended instruction names. -/
def extNamed : Instr → Named
  | .ldk f => (addrNamed f.a f.sa f.wide).with (span f.d.toNat (sizeRegs f.size)) [] f.pred
  | .tdesc f => ⟨[], span f.a.toNat 6, []⟩
  | .moviExt f =>
    let l := span f.d.toNat (Wd.count .byTy .int f.ty)
    if f.u then ⟨[], l, []⟩ else ⟨l, [], []⟩
  | _ => ⟨[], [], []⟩

/-- A word without a usable predicate whose fields its instruction refuses takes 0x04 (R329); one whose second word lies at
CODEW meets the causes of its registers too, which rank before 0x0B (R68, R327). -/
def Fetched.ofBad (u : UnitRef) (w0 : Word64) (w1 : Option Word64) (c : Nat) (all : Bool) (ps : List Pred) (n : Nat) :
    Fetched :=
  let first := if outsideWarm u w0 w1 then [2] else []
  let places := if (head w0).kind = 1 then 2 else 1
  let named : Named := if c = 0x0B then (opcodeOf w0 w1).elim ⟨[], [], []⟩ extNamed else ⟨[], [], []⟩
  if c = 5 then
    let late : Bool := match decodeWords (repred w0) w1 with
      | .instr i _ => lateField u i
      | .bad _ _ _ _ => false
    .bad { every := first ++ (if late then [4, 5] else [5]), size := n, places := places }
  else if all then .bad { every := first ++ [c], size := n, places := places }
  else .bad { executing := first ++ [c], preds := ps, size := n, places := places, named := named }

def Fetched.ofWords (u : UnitRef) (w0 : Word64) (w1 : Option Word64) : Fetched :=
  match decodeWords w0 w1 with
  | .instr i n => .instr i n
  | .bad c all ps n => Fetched.ofBad u w0 w1 c all ps n

/-- The bounds of a fetch: CODEW, and a warm-up's 256 words and budget (R230, R327). -/
def State.fetchBound (s : State) (u : UnitRef) (f : Field) (pc : Nat) : Bool :=
  hdrCodeW f ≤ pc ||
  match u with
  | .warm q =>
    match find s.warms q with
    | some w => pc < w.start || w.start + 256 ≤ pc || 65536 ≤ w.words
    | none => true
  | _ => false

/-- A warm-up may not fetch a second word outside its 256 either. -/
def State.hasSecond (s : State) (u : UnitRef) (f : Field) (pc : Nat) : Bool :=
  pc + 1 < hdrCodeW f &&
  match u with
  | .warm q =>
    match find s.warms q with
    | some w => pc + 1 < w.start + 256
    | none => false
  | _ => true

/-- The kind bits of a word (R326). -/
def wordKind (w : Word64) : Nat := w.toNat / 2 ^ 62

/-- Virtual address of code word `pc`. -/
def State.codeVa (s : State) (f : Field) (pc : Nat) : Nat :=
  match find s.queues f.queue with
  | some q => (q.cap.base + f.code + 256 + 8 * pc) % 2 ^ 57
  | none => 0

/-- Fetch and decode. A page that is not mapped gives its cause to every lane (R132, R328); one that is still being zeroed is
waited for (R154). -/
def State.fetch (s : State) (u : UnitRef) (pc : Nat) : Fetched :=
  match s.fieldOf u with
  | none => Fetched.every 0x0B
  | some f =>
    if s.fetchBound u f pc then Fetched.every 0x0B
    else
      match s.codeAddr f pc with
      | .cause c => .bad { every := [c], fva := s.codeVa f pc }
      | .busy => .wait (s.codeVa f pc)
      | .miss => if isWarm u then .wait (s.codeVa f pc) else .bad { every := [0x10], fva := s.codeVa f pc, replay := true }
      | .hit pa _ =>
        if s.beingZeroed pa then .wait (s.codeVa f pc)
        else
        let w0 := BitVec.ofNat 64 (s.readMem pa 8)
        if pc % 2 = 1 && (wordKind w0 = 2 || wordKind (s.codeWord f (pc - 1)) = 2) then Fetched.every 0x0A
        else Fetched.ofWords u w0 (if s.hasSecond u f pc then some (s.codeWord f (pc + 1)) else none)

/-- Take the causes of a fetch. -/
def State.fetchFault (s : State) (F : Focus) (b : BadWord) : State :=
  match s.strand F.unit with
  | none => s
  | some x =>
    let exec (i : Nat) : Bool := b.preds.any fun p => (x.lane i).predVal p
    let haz (i : Nat) : Bool := pendingIn x i ⟨[], [], b.preds.flatMap predNamed⟩
    let e := laneSet fun i => F.lanes.getLsbD i && (!b.every.isEmpty || exec i || haz i)
    let o (i : Nat) : LaneOut :=
      { laneNone with
        causes := b.every ++ (if exec i then b.executing ++ namedCauses s F.unit x i b.named else []) ++
          (if haz i then [0x09] else []),
        fva := b.fva, replay := b.replay }
    let s1 := s.finish F x ⟨⟨12#4, false⟩, 0, b.size, b.places⟩ ⟨[], [], []⟩ e o []
    if F.handler.isSome then s1 else s1.queueWalks F.unit false (faultsOf e o)

/-! ### Lookahead windows (R83 to R86) -/

/-- Places of a window a word takes (R84). -/
def wordPlaces : Instr → Nat
  | .pairWord _ _ => 2
  | _ => 1

/-- The unit as the word finds it: instructions whose window has ended complete first, and the oldest of eight; none
where the word must wait for an open CWAIT or MWAIT (R84). `long` says that the word is itself a long-latency one; a
single-stepped heat has no window (R254). -/
def Strand.intoWindow (x : Strand) (stepping long : Bool) (places : Nat) : Option Strand :=
  let closed (o : LongOp) : Bool := stepping || o.left < places
  let x1 := x.landWhere closed
  let x2 : Strand := if long && 8 ≤ x1.ops.length then
    match x1.ops with
    | o :: _ => if o.plain then x1.landAt 0 else x1
    | [] => x1
  else x1
  if x2.ops.any closed || (long && 8 ≤ x2.ops.length) then none else some x2

/-- The waiting instructions in whose window words of these lanes stand. -/
def Strand.covering (x : Strand) (m : LaneSet) : List LongOp := x.ops.filter fun o => o.opens m

/-- The lanes of a set that stand in a window. -/
def Strand.coveredIn (x : Strand) (m : LaneSet) : LaneSet :=
  laneSet fun i => m.getLsbD i && x.openIn (1#32 <<< i)

/-- The word cannot issue before the window's instruction has completed: it ends a handler that has a window of its own, or
holds its lane (R390, R392, R458). -/
def Strand.awaits (x : Strand) (F : Focus) (i : Instr) : Bool :=
  x.openIn F.lanes && F.handler.isSome && (stayWord i || handlerWord i)

/-- Every window that these lanes stand in is an MWAIT's. -/
def Strand.inMwait (x : Strand) (m : LaneSet) : Bool :=
  (x.covering m).all fun o => match o.kind with
    | .mwait _ => true
    | _ => false

/-- The word issues and does all it does at once: no window holds its lanes, or its effect stays in them and no word of
the window has left anything to be taken into account. An SHFL outside a window may read a lane inside one. -/
def Strand.plainly (x : Strand) (m : LaneSet) (i : Instr) : Bool :=
  if x.openIn m then
    (x.covering m).all (fun o => o.laid = overNone && o.late = []) &&
    (laneWord i || (crossWord i && (x.coveredIn m) = m) || (isMatrix i && x.inMwait m))
  else !(crossWord i && x.openIn 0xFFFFFFFF#32)

/-! ### What a unit does when its turn comes -/

def Field.total (f : Field) : Nat := f.dimX * f.dimY * f.dimZ

/-- Of a concurrent field, no lane issues before every relay is placed, nor while one is evicted (R50). -/
def State.fieldWhole (s : State) (rl : Relay) : Bool :=
  match find s.fields rl.field with
  | some f =>
    f.mode ≠ 2 || (f.placed.length = f.total && s.relays.all fun e => e.2.field ≠ rl.field || e.2.place.isSome)
  | none => false

/-- A packet stands before another of its queue: meets are numbered in ring order. -/
def packetBefore (mid i mid1 i1 : Nat) : Bool := mid < mid1 || (mid = mid1 && i < i1)

/-- A packet waits: an access of one before it in its queue waits for a page (R480). -/
def State.heldBefore (s : State) (qid mid i : Nat) : Bool :=
  ((find s.queues qid).any fun q => q.owed.any fun o => packetBefore o.meet o.index mid i) ||
  s.meets.any fun e => e.2.queue = qid && e.2.states.any fun p => p.2 = .waiting && packetBefore e.1 p.1 mid i

/-- The packet at which a queue's dispatch stands waits so. -/
def State.headHeld (s : State) (qid : Nat) : Bool :=
  match (find s.queues qid).bind fun q => q.pending.head? with
  | some mid => (find s.meets mid).any fun m => s.heldBefore qid mid m.pos
  | none => false

/-- The unit may issue: not stopped, not waiting for a bank or a page, and with nothing still to do of what it issued in the
window of a CWAIT or MWAIT that has completed (R86, R141, R143, R160, R255, R263). DESIGN CHOICE,
entry 87: while a handler's word waits for a scratch page no other group of the heat issues either (R64, R90). -/
def State.mayIssue (s : State) (u : UnitRef) (x : Strand) : Bool :=
  x.stopped = .none && x.waiting = .none && x.due.isEmpty &&
  match s.relayOf u with
  | some rl => rl.place.isSome && !rl.stopped && s.fieldWhole rl
  | none => match u with
    | .warm q => !s.headHeld q
    | _ => false

/-- A word a unit may issue: its lanes, what the fetch gives, and the unit as the word finds it. -/
abbrev Offer := Focus × Fetched × Strand

/-- What a selected word offers; none while it must wait for the end of a window (R84, R90). -/
def State.offer (s : State) (x : Strand) (F : Focus) (pc : Word32) : Option Offer :=
  match s.fetch F.unit pc.toNat with
  | .instr i n =>
    (x.intoWindow (s.stepping F) (isLong i) (wordPlaces i)).bind fun x1 =>
      if x1.awaits F i then none
      else if x1.plainly F.lanes i then some (F, .instr i n, x1)
      else some (F, .later i n, x1)
  | .bad b => (x.intoWindow (s.stepping F) false b.places).map fun x1 => (F, .bad b, x1)
  | r => (x.intoWindow (s.stepping F) false 1).map fun x1 => (F, r, x1)

/-- What the unit may issue now, the first case of R64 in front. -/
def State.offers (s : State) (u : UnitRef) : List Offer :=
  match s.strand u with
  | none => []
  | some x => if s.mayIssue u x then (x.select u).filterMap fun e => s.offer x e.1 e.2 else []

/-- The state in which an offered word executes. -/
def State.begin_ (s : State) (r : Offer) : State := { s.setStrand r.1.unit r.2.2 with focus := some r.1 }

/-- A cycle of a cluster's clock ends: its counter runs on, by how many cycles is open (R307). -/
def Cluster.run (c : Cluster) (n : Nat) : Cluster := { c with cyc := c.cyc + BitVec.ofNat 64 (1 + n % 2 ^ 40) }

/-! ### Among the heats of a core (R91, R92, R233) -/

def Queue.prio (q : Queue) : Nat := bits q.q1.toNat 17 15
def Queue.rt (q : Queue) : Bool := q.q1.getLsbD 18
def Queue.context (q : Queue) : Nat := bits q.q1.toNat 14 0

/-- The rank of a field's class: quarantine lowest, then the priorities, real-time highest (R233). -/
def State.classRank (s : State) (f : Field) : Nat :=
  if f.quar then 0
  else
    match find s.queues f.queue with
    | some q => if q.rt then 9 else q.prio + 1
    | none => 0

/-- A heat of a core with what its choice depends on. -/
structure HeatOf where
  unit : UnitRef
  slot : Nat
  squadSlot : Nat
  rank : Nat
  count : Nat
  heat : Nat
deriving DecidableEq, Repr

/-- The heats that stand on a core. -/
def State.heatsOn (s : State) (p : Nat) : List HeatOf :=
  s.relays.flatMap fun (r, rl) =>
    if rl.place.isNone then []
    else
      let rank := match find s.fields rl.field with
        | some f => s.classRank f
        | none => 0
      rl.squads.flatMap fun (q, sq) =>
        if sq.core ≠ p then []
        else (rl.heats.filter fun e => e.1 / 32 = q).map fun e =>
          ⟨.heat r q (e.1 % 32), sq.slots.getD (e.1 % 32) 0, sq.slots.headD 0, rank, e.2.count, e.1 % 32⟩

/-- The heat a port takes: the highest class, squads in turn, the smallest count, the lowest number. In which order squads
stand in the round robin, and where its pointer starts, R92 leaves open: the model takes them by the number of their first
heat slot, from 0 (DESIGN CHOICE, log 44). -/
def better (rr : Nat) (a b : HeatOf) : Bool :=
  let turn (h : HeatOf) : Nat := (h.squadSlot + 64 - rr % 64) % 64
  if a.rank ≠ b.rank then b.rank < a.rank
  else if turn a ≠ turn b then turn a < turn b
  else if a.count ≠ b.count then a.count < b.count
  else a.heat < b.heat

def bestHeat (rr : Nat) : List HeatOf → Option HeatOf
  | [] => none
  | h :: hs =>
    match bestHeat rr hs with
    | none => some h
    | some b => some (if better rr b h then b else h)

/-- The heats of a list that `n` ports take one after another, the pointer moving past each squad served (R92). -/
def pickHeats : Nat → Nat → List HeatOf → List HeatOf
  | 0, _, _ => []
  | n + 1, rr, l =>
    match bestHeat rr l with
    | none => []
    | some h => h :: pickHeats n ((h.squadSlot + 1) % 64) (l.filter fun g => g.slot ≠ h.slot)

/-! ### Words that contend within a cycle (R184, R285, R380, R428, R433) -/

/-- The predicate of a word (R330). -/
def predOf (i : Instr) : Pred :=
  match encode i with
  | w :: _ => (head w).pred
  | [] => ⟨12#4, false⟩

/-- What several units may ask for in one cycle and only one gets first. -/
inductive Contest where
  | fork
  | boost
  | facq (filled : Bool) (bank : Nat)
  | pin
  | place
deriving DecidableEq, Repr

def contestOf : Instr → Option Contest
  | .fork _ => some .fork
  | .boost _ => some .boost
  | .boostSpare _ => some .boost
  | .facqF f => some (.facq true f.a.toNat)
  | .facqE f => some (.facq false f.a.toNat)
  | .pgpin _ => some .pin
  | .cqgo _ | .qfence _ | .mzero _ | .mlda _ | .mma _ | .mstore _ => some .place
  | _ => none

/-- What an offered word asks for as it issues: one in a window only for lanes outside (R86), but for a matrix word in that
of an MWAIT, which places its entry at once (R417). -/
def Offer.contest (r : Offer) : Option Contest :=
  match r.2.1 with
  | .instr i _ => contestOf i
  | .later i _ =>
    let x := r.2.2
    let out := r.1.lanes &&& ~~~(x.coveredIn r.1.lanes)
    if executing x out (predOf i) ≠ 0#32 || (isMatrix i && x.inMwait r.1.lanes) then contestOf i else none
  | _ => none

/-- What a window word that is due asks for. -/
def Late.contest : Late → Option Contest
  | .word i _ _ _ _ => contestOf i
  | _ => none

/-- The place of a unit in the order: its cluster for a BOOST, the pacer before the heats, then SQUAD and HEAT. -/
def State.contestKey (s : State) (c : Contest) (u : UnitRef) : Nat × Nat :=
  (if c = .boost then (s.clusterOf u).getD 0 else 0,
   match u with
   | .heat _ q h => 1 + heatKey q h
   | _ => 0)

def keyBelow (a b : Nat × Nat) : Bool := a.1 < b.1 || (a.1 = b.1 && a.2 < b.2)

/-- Two units contend with one another: over the pacer, a bank or the queues of their relay, or over the front end. -/
def contendIn (c : Contest) (u v : UnitRef) : Bool := c = .boost || unitRelay u = unitRelay v

/-! ### Turns -/

/-- The rows of the opcode table that are words of a program; every other row is an event. -/
def isEvent (i : Instr) : Bool := (encode i).isEmpty

/-- A grant whose cycles are spent raises the clock no more (R19, R283). -/
def Cluster.slow (c : Cluster) : Cluster :=
  match c.grant with
  | some g => if c.grantSpent g then { c with mhz := min c.mhz 2700 } else c
  | none => c

/-- The end of a cycle of a cluster's clock: its heats may issue again, its counter, which counts since the start, runs on
(R307), and nothing coincides any more with what has happened so far: fields of a queue no longer quarantined that are placed
from now on are of its own class (R226, R241). -/
def State.endCycle (s : State) (c : Nat) : State :=
  let s1 := (span (4 * c) 4).foldl (fun s p =>
    if (s.core p).chosen.isEmpty then s else s.setCore p { s.core p with chosen := [] }) s
  let cl := if s.dev.startState = 3 then (s1.cluster c).run (s.freeNat 5) else s1.cluster c
  let s2 := s1.setCluster c cl.slow
  { s2 with
    clusters := s2.clusters.map (fun e => (e.1, { e.2 with exchanged := false, decided := false })),
    fields := s2.fields.map (fun e =>
      (e.1, if e.2.placed.isEmpty && (find s2.queues e.2.queue).any fun q => q.cleared && !q.quar then { e.2 with quar := false } else e.2)),
    queues := s2.queues.map (fun e => (e.1, { e.2 with cleared := false })),
    relays := s2.relays.map fun e => (e.1, { e.2 with crossed := false }) }

/-- The end of a turn: nobody's word is executing any more. -/
def State.endTurn (s : State) : State := { s with focus := none, tick := s.tick + 1 }

end Sys2Proof.Machine
end

