-- ==== Sys2Proof/Machine/Load.lean ====
section
/-! DEFINITION. The state a relay and its units start in (R42, R139, R229, R325). -/

namespace Sys2Proof.Machine

/-- A lane at the entry word (R42). -/
def laneStart (pc : Nat) : Lane :=
  ⟨BitVec.ofNat 32 pc, .running, [], [], [], none, 0#16, false, none, 0#7, 0#57⟩

/-- A unit with its lanes, S and C registers; everything else at its reset value (R42, R65, R78, R100, R175). -/
def strandStart (lanes : AMap Lane) (sr : AMap Reg) (c : AMap Cap) : Strand :=
  { lanes := lanes, s := sr, c := c, k := [], kset := false, fpf := 0#5, fpe := 0#7, slf := 0#4, g := 0#3, ovfe := false,
    streak := 0, nextMode := false, group := 0#32, count := 0, ops := [], due := [], frags := [], nextOrder := 0, arrivals := [], stepped := 0#32, race := raceInit,
    inflight := 0, stopped := .none, waiting := .none }

/-- A list as a map from 0 up. -/
def indexed {α : Type} (l : List α) : AMap α := (List.range l.length).zip l

/-- A heat of 32 lanes. -/
def heatStart (entry : Nat) (params : List Reg) (caps : List Cap) : Strand :=
  strandStart (laneIds.map fun i => (i, laneStart entry)) (indexed params) (indexed caps)

/-- The pacer before a FORK: its lane has nothing to run (R42, R183). -/
def pacerStart (caps : List Cap) : Strand := strandStart [(0, laneDead)] [] (indexed caps)

/-- Keys of the heats of a relay of Q squads of H heats. -/
def heatKeys (q h : Nat) : List Nat := (List.range q).flatMap fun a => (List.range h).map fun b => heatKey a b

/-- A bank as the header asks for it: MODE in [1:0], SLOT in [4:2], which only FIFO mode uses (R324). -/
def headerBank (b : Nat) : Bank :=
  match b % 4 with
  | 1 => { bankInit with mode := .scratch }
  | 2 => { bankInit with mode := .fifo, slot := b / 4 % 8, free := nslot (b / 4 % 8) }
  | _ => bankInit

/-- The banks of a relay: scratch banks first, then those of the header (R139). -/
def bankStart (f : Field) : AMap Bank :=
  let n := scratchBanks f
  ((List.range n).map fun k => (k, { bankInit with mode := .scratch })) ++
  (List.range (hdrNBanks f)).map fun i => (n + i, headerBank (hdrBank f i))

/-! ### Backing and save areas (R137, R142, R243) -/

/-- Parts of the given sizes one after another, each on a 4 KiB boundary (R243). -/
def layOut (start : Nat) : List Nat → List (Nat × Nat)
  | [] => []
  | n :: l => (start, n) :: layOut (start + (n + 4095) / 4096 * 4096) l

/-- The bytes up to the last part's end. -/
def partsEnd (l : List (Nat × Nat)) : Nat := (l.map fun e => (e.1 + e.2 + 4095) / 4096 * 4096).foldl max 0

/-- The parts of a relay's save area: relay record, engine queues, pacer record, FIFO banks, tile memory, B store, and its
heats (R243). -/
def Relay.saveSizes (rl : Relay) (f : Field) : List Nat :=
  let pacer (l : List Nat) : List Nat := if rl.pacer.isSome then l else []
  [4096, 262144] ++ pacer [4096] ++ ((rl.banks.filter fun e => e.2.mode = .fifo).map fun _ => 135168) ++
  pacer [2097152, 16777216] ++ rl.heats.map fun _ => 4096 + 128 * hdrRegs f

/-- Rotate a list: for a choice that is the device's. -/
def rotated {α : Type} (l : List α) (n : Nat) : List α := l.drop (n % (l.length + 1)) ++ l.take (n % (l.length + 1))

/-- The most that the parts of a relay's save area come to: every bank of its own in FIFO mode. -/
def Relay.saveMost (rl : Relay) (f : Field) : List Nat :=
  ({ rl with banks := rl.banks.map fun e => (e.1, { e.2 with mode := .fifo }) } : Relay).saveSizes f

/-- The frames that parts of the given sizes take. -/
def framesFor (sizes : List Nat) : Nat := (partsEnd (layOut 0 sizes) + 65535) / 65536

/-- Bytes, tags and records of frames go (R153). -/
def State.wipe (s : State) (first n : Nat) : State :=
  let lo := first * 65536
  let hi := (first + n) * 65536
  { s with
    mem := s.mem.filter (fun e => !(lo ≤ e.1 && e.1 < hi)),
    tags := s.tags.filter (fun e => !(lo / 16 ≤ e.1 && e.1 < hi / 16)),
    records := s.records.filter (fun e => !(lo / 32 ≤ e.1 && e.1 < hi / 32)),
    dev := { s.dev with lostPte := s.dev.lostPte.filter fun a => !(lo ≤ a && a < hi) } }

/-- Zero frames, with their tags and records; their zeroing takes time (R153, R154). -/
def State.zeroFrames (s : State) (first n : Nat) : State :=
  let fr := s.frames.filter fun e => first ≤ e.1 && e.1 < first + n
  { s.wipe first n with zeroing := s.zeroing ++ (fr.map fun e => e.1).filter fun n => !s.zeroing.contains n }

/-- The first frame of a tier, and how many it has outside its carve-out (R137). -/
def State.tierFrames (s : State) (low : Bool) : Nat × Nat :=
  if low then (0, frames1 - if s.dev.integ1 then carveSize frames1 else 0)
  else (frame2Base, frames2 - if s.dev.integ2 then carveSize frames2 else 0)

/-- A frame that nobody has: unassigned, and not being zeroed. -/
def State.idleFrame (s : State) (n : Nat) : Bool := s.frame n = frameInit && !s.zeroing.contains n

/-- The frames of a tier that somebody has. -/
def State.takenIn (s : State) (low : Bool) : List Nat :=
  let t := s.tierFrames low
  (s.frames.map (fun e => e.1) ++ s.zeroing).eraseDups.filter fun n => t.1 ≤ n && n < t.1 + t.2 && !s.idleFrame n

/-- The tier that has n frames to give: which of two, is open; none where neither has (log 30). -/
def State.areaTier (s : State) (n : Nat) : Option Bool :=
  let fits (low : Bool) : Bool := n + (s.takenIn low).length ≤ (s.tierFrames low).2
  if fits true then some (!(fits false && s.freeNat 21 % 2 = 1)) else if fits false then some false else none

/-- n frames of a tier that nobody has; which of them, is open. -/
def State.areaFrames (s : State) (low : Bool) (n : Nat) : List Nat :=
  let t := s.tierFrames low
  (((List.range (n + (s.takenIn low).length)).map fun i => t.1 + (s.freeNat 22 + i) % t.2).filter s.idleFrame).take n

/-- The front end takes a region of the given parts for a relay of a context, zeroed, under the attribute that its tier has
for it (R142, R243). -/
def State.takeRegion (s : State) (c : Nat) (sizes : List Nat) : State × Region :=
  let low := (s.areaTier (framesFor sizes)).getD true
  let l := s.areaFrames low (framesFor sizes)
  let attr : BitVec 2 := if s.tierHasCarve (s.tierFrames low).1 then 2#2 else 1#2
  (l.foldl (fun s n => (s.wipe n 1).setFrame n ⟨.area c, attr, false, false⟩) s, ⟨l, attr, layOut 0 sizes, false, false⟩)

/-- A region is given up: its frames are zeroed and are nobody's again (R153, R243). -/
def State.freeRegion (s : State) (r : Region) : State :=
  r.frames.foldl (fun s n => (s.zeroFrames n 1).setFrame n
    (if (s.frame n).quarantined then { s.frame n with owner := .none } else frameInit)) s

/-- The parts of a relay's save area as it is saved. -/
def Relay.saveArea (rl : Relay) (f : Field) : Region := { rl.save with parts := layOut 0 (rl.saveSizes f) }

/-- Coordinates of a linear index (R38). -/
def coords (f : Field) (lin : Nat) : Nat × Nat × Nat :=
  (lin % f.dimX, lin / f.dimX % f.dimY, lin / f.dimX / f.dimY)

/-- A relay of a field placed for the first time on a cluster, with its squads' cores (R42, R229). -/
def relayStart (fid : Nat) (f : Field) (lin lcluster place : Nat) (squads : AMap Squad) (caps : List Cap) : Relay :=
  let (x, y, z) := coords f lin
  { field := fid, linear := lin, x := x, y := y, z := z, lcluster := lcluster, place := some place, squads := squads,
    heats := (heatKeys (hdrRelay f) (hdrSquad f)).map fun k => (k, heatStart (hdrEntry f) f.params caps),
    pacer := if hdrHasPacer f then some (pacerStart caps) else none, pacerState := .idle, guards := [], guardHand := [],
    counters := [], counted := [], cqerr := 0#32, mretry := 2#32, mqerr := 0#32, mqParked := false, queues := [],
    mq := [], mqRace := raceInit, groupNo := 0, openSeq := 0, groups := [], groupHand := [], banks := bankStart f, scratch := [],
    pages := [], pageClock := 0, acc := [], bstore := [], rdvTag := none, stopped := false, records := [],
    nextMarker := 0, crossed := false, backing := regionNone, save := regionNone }

/-- A squad on a core. -/
def squadStart (core coreL : Nat) (slots : List Nat) : Squad := ⟨core, coreL, slots, none, false, false, false⟩

end Sys2Proof.Machine
end

