-- ==== Sys2Proof/Machine/Front.lean ====
section
/-! DEFINITION. The front end's shared operations: its accesses through PKCAP, completion records, the end of fields
and meets, stopped units, and queue reset (R45, R53, R220, R221, R228, R242, R251, R257, R263, R480). -/

namespace Sys2Proof.Machine

/-! ### Accesses (R221, R480) -/

/-- The causes of n bytes at an offset of PKCAP: tag, bounds, permission (R221). -/
def frontCauses (c : Cap) (off n : Nat) (perms : List Perm) : List Nat :=
  (if c.tag then [] else [0x20]) ++ (if c.len < off + n then [0x21] else []) ++
  (if perms.all c.allows then [] else [0x22])

/-- Where n bytes lie: at most two runs, since an unaligned record may meet a page's end. -/
inductive Reach where
  | at (parts : List (Nat × Nat))
  | wait
  | cause (c : Nat)
deriving DecidableEq, Repr

/-- Translate n bytes, n at most 64 KiB, for the front end or an engine. -/
def State.reach (s : State) (who : Asker) (ctx va n : Nat) (store : Bool) : State × Reach :=
  let k := min n (65536 - va % 65536)
  match s.seek who ctx va store with
  | (s1, .hit pa _) =>
    if k = n then (s1, .at [(pa, n)])
    else
      match s1.seek who ctx (va + k) store with
      | (s2, .hit pb _) => (s2, .at [(pa, k), (pb, n - k)])
      | (s2, .miss) => (s2, .wait)
      | (s2, .busy) => (s2, .wait)
      | (s2, .cause c) => (s2, .cause c)
  | (s1, .miss) => (s1, .wait)
  | (s1, .busy) => (s1, .wait)
  | (s1, .cause c) => (s1, .cause c)

def State.readParts (s : State) : List (Nat × Nat) → Nat
  | [] => 0
  | (pa, n) :: l => s.readMem pa n + 2 ^ (8 * n) * s.readParts l

/-- A write by the front end or a host agent: its sectors name no agent of a program any more (R180). -/
def State.hostStore (s : State) (pa n v : Nat) : State :=
  let s1 := s.store pa n v
  { s1 with records := s1.records.filter fun e => !(pa / 32 ≤ e.1 && e.1 ≤ (pa + n - 1) / 32) }

def State.writeParts (s : State) : List (Nat × Nat) → Nat → State
  | [], _ => s
  | (pa, n) :: l, v => (s.hostStore pa n (v % 2 ^ (8 * n))).writeParts l (v / 2 ^ (8 * n))

/-- What a read by the front end gives. -/
inductive FrontVal where
  | val (v : Nat)
  | wait
  | cause (c : Nat)
deriving DecidableEq, Repr

/-- Read n bytes at an offset of the queue's PKCAP. -/
def State.frontRead (s : State) (qid : Nat) (off n : Nat) : State × FrontVal :=
  match find s.queues qid with
  | none => (s, .cause 0x20)
  | some q =>
    match s.reach (.front qid) q.context ((q.cap.base + off) % 2 ^ 57) n false with
    | (s1, .at l) => (s1, .val (s1.readParts l))
    | (s1, .wait) => (s1, .wait)
    | (s1, .cause c) => (s1, .cause c)

/-- Write n bytes at an offset of the queue's PKCAP; the value answers nothing but that it is done. -/
def State.frontWrite (s : State) (qid : Nat) (off n v : Nat) : State × FrontVal :=
  match find s.queues qid with
  | none => (s, .cause 0x20)
  | some q =>
    match s.reach (.front qid) q.context ((q.cap.base + off) % 2 ^ 57) n true with
    | (s1, .at l) => (s1.writeParts l v, .val 0)
    | (s1, .wait) => (s1, .wait)
    | (s1, .cause c) => (s1, .cause c)

/-! ### Completion records (R220) -/

def State.modQueue (s : State) (qid : Nat) (g : Queue → Queue) : State := { s with queues := modify s.queues qid g }
def State.modMeet (s : State) (m : Nat) (g : Meet → Meet) : State := { s with meets := modify s.meets m g }
def State.modField (s : State) (f : Nat) (g : Field → Field) : State := { s with fields := modify s.fields f g }

/-- A completion record. -/
def recordBits (status reason cause tag nfield index : Nat) : Nat :=
  pack [(8, status), (8, reason), (8, cause), (8, 0), (16, tag), (16, 0), (9, index), (7, 0), (9, nfield)]

/-- Write the records owed, in order, until one must wait for its page; a non-replayable cause leaves its record
unwritten (R480). -/
def State.writeOwed (s : State) (qid : Nat) : List Owed → State × List Owed
  | [] => (s, [])
  | o :: l =>
    match s.frontWrite qid o.off 16 o.val with
    | (s1, .wait) => (s1, o :: l)
    | (s1, _) => s1.writeOwed qid l

def State.flushOwed (s : State) (qid : Nat) : State :=
  match find s.queues qid with
  | none => s
  | some q =>
    let r := s.writeOwed qid q.owed
    r.1.modQueue qid fun q => { q with owed := r.2 }

/-- Owe the record of packet i of a meet; an offset of 0 names none. -/
def State.owe (s : State) (qid mid i off v : Nat) : State :=
  if off = 0 then s else (s.modQueue qid fun q => { q with owed := q.owed ++ [⟨mid, i, off, v⟩] }).flushOwed qid

/-- Packet i of a meet takes a state. -/
def State.setPState (s : State) (mid i : Nat) (st : PState) : State :=
  s.modMeet mid fun m => { m with states := put m.states i st }

/-! ### Packets of a meet (R217 to R219) -/

/-- Quadword i of a packet. -/
def pq (p i : Nat) : Nat := bits p (64 * i + 63) (64 * i)
def pType (p : Nat) : Nat := bits p 7 0
def pTag (p : Nat) : Nat := bits p 31 16

def tLaunch : Nat := 1
def tBegin : Nat := 2
def tCommit : Nat := 3
def tSignal : Nat := 4
def tWait : Nat := 5
def tCopy : Nat := 6
def tNop : Nat := 7

/-- The COMPL of a packet. -/
def pCompl (p : Nat) : Nat :=
  if pType p = tLaunch then bits (pq p 6) 56 0
  else if pType p = tSignal then bits (pq p 3) 56 0
  else if pType p = tCopy then bits (pq p 4) 56 0
  else if pType p = tCommit then bits (pq p 1) 56 0 else 0

def Meet.packet (m : Meet) (i : Nat) : Nat := m.packets.getD i 0
def Meet.state (m : Meet) (i : Nat) : PState := getD .idle m.states i
def Meet.isDone (m : Meet) (i : Nat) : Bool := m.state i = .done
/-- INDEX of packet i of the list (R220). -/
def Meet.place (m : Meet) (i : Nat) : Nat := if m.grouped then i + 1 else 0
def Meet.total (m : Meet) : Nat := (m.nfield.map fun e => e.2).foldl (· + ·) 0

/-- Packets of a type. -/
def Meet.ofType (m : Meet) (t : Nat) : List Nat := (List.range m.packets.length).filter fun i => pType (m.packet i) = t

/-- No more fields come of a LAUNCH, and those it launched have ended. -/
def Meet.launchOver (m : Meet) (i : Nat) : Bool := i < m.pos && getD 0 m.launchOpen i = 0

/-- The end of a LAUNCH whose record is written later: when every field it produced has retired, in a batch of one when its
meet completes (R220). What the record will say where the LAUNCH came to several ends, R220 leaves open: the first stands
(DESIGN CHOICE, log 69). -/
def State.setFate (s : State) (mid i status reason cause : Nat) : State :=
  s.modMeet mid fun m => { m with fate := put m.fate i (getD (status, reason, cause) m.fate i) }

/-- An end of a LAUNCH inside a batch opened by BEGIN that its record says at once: its warm-up ended it (R220). -/
def endsLaunch (status : Nat) : Bool := status = 4 || status = 5

/-- The record of a LAUNCH waits for its fields (R220); a queue's reset is not waited for. -/
def Meet.defers (m : Meet) (i status : Nat) : Bool :=
  pType (m.packet i) = tLaunch && !m.launchOver i && (!m.grouped || status = 6)

/-- A packet's own record, or the batch record of a batch of one: written once. -/
def State.ownRecord (s : State) (mid i status0 reason0 cause0 nf : Nat) : State :=
  match find s.meets mid with
  | none => s
  | some m =>
    if m.isDone i then s
    else if m.defers i status0 then s.setFate mid i status0 reason0 cause0
    else
      let given := (status0, reason0, cause0)
      let (status, reason, cause) := if m.grouped && endsLaunch status0 then given else getD given m.fate i
      let s1 := s.modMeet mid fun m => { m with states := put m.states i .done, recorded := m.recorded || !m.grouped }
      let v := recordBits status reason cause (pTag (m.packet i)) nf (m.place i)
      if m.grouped then s1.owe m.queue mid i (pCompl (m.packet i)) v
      else if m.recorded then s1 else s1.owe m.queue mid i m.compl v

/-- A LAUNCH of which no more fields come and every field has retired takes its own record. -/
def State.settleLaunch (s : State) (mid i : Nat) : State :=
  match find s.meets mid with
  | some m =>
    if m.launchOver i && !m.isDone i then s.ownRecord mid i 1 0 0 (getD 0 m.nfield i) else s
  | none => s

/-- Every field of the meet has retired and every COPY has completed (R45, R53). -/
def Meet.complete (m : Meet) : Bool :=
  m.begun && m.packets.length ≤ m.pos && (m.launchOpen.all fun e => e.2 = 0) && (m.ofType tCopy).all fun i => m.isDone i

/-- A complete meet writes its batch record; with its SIGNALs written it is gone. -/
def State.settleMeet (s : State) (mid : Nat) : State :=
  match find s.meets mid with
  | none => s
  | some m =>
    if !m.complete then s
    else
      let s1 := if m.grouped && !m.recorded then
        (s.modMeet mid fun m => { m with recorded := true }).owe m.queue mid m.packets.length m.compl
          (recordBits 1 0 0 m.tag m.total m.index)
      else s
      if (m.ofType tSignal).all fun i => m.isDone i then { s1 with meets := del s1.meets mid } else s1

/-! ### Relays and fields leave (R45, R257, R283) -/

/-- The front end's record of a unit a field drew on (R257). -/
def Field.use (f : Field) (u : UsedUnit) (n : Nat) : Field :=
  { f with used := f.used.filter (fun e => e.1 ≠ u) ++ [(u, n)] }

/-- A squad all of whose heats have retired holds no core resources (R45). -/
def Relay.squadRetired (rl : Relay) (q : Nat) : Bool := (rl.squadHeats q).all fun e => e.2.allExited

/-- The units a resident relay draws on, with their pass counts now: the cores of the squads not retired before, and the
tile array. -/
def State.noteUse (s : State) (rl : Relay) : State :=
  match rl.place with
  | none => s
  | some c =>
    s.modField rl.field fun f =>
      let f1 := (rl.squads.filter fun e => !rl.squadRetired e.1).foldl (fun (f : Field) e => f.use (.core e.2.core) (s.core e.2.core).passes) f
      if rl.pacer.isSome then f1.use (.array c) (s.cluster c).arrayPasses else f1

def Asker.ofRelay (r : Nat) : Asker → Bool
  | .fragment u _ => unitRelay u = some r
  | .engine q _ => q = r
  | .place q => q = r
  | .warm _ => false
  | .front _ => false

/-- A grant ends: the oscillator returns to the nominal clock (R19, R283). -/
def Cluster.endGrant (c : Cluster) : Cluster := { c with grant := none, mhz := min c.mhz 2700 }

/-- Grants whose context has no relay left on the cluster end (R283). -/
def State.sweepGrants (s : State) : State :=
  { s with clusters := s.clusters.map fun e =>
      match e.2.grant with
      | some g =>
        let held : Bool := s.relays.any fun r => r.2.place = some e.1 && match find s.fields r.2.field with
          | some f => f.ctx = g.ctx
          | none => false
        if held then e else (e.1, e.2.endGrant)
      | none => e }

/-- The records of a writer that has gone with its relay keep what it gave (R175, R179). -/
def State.keepGives (s : State) (rest : State) : State :=
  { rest with records := rest.records.map fun e =>
      match e.2.agent with
      | some w =>
        if (rest.agentTable e.2.epoch w).isNone && (s.agentTable e.2.epoch w).isSome then
          (e.1, { e.2 with chain := addLink ⟨w, 0xFFFFFFFF#32, e.2.rscope, givesOf (s.agentTable e.2.epoch w) w e.2.count⟩ e.2.chain })
        else e
      | none => e }

/-- Remove relays with everything that is theirs. -/
def State.dropRelays (s : State) (p : Nat → Relay → Bool) : State :=
  let gone := s.relays.filter fun e => p e.1 e.2
  let s1 := gone.foldl (fun s e => ((s.noteUse e.2).freeRegion e.2.backing).freeRegion e.2.save) s
  (s1.keepGives { s1 with
    relays := s1.relays.filter fun e => !p e.1 e.2,
    walks := s1.walks.filter fun w => !gone.any fun e => Asker.ofRelay e.1 w.2.who }).sweepGrants

/-- A retired field with nothing provisional and nothing suspect is forgotten (R257). -/
def State.tidyField (s : State) (fid : Nat) : State :=
  match find s.fields fid with
  | some f => if f.ended ≠ .live && f.used.isEmpty && !f.suspect then { s with fields := del s.fields fid } else s
  | none => s

/-- A field has ended: its LAUNCH and its meet may be complete (R45, R50). Whether a field ended under R50 counts as
retired for its meet R53 does not say: here it does, so that the meet completes, its batch record takes STATUS 0x01 and its
SIGNALs are performed (DESIGN CHOICE, log 69). -/
def State.fieldOver (s : State) (fid : Nat) (why : FieldEnd) : State :=
  match find s.fields fid with
  | none => s
  | some f =>
    if f.ended ≠ .live then s
    else
      let s1 := s.modField fid fun f => { f with ended := why }
      let s2 := s1.modMeet f.meet fun m =>
        { m with launchOpen := put m.launchOpen f.packet (getD 0 m.launchOpen f.packet - 1) }
      let nf := match find s2.meets f.meet with
        | some m => getD 0 m.nfield f.packet
        | none => 0
      let s3 := if why = .lost then s2.ownRecord f.meet f.packet 6 5 0 nf else s2
      ((s3.settleLaunch f.meet f.packet).settleMeet f.meet).tidyField fid

/-! ### Stopped units and queue reset (R242, R263) -/

/-- A KIND 0x3 entry (R251). -/
def State.logStopped (s : State) (f : Field) (lin level squad heat mask cause : Nat) : State :=
  s.logTo (fieldPort f) (logQ0 f.queue f.ctx f.tag false cause 3) lin (logQ2 level 0 0 squad heat mask) 0
    ⟨3, f.ctx, none, 0, 0#4⟩

/-- A participant list's entry names a relay of the field that has not retired (R298). -/
def State.isNamed (s : State) (e : Nat × Field) (n : Nat) : Bool :=
  e.2.ended = .live && entryDevice n = s.dev.domain && e.2.ctx = entryCtx n && entryLin n < e.2.total &&
  (!e.2.placed.contains (entryLin n) || s.relays.any fun r => r.2.field = e.1 && r.2.linear = entryLin n)

/-- That relay has placed a command of the group. -/
def State.hasPlaced (s : State) (fid cgrp n : Nat) : Bool :=
  s.relays.any fun r => r.2.field = fid && r.2.linear = entryLin n && (r.2.queue 9).items.any fun it =>
    match it with
    | .command d => d.cgrp = cgrp
    | .marker _ => false

/-- A field that goes holds a participant of a command's group: its relay has placed a command of the group, or no field that
stays has a relay that could be meant. -/
def State.losesPeer (s : State) (gone : Nat → Bool) (c : Command) : Bool :=
  c.group.any fun n => s.fields.any fun e => gone e.1 && s.isNamed e n &&
    (s.hasPlaced e.1 c.cgrp n || !s.fields.any fun y => !gone y.1 && s.isNamed y n)

/-- Collectives in which relays of fields that go take part abort with a status at every participant that stays, whether the
others have placed their command or not: at the head of its queue at once, else in its turn (R213, R242). -/
def State.abortCollectives (s : State) (gone : Nat → Bool) (status : Nat) : State :=
  let hit (c : Command) : Bool := s.losesPeer gone c
  let mark (it : QItem) : QItem := match it with
    | .command c => if c.aborted.isNone && c.result.isNone && hit c then .command { c with aborted := some status } else it
    | it => it
  let after (rl : Relay) : Relay :=
    let q := rl.queue 9
    if gone rl.field || q.items.isEmpty then rl else rl.setQueue 9 { q with items := q.items.map mark }
  let s1 : State := { s with relays := s.relays.map fun e => (e.1, after e.2) }
  s1.relays.foldl (fun (s : State) e =>
    match if gone e.2.field then none else e.2.head 9 with
    | some c => if c.aborted.isSome && e.2.active && e.2.guardOf c = Guard.yes then s.endCollective e.1 c status else s
    | none => s) s1

/-- Start a queue's reset: its packets are discarded, its warm-up ends, its fields stop (R242, steps 1 to 3). -/
def State.startReset (s : State) (qid : Nat) : State :=
  match find s.queues qid with
  | none => s
  | some _ =>
    let mine (fid : Nat) : Bool := match find s.fields fid with
      | some f => f.queue = qid
      | none => false
    let s1 := (s.abortCollectives mine 6).dropRelays fun _ rl => mine rl.field
    let s2 := s1.modQueue qid fun q => { q with resetting := true, resetDone := false, pending := [] }
    { s2 with
      warms := del s2.warms qid, walks := s2.walks.filter (fun e => e.2.who ≠ .warm qid && e.2.who ≠ .front qid),
      fields := s2.fields.map fun e =>
        (e.1, if e.2.queue = qid && e.2.ended = .live then { e.2 with ended := .reset } else e.2) }

/-- A non-replayable cause after validation, or a queue's state lost: a reset and a KIND 0x3 entry, LEVEL 3. -/
def State.failQueue (s : State) (qid cause : Nat) : State :=
  match find s.queues qid with
  | none => s
  | some q =>
    (s.startReset qid).logTo (queuePort qid) (logQ0 qid q.context 0 false cause 3) 0 (logQ2 3 0 0 0 0 0) 0
      ⟨3, q.context, none, 0, 0#4⟩

/-- A meet's packets that have not taken their record yet, with the batch record. -/
def State.oweReset (s : State) (mid : Nat) : State :=
  match find s.meets mid with
  | none => s
  | some m =>
    let own := (List.range m.packets.length).filter fun i => !m.isDone i && pCompl (m.packet i) ≠ 0 && m.grouped
    let s1 := own.foldl (fun s i => s.ownRecord mid i 7 0 0 (getD 0 m.nfield i)) s
    let s2 := if m.recorded then s1 else s1.owe m.queue mid m.packets.length m.compl (recordBits 7 0 0 m.tag m.total m.index)
    { s2 with meets := del s2.meets mid }

/-! ### Teardown and the end of a context (R129, R153, R264, R296) -/

/-- Translations of a context leave every cache. -/
def State.dropTlb (s : State) (p : TlbEntry → Bool) : State :=
  { s with
    clusters := s.clusters.map (fun e => (e.1, { e.2 with tlb := e.2.tlb.filter fun t => !p t })),
    cores := s.cores.map (fun e => (e.1, { e.2 with tlb := e.2.tlb.filter fun t => !p t })) }

/-- The context ends; its frames are zeroed and unassigned, those quarantined stay so (R266, R296), and the entries of the
logs that name it name nothing any more (R252). -/
def State.endContext (s : State) (c : Nat) : State :=
  let mine := (s.frames.filter fun e => e.2.owner = .ctx c).map fun e => e.1
  let s1 := mine.foldl (fun s n => s.zeroFrames n 1) s
  let s2 := mine.foldl (fun s n =>
    s.setFrame n { s.frame n with owner := .none, attr := if (s.frame n).quarantined then (s.frame n).attr else 0#2 }) s1
  let drop (ps : PortState) : PortState := { ps with log := ps.log.filter fun e => e.2.ctx ≠ c }
  ({ s2 with
    ctxs := del s2.ctxs c, walks := s2.walks.filter (fun e => e.2.ctx ≠ c), port0 := drop s2.port0,
    port1 := drop s2.port1 } : State).dropTlb fun t => t.ctx = c

/-- VX_TDSTAT takes a teardown while it reports none (R265). -/
def tdstat (old : Word64) (cause nframes ctx : Nat) : Word64 :=
  if old.getLsbD 63 then old
  else BitVec.ofNat 64 (pack [(15, ctx), (1, 0), (24, min nframes (2 ^ 24 - 1)), (7, cause), (16, 0), (1, 1)])

/-- The queues of a context. -/
def State.queuesOf (s : State) (c : Nat) : List Nat := (s.queues.filter fun e => e.2.context = c).map fun e => e.1

/-- A queue goes, with its warm-up, meets and fields. -/
def State.dropQueues (s : State) (qs : List Nat) : State :=
  { s with
    warms := s.warms.filter (fun e => !qs.contains e.1), meets := s.meets.filter (fun e => !qs.contains e.2.queue),
    fields := s.fields.filter (fun e => !qs.contains e.2.queue), queues := s.queues.filter fun e => !qs.contains e.1 }

/-- Everything of a context stops, and its queues go; participants elsewhere lose a peer (R213, R264, steps 1 to 4). -/
def State.stopContext (s : State) (c : Nat) : State :=
  let mine (fid : Nat) : Bool := match find s.fields fid with
    | some f => f.ctx = c
    | none => false
  (((s.abortCollectives mine 4).dropRelays fun _ rl => mine rl.field).dropQueues (s.queuesOf c))

/-- Tear down a context under a cause, quarantining frames (R264). -/
def State.teardown (s : State) (c cause : Nat) (frames : List Nat) : State :=
  match find s.ctxs c with
  | none => s
  | some _ =>
    let ports := [Port.p0, Port.p1].filter fun p => (s.queuesOf c).any fun q => queuePort q = p
    let s1 := s.stopContext c
    let s2 := frames.foldl (fun s n => s.setFrame n { s.frame n with quarantined := true }) s1
    let s3 := ports.foldl (fun s p =>
      (s.logTo p (logQ0 0 c 0 false cause 4) 0 0 0 ⟨4, c, none, 0, 0#4⟩).modPort p fun ps =>
        { ps with tdstat := tdstat ps.tdstat cause frames.length c }) s2
    s3.endContext c

end Sys2Proof.Machine
end

