-- ==== Sys2Proof/Machine/Wear.lean ====
section
/-! DEFINITION. Wear records: their numbers, layout, CHECK, copies, and rest credit (R268 to R277). -/

namespace Sys2Proof.Machine

/-- KIND (R268). -/
def kindNum : WearKind → Nat
  | .core => 0
  | .pacer => 1
  | .array => 2
  | .slice => 3
  | .link => 4

def kindCount : WearKind → Nat
  | .core => 416
  | .pacer => 104
  | .array => 104
  | .slice => 256
  | .link => 18

/-- Where a unit's record stands among the 898. -/
def wearKey : WearKind → Nat → Nat
  | .core, i => i
  | .pacer, i => 416 + i
  | .array, i => 520 + i
  | .slice, i => 624 + i
  | .link, i => 880 + i

def kindOf (n : Nat) : Option WearKind :=
  match n with
  | 0 => some .core
  | 1 => some .pacer
  | 2 => some .array
  | 3 => some .slice
  | 4 => some .link
  | _ => none

/-- The units, in ascending KIND and INDEX. -/
def wearUnits : List (WearKind × Nat) :=
  [WearKind.core, .pacer, .array, .slice, .link].flatMap fun k => (List.range (kindCount k)).map fun i => (k, i)

/-- The cluster a unit belongs to. -/
def unitCluster : WearKind → Nat → Option Nat
  | .core, i => some (i / 4)
  | .pacer, i => some i
  | .array, i => some i
  | .slice, _ => none
  | .link, _ => none

/-- The units of a cluster: four cores, the pacer, the tile array. -/
def clusterUnits (c : Nat) : List (WearKind × Nat) :=
  (List.range 4).map (fun k => (WearKind.core, 4 * c + k)) ++ [(.pacer, c), (.array, c)]

/-! ### Layout and CHECK (R269) -/

/-- Quadwords 0 to 6 of a record. -/
def WearRec.quads (r : WearRec) (k : WearKind) (i : Nat) : List Nat :=
  [r.bti, r.hci, r.em, r.active, r.rest, r.since,
    pack [(16, r.mon), (2, r.state), (14, 0), (16, i), (3, kindNum k)]]

/-- One bit of the reflected CRC-32 of the IEEE polynomial. -/
def crcBit (c : Nat) : Nat := if c % 2 = 1 then (c / 2) ^^^ 0xEDB88320 else c / 2

def crcByte (c b : Nat) : Nat := (List.range 8).foldl (fun c _ => crcBit c) (c ^^^ b)

/-- CRC-32 over bytes. -/
def crc32 (l : List Nat) : Nat := l.foldl crcByte 0xFFFFFFFF ^^^ 0xFFFFFFFF

/-- The bytes of a number, the lowest first. -/
def numBytes (n : Nat) : Nat → List Nat
  | 0 => []
  | c + 1 => n % 256 :: numBytes (n / 256) c

/-- CHECK, over bytes 0 to 55 and SEQ. -/
def WearRec.crc (r : WearRec) (k : WearKind) (i : Nat) : Nat :=
  crc32 ((r.quads k i).flatMap (fun q => numBytes q 8) ++ numBytes r.seq.toNat 4)

def WearRec.sealed (r : WearRec) (k : WearKind) (i : Nat) : WearRec := { r with check := BitVec.ofNat 32 (r.crc k i) }
def WearRec.checks (r : WearRec) (k : WearKind) (i : Nat) : Bool := r.check.toNat = r.crc k i

/-- Quadword n of a record (R269). -/
def WearRec.quad (r : WearRec) (k : WearKind) (i n : Nat) : Nat :=
  if n = 7 then r.check.toNat * 2 ^ 32 + r.seq.toNat else (r.quads k i).getD n 0

/-! ### The two copies (R270) -/

/-- The unit starts in a spare cluster (R15). -/
def sparedUnit (k : WearKind) (i : Nat) : Bool :=
  match unitCluster k i with
  | some c => 24 ≤ c % 26
  | none => false

/-- A new unit's record, sealed. -/
def wearNew (k : WearKind) (i : Nat) : WearRec := (wearInit (sparedUnit k i)).sealed k i

def State.wearPair (s : State) (k : WearKind) (i : Nat) : WearPair :=
  match find s.wear (wearKey k i) with
  | some p => p
  | none => ⟨wearNew k i, wearNew k i⟩

/-- SEQ a comes before SEQ b, counted modulo 2^32: the two copies of a record are one write apart (R269, R270). -/
def seqBefore (a b : Word32) : Bool := a ≠ b && (b - a).toNat < 2 ^ 31

/-- The copy with the later SEQ whose CHECK is right; none where neither checks. -/
def WearPair.load (p : WearPair) (k : WearKind) (i : Nat) : Option WearRec :=
  match p.a.checks k i, p.b.checks k i with
  | true, true => some (if seqBefore p.a.seq p.b.seq then p.b else p.a)
  | true, false => some p.a
  | false, true => some p.b
  | false, false => none

/-- The unit's record as it stands; of a unit neither of whose copies checks, a retired one (R270). -/
def State.wearRec (s : State) (k : WearKind) (i : Nat) : WearRec :=
  match find s.wear (wearKey k i) with
  | some p => (p.load k i).getD { p.a with state := 2 }
  | none => wearInit (sparedUnit k i)

/-- The record as it is read, CHECK included. -/
def State.wearShown (s : State) (k : WearKind) (i : Nat) : WearRec :=
  match find s.wear (wearKey k i) with
  | some _ => s.wearRec k i
  | none => wearNew k i

/-- Write a record: SEQ rises, and the copy with the older SEQ takes it. -/
def State.writeWear (s : State) (k : WearKind) (i : Nat) (r : WearRec) : State :=
  let p := s.wearPair k i
  let n := ({ r with seq := r.seq + 1#32 } : WearRec).sealed k i
  let old : Bool := match p.a.checks k i, p.b.checks k i with
    | false, _ => true
    | true, false => false
    | true, true => seqBefore p.a.seq p.b.seq
  { s with wear := put s.wear (wearKey k i) (if old then { p with a := n } else { p with b := n }) }

def State.modWear (s : State) (k : WearKind) (i : Nat) (g : WearRec → WearRec) : State :=
  s.writeWear k i (g (s.wearRec k i))

/-! ### Rest (R272, R273) -/

/-- A rest of c cycles ends. -/
def WearRec.credit (r : WearRec) (c : Nat) (reversed : Bool) : WearRec :=
  let cap0 := c * 2 ^ 29 / 9720000000000
  let cap := if reversed then 2 * cap0 else cap0
  let n := min (3 * r.since / 10) cap
  { r with bti := r.bti - n, rest := (r.rest + n) % 2 ^ 48, since := 0 }

def State.endRest (s : State) (k : WearKind) (i c : Nat) (reversed : Bool) : State :=
  s.modWear k i fun r => r.credit c reversed

/-- The units of a cluster take a state in their records. -/
def State.markUnits (s : State) (c st : Nat) : State :=
  (clusterUnits c).foldl (fun s u => s.modWear u.1 u.2 fun r => { r with state := st }) s

end Sys2Proof.Machine
end

