-- ==== Sys2Proof/Machine/Distrib.lean ====
section
/-! DEFINITION. The distributor: room on a cluster, classes and partitions, placement, eviction, migration, retirement,
and the call-up of spares (R21 to R29, R39 to R41, R45 to R55, R147, R196, R210, R225, R229, R233 to R241, R284). -/

namespace Sys2Proof.Machine

/-! ### Room (R39 to R41) -/

/-- The core is the one of its rotation group that is in rotation. -/
def State.inRotation (s : State) (p : Nat) : Bool :=
  s.rot.any fun e => !e.2.slices && e.2.current = p && e.2.members.contains p

/-- The cores of a cluster in service. -/
def State.coresOf (s : State) (c : Nat) : List Nat :=
  ((List.range 4).map fun k => 4 * c + k).filter fun p => !s.inRotation p

/-- Fragment entries that a squad's heats hold, overflow fragments apart. -/
def Relay.squadFids (rl : Relay) (q : Nat) : List Nat :=
  (rl.squadHeats q).flatMap fun e => (e.2.frags.map fun f => f.1).filter fun n => n < 256

/-- What is taken on a core. -/
structure CoreUse where
  core : Nat
  slots : List Nat
  regs : Nat
  fids : List Nat
deriving DecidableEq, Repr

/-- What resident relays other than `r` take on a core. -/
def State.coreUse (s : State) (r : Option Nat) (p : Nat) : CoreUse :=
  s.relays.foldl (fun (u : CoreUse) e =>
    if e.2.place.isNone || r = some e.1 then u
    else
      let (h, v) := match find s.fields e.2.field with
        | some f => (hdrSquad f, hdrRegs f)
        | none => (0, 0)
      e.2.squads.foldl (fun (u : CoreUse) sq =>
        if sq.2.core ≠ p || e.2.squadRetired sq.1 then u
        else { u with slots := u.slots ++ sq.2.slots, regs := u.regs + h * v, fids := u.fids ++ e.2.squadFids sq.1 }) u)
    ⟨p, [], 0, []⟩

/-- The lowest free heat slots. -/
def CoreUse.free (u : CoreUse) : List Nat := (List.range 64).filter fun i => !u.slots.contains i

/-- What a squad asks of a core: heat slots, registers, the fragment entries it brings, and where it stands. -/
structure Claim where
  key : Nat
  heats : Nat
  regs : Nat
  fids : List Nat
  home : Option (Nat × List Nat)
deriving DecidableEq, Repr

/-- The core holds the squad (R39, R40, R54). -/
def CoreUse.holds (u : CoreUse) (z : Claim) : Bool :=
  z.heats ≤ u.free.length && u.regs + z.heats * z.regs ≤ 4096 && z.fids.all fun n => !u.fids.contains n

/-- The slots a squad takes on a core: its own where it stays, else the lowest free. -/
def CoreUse.pick (u : CoreUse) (z : Claim) : List Nat :=
  match z.home with
  | some (p, l) => if p = u.core && l.all u.free.contains then l else u.free.take z.heats
  | none => u.free.take z.heats

def CoreUse.add (u : CoreUse) (z : Claim) : CoreUse :=
  { u with slots := u.slots ++ u.pick z, regs := u.regs + z.heats * z.regs, fids := u.fids ++ z.fids }

/-- The squad takes its place on a core. -/
def takeCore (us : List CoreUse) (u : CoreUse) (z : Claim) : List CoreUse :=
  us.map fun x => if x.core = u.core then u.add z else x

/-- Squads alike go to the first core that holds each: key, core, slots. -/
def fill : List Claim → List CoreUse → Option (List (Nat × Nat × List Nat))
  | [], _ => some []
  | z :: rest, us =>
    match us.find? fun u => u.holds z with
    | none => none
    | some u => (fill rest (takeCore us u z)).map fun l => (z.key, u.core, u.pick z) :: l

/-- The cores in the order in which a squad tries them: the one it stands on first. -/
def Claim.order (z : Claim) (us : List CoreUse) : List CoreUse :=
  match z.home with
  | some (p, _) => (us.filter fun u => u.core = p) ++ us.filter fun u => u.core ≠ p
  | none => us

/-- Assign squads to cores in every way until one holds them all, squads alike last (R40, R234). -/
def assign (alike : List Claim) : List Claim → List CoreUse → Option (List (Nat × Nat × List Nat))
  | [], us => fill alike us
  | z :: rest, us =>
    (z.order us).findSome? fun u =>
      if u.holds z then (assign alike rest (takeCore us u z)).map fun l => (z.key, u.core, u.pick z) :: l else none

/-- The claims of a field's squads, each with its fragment entries: those with entries, and those alike. -/
def claimsOf (f : Field) (squads : List (Nat × List Nat)) : List Claim × List Claim :=
  let l : List Claim := squads.map fun e => ⟨e.1, hdrSquad f, hdrRegs f, e.2, none⟩
  (l.filter fun z => !z.fids.isEmpty, l.filter fun z => z.fids.isEmpty)

/-- Seats for a field's squads on cores. -/
def seats (f : Field) (squads : List (Nat × List Nat)) (us : List CoreUse) : Option (List (Nat × Nat × List Nat)) :=
  assign (claimsOf f squads).2 (claimsOf f squads).1 us

/-- The resident relays of a cluster, other than `r`. -/
def State.residents (s : State) (c : Nat) (r : Option Nat) : List (Nat × Relay) :=
  s.relays.filter fun e => e.2.place = some c && r ≠ some e.1

def State.fieldSum (s : State) (l : List (Nat × Relay)) (g : Field → Nat) : Nat :=
  (l.map fun e => match find s.fields e.2.field with
    | some f => g f
    | none => 0).foldl (· + ·) 0

/-- Relay slots, scratch, banks and the pacer of a cluster hold one more relay of the field (R39, R40). -/
def State.clusterRoom (s : State) (c : Nat) (f : Field) (r : Option Nat) : Bool :=
  let l := s.residents c r
  l.length < 8 && s.fieldSum l scratchRounded + scratchRounded f ≤ 4194304 &&
  s.fieldSum l ownedBanks + ownedBanks f ≤ 32 && !(hdrHasPacer f && l.any fun e => e.2.pacer.isSome)

/-- A place for squads on a cluster, relay `r` counted as gone; which core is tried first is the device's choice. -/
def State.fitOn (s : State) (c : Nat) (f : Field) (squads : List (Nat × List Nat)) (r : Option Nat) :
    Option (List (Nat × Nat × List Nat)) :=
  if s.clusterRoom c f r then
    seats f squads ((rotated (s.coresOf c) (s.freeNat 6)).map fun p => s.coreUse r p)
  else none

/-! ### Classes and partitions (R225, R233, R234) -/

def State.actives (s : State) : List Nat := clusterIds.filter fun c => (s.cluster c).status = .active

/-- The quarantine partition, while a quarantined field is pending or resident (R225). -/
def State.quarPart (s : State) : List Nat :=
  if s.fields.any fun e => e.2.quar && e.2.ended = .live then s.actives.drop (s.actives.length - 4) else []

/-- The clusters outside the quarantine partition, lowest first; the first RTRES of them are reserved. -/
def State.openPart (s : State) : List Nat := s.actives.filter fun c => !s.quarPart.contains c

def State.isRt (s : State) (f : Field) : Bool :=
  match find s.queues f.queue with
  | some q => q.rt
  | none => false

/-- The partition of a field's class. -/
def State.partition (s : State) (f : Field) : List Nat :=
  if f.quar then s.quarPart
  else if s.isRt f then (if s.dev.rtres = 0 then s.openPart else s.openPart.take s.dev.rtres)
  else s.openPart.drop s.dev.rtres

def State.relayQuar (s : State) (rl : Relay) : Bool :=
  match find s.fields rl.field with
  | some f => f.quar
  | none => false

def State.relayQueue (s : State) (rl : Relay) : Nat :=
  match find s.fields rl.field with
  | some f => f.queue
  | none => 0

/-- The quarantined queues with pending or resident work, in ascending order. -/
def State.quarQueues (s : State) : List Nat :=
  (s.queues.map fun e => e.1).filter fun q => s.fields.any fun e => e.2.queue = q && e.2.quar && e.2.ended = .live

/-- The queue that has the partition: the last that had it while it has work, then the next in order (R225). -/
def State.quarTurn (s : State) : Option Nat :=
  let l := s.quarQueues
  (l.find? fun q => s.dev.quarTurn ≤ q) <|> l.head?

/-- The queue that has the partition keeps it while it has work, whichever queue is quarantined after it (R225). -/
def State.holdTurn (s : State) : State :=
  { s with dev := { s.dev with quarTurn := s.quarTurn.getD s.dev.quarTurn } }

/-- The turn passes to the next queue in order. -/
def State.passTurn (s : State) : State :=
  let l := s.quarQueues
  match s.quarTurn with
  | some q =>
    { s with dev := { s.dev with quarTurn := ((l.find? fun n => q < n) <|> l.head?).getD 0 } }
  | none => s

/-- Who shares a cluster: quarantined work of one queue at a time, and nobody else with it. -/
def State.company (s : State) (c : Nat) (f : Field) (r : Option Nat) : Bool :=
  if f.quar then
    s.quarTurn = some f.queue && ((s.residents c r).all fun e => s.relayQuar e.2) &&
    s.relays.all fun e => e.2.place.isNone || !s.relayQuar e.2 || s.relayQueue e.2 = f.queue || r = some e.1
  else (s.residents c r).all fun e => !s.relayQuar e.2

/-- The context's map names the cluster (R26). -/
def State.mapped (s : State) (f : Field) (c : Nat) : Option Nat :=
  match find s.ctxs f.ctx with
  | some cx => (cx.lmap.find? fun e => e.2 = c).map fun e => e.1
  | none => none

/-- The tile array has passed a scan within its last 2^33 cycles. -/
def Cluster.arrayFresh (c : Cluster) : Bool := c.cyc.toNat - c.arrayPass ≤ 2 ^ 33

/-- Eligibility but for room (R234). -/
def State.eligible (s : State) (c : Nat) (f : Field) (r : Option Nat) : Bool :=
  let cl := s.cluster c
  (s.partition f).contains c && s.company c f r && hottest cl.coreTemps < 95 && (!hdrHasPacer f || cl.arrayFresh)

/-! ### The score (R235) -/

/-- The stress of a cluster's four cores. -/
def State.wearOf (s : State) (c : Nat) : Nat :=
  ((List.range 4).map fun k =>
    let r := s.wearRec .core (4 * c + k)
    r.bti + r.hci + r.em).foldl (· + ·) 0

def State.score (s : State) (c : Nat) (f : Field) (r : Option Nat) : Int :=
  let free : Nat := ((s.coresOf c).map fun p => (s.coreUse r p).free.length).foldl (· + ·) 0
  let tpen : Nat := 8 * (hottest (s.cluster c).coreTemps - 70).toNat
  let wmin : Nat := ((s.actives.map fun d => s.wearOf d).min?).getD 0
  let wpen : Nat := min 64 ((s.wearOf c - wmin) / 2 ^ 38)
  (free : Int) - hdrSquad f * hdrRelay f - tpen - wpen

/-- The best of the clusters that hold the work: the highest score, the lowest number. -/
def State.best (s : State) (f : Field) (squads : List (Nat × List Nat)) (r : Option Nat) (ok : Nat → Bool) :
    Option (Nat × List (Nat × Nat × List Nat)) :=
  (clusterIds.foldl (fun (best : Option (Int × Nat × List (Nat × Nat × List Nat))) c =>
    if !ok c || !s.eligible c f r then best
    else
      match s.fitOn c f squads r with
      | none => best
      | some a =>
        let v := s.score c f r
        match best with
        | some b => if b.1 < v then some (v, c, a) else best
        | none => some (v, c, a)) none).map fun b => b.2

/-! ### Moves (R29, R54, R147, R196, R210, R237) -/

/-- At a squad boundary no plain instruction is in flight: those outstanding complete (R29). -/
def Strand.settled (x : Strand) : Strand := x.landWhere fun _ => true

/-- Nor is a bank's transition or a FENCE: its unit goes on; a word that waits for a page has not issued (R29, R141,
R143, R389). A FENCE in a window travels with that. -/
def Strand.unwait (x : Strand) : Strand :=
  match x.waiting with
  | .fence _ _ _ _ => ({ x with inflight := 0 } : Strand).passFence
  | .bank _ => { x with waiting := .none }
  | .page _ => { x with waiting := .none }
  | _ => x

/-- The bank transitions that heats of the relay are in, or all of them, end. -/
def Relay.endTransitions (rl : Relay) (p : Nat → Bool) : Relay :=
  { rl with banks := rl.banks.map fun e => (e.1, if p e.1 then { e.2 with busy := false } else e.2) }

/-- A relay leaves its cluster: scratch goes to backing, pins and write records go, the array's entry is abandoned. -/
def Relay.leave (rl : Relay) : Relay :=
  let rl1 := rl.abandon.endTransitions fun _ => true
  { rl1 with
    heats := rl1.heats.map (fun e => (e.1, e.2.settled.unwait)), pacer := rl1.pacer.map fun x => x.settled.unwait,
    pages := rl1.pages.map (fun e => (e.1, { e.2 with resident := false, pinned := false, dirty := false, frame := 0 })),
    backing := { rl1.backing with written := rl1.backing.written || rl1.pages.any fun e => e.2.resident && e.2.dirty },
    save := { rl1.save with written := true }, records := dropRecs (fun _ => rl.tableOf) (fun _ => true) rl1.records, place := none }

/-- The number of a fragment whose heat now has another slot (R54). -/
def movedFid (slot n : Nat) : Nat := if 0x100 ≤ n then 0x100 + slot else n

/-- The overflow fragment takes the number of the heat's new slot; other fragments keep theirs (R54). -/
def Strand.rename (x : Strand) (slot : Nat) : Strand :=
  { x with
    frags := x.frags.map (fun e => (movedFid slot e.1, e.2)),
    lanes := x.lanes.map fun e => (e.1, { e.2 with frag := e.2.frag.map (movedFid slot) }) }

/-- The slots that an assignment gives a squad, with its core. -/
def seatOf (a : List (Nat × Nat × List Nat)) (q : Nat) : Option (Nat × List Nat) :=
  (a.find? fun e => e.1 = q).map fun e => e.2

/-- Squads take their cores and slots; everything else of them is as it was (R22, R54). -/
def Relay.seat (rl : Relay) (c : Nat) (a : List (Nat × Nat × List Nat)) : Relay :=
  { rl with
    place := some c,
    squads := rl.squads.map (fun e => match seatOf a e.1 with
      | some p => (e.1, { e.2 with core := p.1, slots := p.2 })
      | none => e),
    heats := rl.heats.map fun e => match seatOf a (e.1 / 32) with
      | some p => (e.1, e.2.rename (p.2.getD (e.1 % 32) 0))
      | none => e }

/-- The walks of overflow fragments follow them (R54). -/
def State.seatWalks (s : State) (r : Nat) (a : List (Nat × Nat × List Nat)) : State :=
  { s with walks := s.walks.map fun e =>
      match e.2.who with
      | .fragment (.heat r1 q h) fid =>
        match (if r1 = r then seatOf a q else none) with
        | some p => (e.1, { e.2 with who := .fragment (.heat r1 q h) (movedFid (p.2.getD h 0) fid) })
        | none => e
      | _ => e }

/-- A fragment's entry keeps its generation on the core it moves to (R54). -/
def State.seatGens (s : State) (rl : Relay) : State :=
  rl.squads.foldl (fun s sq =>
    (rl.squadHeats sq.1).foldl (fun s e =>
      e.2.frags.foldl (fun s f =>
        s.setCore sq.2.core { s.core sq.2.core with gens := put (s.core sq.2.core).gens f.1 f.2.gen }) s) s) s

/-- The squads of a relay that still hold core resources, with their fragments. -/
def Relay.toSeat (rl : Relay) : List (Nat × List Nat) :=
  (rl.squads.filter fun e => !rl.squadRetired e.1).map fun e => (e.1, rl.squadFids e.1)

/-- Each unit that holds a PGPIN pins its whole range afresh (R428). -/
def Relay.pinAgain (rl : Relay) : Relay :=
  let pins (x : Strand) (rl : Relay) : Relay := match x.waiting with
    | .pins a n => rl.setPins (span a n) true
    | _ => rl
  let rl1 := match rl.pacer with
    | some x => pins x rl
    | none => rl
  rl1.heats.foldl (fun rl e => pins e.2 rl) rl1

/-- A relay is saved and leaves its cluster (R147, R237, R243). -/
def State.saveRelay (s : State) (r : Nat) : State :=
  match find s.relays r with
  | none => s
  | some rl =>
    let area := match find s.fields rl.field with
      | some f => rl.saveArea f
      | none => rl.save
    (s.noteUse rl).paged r ({ rl with save := area } : Relay).leave

/-- A relay leaves residency. -/
def State.evict (s : State) (r : Nat) : State := (s.saveRelay r).sweepGrants

/-- Squads of a relay stand on cores of a cluster. -/
def State.seated (s : State) (r c : Nat) (a : List (Nat × Nat × List Nat)) : State :=
  let s1 := (s.seatWalks r a).modRelay r fun rl => rl.seat c a
  match find s1.relays r with
  | some rl => (s1.seatGens rl).noteUse rl
  | none => s1

/-- A relay is restored on a cluster, after it left residency or another one; a save area that has failed tears its
context down (R244). -/
def State.settle (s : State) (r c : Nat) (a : List (Nat × Nat × List Nat)) : State :=
  match find s.relays r with
  | none => s
  | some rl =>
    if rl.save.bad then
      match find s.fields rl.field with
      | some f => s.teardown f.ctx 0x5C rl.save.frames
      | none => s
    else (s.seated r c a).modRelay r Relay.pinAgain

/-- A lane that lets its squad leave: held at YIELD.POINT or at a barrier, parked, or exited (R240). -/
def Lane.yields (l : Lane) : Bool :=
  l.ls = .parked || l.ls = .exited ||
  match l.held with
  | some .yieldPoint => true
  | some (.bar _) => true
  | some (.barw _) => true
  | some .rbar => true
  | _ => false

def Relay.coop (rl : Relay) (q : Nat) : Bool := (rl.squadHeats q).all fun e => laneIds.all fun i => (e.2.lane i).yields

/-- A relay is resident again after it left: its squads' slices begin anew, and the yield that took it out is over (R238,
R240). -/
def Relay.renewed (rl : Relay) : Relay :=
  { rl with squads := rl.squads.map fun e =>
      (e.1, { e.2 with expired := none, yreq := false, deadline := false, evicting := false }) }

/-- Every squad asked to leave has yielded or met its deadline. -/
def Relay.readyToLeave (rl : Relay) : Bool :=
  (rl.squads.any fun e => e.2.evicting) &&
  rl.squads.all fun e => rl.squadRetired e.1 || (e.2.evicting && (e.2.deadline || rl.coop e.1))

/-- The relays that leave with a relay: of a concurrent field all of them (R50, R55). -/
def State.together (s : State) (r : Nat) : List Nat :=
  match find s.relays r with
  | none => []
  | some rl =>
    match find s.fields rl.field with
    | some f =>
      if f.mode = 2 then (s.relays.filter fun e => e.2.field = rl.field && e.2.place.isSome).map fun e => e.1 else [r]
    | none => [r]

/-- A relay that has yielded, and leaves a cluster a core of which reads 95 °C, leaves once for both (R241). -/
def State.leavesOnce (s : State) (r : Nat) : Bool :=
  s.together r = [r] && (find s.relays r).any fun rl =>
    rl.readyToLeave && rl.place.any fun c => 95 ≤ hottest (s.cluster c).coreTemps

/-- Move a resident relay to another cluster. It keeps all its state (R22, R237), but one that leaves once for a yield and
for 95 °C stands there anew (R241). -/
def State.moveRelay (s : State) (r c : Nat) (a : List (Nat × Nat × List Nat)) : State :=
  let s1 := (s.saveRelay r).settle r c a
  (if s.leavesOnce r then s1.modRelay r Relay.renewed else s1).sweepGrants

/-- Move squads of a relay between the cores of its cluster: each squad alone, at its boundary (R54). -/
def State.moveSquads (s : State) (r c : Nat) (a : List (Nat × Nat × List Nat)) : State :=
  let moves (k : Nat) : Bool := (seatOf a (k / 32)).isSome
  let s1 := s.modRelay r fun rl =>
    let busy := (rl.heats.filter fun e => moves e.1).filterMap fun e => match e.2.waiting with
      | .bank b => some b
      | _ => none
    let rl1 := rl.endTransitions busy.contains
    { rl1 with heats := rl1.heats.map fun e => (e.1, if moves e.1 then e.2.settled.unwait else e.2) }
  s1.seated r c a

/-! ### Placement (R49, R50, R229, R235) -/

/-- A relay of the field that has left residency and not returned. -/
def State.evicted (s : State) (fid : Nat) : List (Nat × Relay) :=
  s.relays.filter fun e => e.2.field = fid && e.2.place.isNone

/-- The order of the field's mode allows a first placement of this index. -/
def State.mayPlace (s : State) (fid : Nat) (f : Field) (lin : Nat) : Bool :=
  f.ended = .live && !f.stopped && lin < f.total && !f.placed.contains lin &&
  (f.mode ≠ 1 || (lin = f.placed.length && (s.evicted fid).all fun e => lin < e.2.linear))

/-- An evicted relay may return. R49 orders a parallel field's evicted relays only against first placements of higher
indices; among themselves the model lets the lowest index return first (DESIGN CHOICE, log 70). -/
def State.mayReturn (s : State) (fid : Nat) (f : Field) (rl : Relay) : Bool :=
  f.ended = .live && !f.stopped && !rl.stopped && rl.place.isNone && (f.mode ≠ 1 || (s.evicted fid).all fun e => rl.linear ≤ e.2.linear)

/-- A read of memory for the placement of a field's relay draws on a slice (R257). -/
def State.drawFor (s : State) (who : Asker) (pa : Nat) : State :=
  match who with
  | .place fid => s.drawSlice fid pa
  | _ => s

/-- One entry of the capability table, as CLD reads it; untagged where its page is not to be had (R229). -/
def State.tableCap (s : State) (who : Asker) (c n : Nat) : State × Option Cap :=
  match find s.ctxs c with
  | none => (s, some capNull)
  | some cx =>
    match s.seek who c ((cx.capRoot + 16 * n) % 2 ^ 57) false with
    | (s1, .hit pa e) => (s1.drawFor who pa, some ⟨BitVec.ofNat 128 (s1.readMem pa 16), e.cap && s1.tag pa⟩)
    | (s1, .miss) => (s1, none)
    | (s1, .busy) => (s1, none)
    | (s1, .cause _) => (s1, some capNull)

/-- The launch capabilities; none while a page of theirs is still to be mapped. -/
def State.launchCaps (s : State) (who : Asker) (c base : Nat) : Nat → State × Option (List Cap)
  | 0 => (s, some [])
  | n + 1 =>
    match s.launchCaps who c base n with
    | (s1, none) => (s1, none)
    | (s1, some l) =>
      match s1.tableCap who c (base + n) with
      | (s2, some cap) => (s2, some (l ++ [cap]))
      | (s2, none) => (s2, none)

def listed (l : List (Nat × Nat × List Nat)) (lc : Nat) : AMap Squad :=
  l.map fun e => (e.1, squadStart e.2.1 (4 * lc + e.2.1 % 4) e.2.2)

/-- A relay with the regions that the front end takes for it (R142, R243). -/
def State.withRegions (s : State) (f : Field) (rl : Relay) : State × Relay :=
  let b := s.takeRegion f.ctx [scratchRounded f]
  let a := b.1.takeRegion f.ctx (rl.saveMost f)
  (a.1, { rl with backing := b.2, save := { a.2 with parts := layOut 0 (rl.saveSizes f) } })

/-- Memory holds the regions of one more relay of the field. DESIGN CHOICE, entry 30: R142 does not say what the front end
does where the frames are too few, and a relay waits until they suffice. -/
def State.holdsRegions (s : State) (f : Field) (rl : Relay) : Bool :=
  (s.areaTier (framesFor [scratchRounded f] + framesFor (rl.saveMost f))).isSome

/-- A relay's first placement: it waits where memory has no room for its backing and save area. -/
def State.placeRelay (s : State) (fid : Nat) (f : Field) (lin : Nat) : State :=
  match s.best f ((List.range (hdrRelay f)).map fun q => (q, [])) none fun c => (s.mapped f c).isSome with
  | none => s
  | some (c, a) =>
    match s.launchCaps (.place fid) f.ctx f.capBase f.ncap with
    | (s1, none) => s1
    | (s1, some caps) =>
      let lc := (s.mapped f c).getD 0
      let id := s1.nextId
      let rl0 := relayStart fid f lin lc c (listed a lc) caps
      if !s1.holdsRegions f rl0 then s1
      else
        let p := s1.withRegions f rl0
        (({ p.1 with relays := put p.1.relays id p.2, nextId := id + 1 } : State).modField fid fun f =>
          { f with placed := f.placed ++ [lin] }).noteUse p.2

/-- Evicted relays of a field return one after another, each to the best cluster; none where one of them finds none. -/
def State.returnAll (s : State) (f : Field) : List (Nat × Relay) → Option State
  | [] => some s
  | (r, rl) :: l =>
    match s.best f rl.toSeat (some r) fun c => (s.mapped f c).isSome with
    | some (c, a) => ((s.settle r c a).modRelay r Relay.renewed).returnAll f l
    | none => none

/-- The relays that return with one: of a concurrent field all that are evicted (R50, R55). -/
def State.returning (s : State) (fid : Nat) (f : Field) (r : Nat) (rl : Relay) : List (Nat × Relay) :=
  if f.mode = 2 then s.evicted fid else [(r, rl)]

/-- RELAY_PLACEMENT: a relay is placed for the first time, or returns. -/
def execRelayPlacement (field linear : Nat) (s : State) : Host.Outcome State Fault Refusal :=
  match find s.fields field with
  | none => .next s
  | some f =>
    match (s.evicted field).find? fun e => e.2.linear = linear with
    | some (r, rl) =>
      .next (if s.mayReturn field f rl then (s.returnAll f (s.returning field f r rl)).getD s else s)
    | none => .next (if s.mayPlace field f linear then s.placeRelay field f linear else s)

/-! ### Retirement (R45, R46) -/

def Relay.quiet (rl : Relay) : Bool :=
  (rl.heats.all fun e => e.2.allExited && e.2.due.isEmpty && e.2.inflight = 0 && e.2.stopped ≠ .lost) &&
  (match rl.pacer with
   | some x => rl.pacerState = .idle && x.due.isEmpty && x.inflight = 0
   | none => true) &&
  (rl.queues.all fun e => e.2.items.all fun it => match it with
    | .command _ => false
    | .marker _ => true) &&
  rl.mq.all fun it => match it with
    | .entry _ => false
    | .marker _ => true

/-- RELAY_RETIREMENT: its resources are free; the last relay retires its field. -/
def execRelayRetirement (relay : Nat) (s : State) : Host.Outcome State Fault Refusal :=
  match find s.relays relay with
  | none => .next s
  | some rl =>
    if !rl.quiet || rl.stopped || rl.place.isNone then .next s
    else
      let s1 := (s.dropRelays fun r _ => r = relay).modField rl.field fun f => { f with retired := f.retired + 1 }
      match find s1.fields rl.field with
      | some f => .next (if f.retired = f.total then s1.fieldOver rl.field .retired else s1)
      | none => .next s1

/-! ### Concurrency lost (R39, R50) -/

/-- Relays of the field that one empty cluster holds with n cores in service. -/
def capOf (f : Field) (n : Nat) : Nat :=
  let h := hdrSquad f
  let k := min (64 / h) (4096 / (h * hdrRegs f))
  let sk := scratchRounded f / 1024
  let nb := ownedBanks f
  [8, n * k / hdrRelay f, if sk = 0 then 8 else 4096 / sk, if nb = 0 then 8 else 32 / nb,
    if hdrHasPacer f then 1 else 8].foldl min 8

/-- CONCURRENCY_LOST: the clusters left to the field no longer hold all its relays. R50 does not say how the front end
finds that: the model compares N with cap(3) times the clusters of the field's partition that its context's map names, even
where all its relays are still resident (DESIGN CHOICE, log 71). A stopped field keeps its resources (R263). -/
def execConcurrencyLost (field : Nat) (s : State) : Host.Outcome State Fault Refusal :=
  match find s.fields field with
  | none => .next s
  | some f =>
    let room := ((s.partition f).filter fun c => (s.mapped f c).isSome).length
    if f.mode = 2 && f.ended = .live && !f.stopped && capOf f 3 * room < f.total then
      .next ((s.dropRelays fun _ rl => rl.field = field).fieldOver field .lost)
    else .next s

/-! ### Slices, pre-emption, yield (R238 to R240) -/

def State.modSquad (s : State) (r q : Nat) (g : Squad → Squad) : State :=
  s.modRelay r fun rl => { rl with squads := modify rl.squads q g }

/-- SLICE_EXPIRY: of quarantined work it passes the turn too (R225). -/
def execSliceExpiry (relay squad : Nat) (s : State) : Host.Outcome State Fault Refusal :=
  match find s.relays relay with
  | none => .next s
  | some rl =>
    if rl.place.isNone || rl.squadRetired squad then .next s
    else
      let s1 := s.modSquad relay squad fun q => if q.expired.isNone then { q with expired := some s.tick } else q
      .next (if s.relayQuar rl && s.quarTurn = some (s.relayQueue rl) then s1.passTurn else s1)

/-- Evict a relay, with those that leave with it, once all are ready. -/
def State.tryLeave (s : State) (r : Nat) : State :=
  let l := s.together r
  if l.all fun k => match find s.relays k with
      | some rl => rl.place.isSome && !rl.stopped && rl.readyToLeave
      | none => false
  then l.foldl (fun s k => s.evict k) s else s

/-- Raise a cooperative yield in every squad of a relay; one that has retired leaves with them as it is. -/
def Relay.askYield (rl : Relay) : Relay :=
  { rl with squads := rl.squads.map fun e =>
      (e.1, { e.2 with yreq := e.2.yreq || !rl.squadRetired e.1, evicting := true }) }

/-- The order in which squads are evicted (R239): lower classes first, then the earliest expiry, then the highest
core and squad. A squad of a higher class, or of the same with time left, has none. -/
def evictKey (mine rank : Nat) (q : Nat) (sq : Squad) : Option (List Nat) :=
  if rank < mine then some [rank, 0, 416 - sq.core, 32 - q]
  else if rank = mine then sq.expired.map fun t => [rank, t + 1, 416 - sq.core, 32 - q]
  else none

def lexLt : List Nat → List Nat → Bool
  | a :: as, b :: bs => if a = b then lexLt as bs else a < b
  | _, _ => false

def insertKey (e : List Nat × Nat) : List (List Nat × Nat) → List (List Nat × Nat)
  | [] => [e]
  | d :: l => if lexLt e.1 d.1 then e :: d :: l else d :: insertKey e l

/-- The rank of a relay's class. -/
def State.rankOf (s : State) (rl : Relay) : Nat :=
  match find s.fields rl.field with
  | some g => s.classRank g
  | none => 0

/-- Of some resident relays, those that may be evicted for a field's work, in order, each once: for a squad that has not
retired (R45). A stopped relay holds its resources (R263). -/
def State.victims (s : State) (f : Field) (l : List (Nat × Relay)) : List Nat :=
  let keys := (l.filter fun e => !e.2.stopped).flatMap fun e =>
    (e.2.squads.filter fun q => !e.2.squadRetired q.1).filterMap fun q =>
      (evictKey (s.classRank f) (s.rankOf e.2) q.1 q.2).map fun k => (k, e.1)
  ((keys.foldr insertKey []).map fun e => e.2).eraseDups

/-- The relays that must leave the partition before a quarantined field's work may stand there: those of the queue that
had the turn before (R225). -/
def State.strangers (s : State) (f : Field) : List (Nat × Relay) :=
  if f.quar then s.relays.filter fun e => e.2.place.isSome && s.relayQuar e.2 && s.relayQueue e.2 ≠ f.queue else []

/-- Evict victims in order until the work fits; the relays to ask, and where. -/
def State.enough (s : State) (f : Field) (squads : List (Nat × List Nat)) (r : Option Nat) (c : Nat) :
    List Nat → List Nat → Option (List Nat)
  | acc, vs =>
    let t := { s with relays := s.relays.filter fun e => !acc.contains e.1 }
    if (t.fitOn c f squads r).isSome && t.company c f r then some acc
    else
      match vs with
      | [] => none
      | v :: rest => s.enough f squads r c (if acc.contains v then acc else acc ++ s.together v) rest
termination_by structural _ vs => vs

/-- The cluster for which room is made, with the relays to ask (R239). -/
def State.makeRoom (s : State) (f : Field) (squads : List (Nat × List Nat)) (r : Option Nat) : List Nat :=
  let out := s.strangers f
  let first := s.victims f out
  let best := clusterIds.foldl (fun (best : Option (Int × List Nat)) c =>
    let cl := s.cluster c
    if !(s.partition f).contains c || (s.mapped f c).isNone || 95 ≤ hottest cl.coreTemps ||
       (hdrHasPacer f && !cl.arrayFresh) then best
    else
      let vs := s.victims f (s.residents c none)
      match s.enough f squads r c (first.flatMap s.together) vs with
      | none => best
      | some l =>
        let t := { s with relays := s.relays.filter fun e => !vs.contains e.1 }
        let v := t.score c f r
        match best with
        | some b => if b.1 < v then some (v, l) else best
        | none => some (v, l)) none
  match best with
  | some b => if (out.all fun e => first.contains e.1) && (!f.quar || s.quarTurn = some f.queue) then b.2 else []
  | none => []

/-- YIELD_DEADLINE: the squad is evicted at its next squad boundary, with its relay. -/
def execYieldDeadline (relay squad : Nat) (s : State) : Host.Outcome State Fault Refusal :=
  .next ((s.modSquad relay squad fun q => if q.evicting then { q with deadline := true } else q).tryLeave relay)

/-! ### Migration (R51, R54, R225, R236, R237, R287) -/

/-- The member of a rotation group after `p` in its cyclic order, which is the order of its list: a spare stands where the
cluster it replaced stood (R21). After one that is no member they come from the first. -/
def RotGroup.after (g : RotGroup) (p : Nat) : List Nat :=
  (g.members.dropWhile fun m => m ≠ p).drop 1 ++ g.members.takeWhile fun m => m ≠ p

/-- The member that takes the slot after `p`: `p` itself where it is the only one. -/
def RotGroup.next (g : RotGroup) (p : Nat) : Option Nat := (g.after p ++ g.members).head?

/-- The core is the next of its group to enter rotation. -/
def State.entering (s : State) (p : Nat) : Bool :=
  s.rot.any fun e => !e.2.slices && e.2.next e.2.current = some p && p ≠ e.2.current

/-- A relay moves to the best cluster other than `c`, where there is one. -/
def State.moveAway (s : State) (r c : Nat) : State :=
  match find s.relays r with
  | none => s
  | some rl =>
    match find s.fields rl.field with
    | none => s
    | some f =>
      if rl.stopped || rl.place ≠ some c then s
      else
        match s.best f rl.toSeat (some r) fun d => d ≠ c && (s.mapped f d).isSome with
        | some (d, a) => s.moveRelay r d a
        | none => s

/-- Work that waits: the field, its squads, and the relay that returns (R49, R236). -/
def State.waiting (s : State) : List (Field × List (Nat × List Nat) × Option Nat) :=
  s.fields.flatMap fun e =>
    let back := ((s.evicted e.1).filter fun r => s.mayReturn e.1 e.2 r.2).map fun r => (e.2, r.2.toSeat, some r.1)
    let lin := (List.range (e.2.placed.length + 1)).find? fun n => s.mayPlace e.1 e.2 n
    back ++ match lin with
      | some _ => [(e.2, (List.range (hdrRelay e.2)).map fun q => (q, []), none)]
      | none => []

/-- Waiting work that no cluster holds as it is. -/
def State.stuck (s : State) : List (Field × List (Nat × List Nat) × Option Nat) :=
  s.waiting.filter fun w => (s.best w.1 w.2.1 w.2.2 fun c => (s.mapped w.1 c).isSome).isNone

/-- Work of a cluster that may be moved for a field's: of the same class or a lower one. -/
def State.movable (s : State) (c : Nat) (f : Field) (r : Option Nat) : List (Nat × Relay) :=
  (s.residents c r).filter fun e => s.rankOf e.2 ≤ s.classRank f && !e.2.stopped

/-- The claims of a resident relay's squads; the key holds the relay and the squad. -/
def State.homeClaims (s : State) (e : Nat × Relay) : List Claim :=
  (e.2.squads.filter fun q => !e.2.squadRetired q.1).map fun q =>
    let (h, v) := match find s.fields e.2.field with
      | some f => (hdrSquad f, hdrRegs f)
      | none => (0, 0)
    ⟨32 * e.1 + q.1, h, v, e.2.squadFids q.1, some (q.2.core, q.2.slots)⟩

/-- Seats on a cluster's cores for work that waits together with the movable work that stands there. -/
def State.gather (s : State) (c : Nat) (w : Field × List (Nat × List Nat) × Option Nat) :
    Option (List (Nat × Nat × List Nat)) :=
  let mine := s.movable c w.1 w.2.2
  let t := { s with relays := s.relays.filter fun e => !mine.any fun m => m.1 = e.1 }
  if (s.mapped w.1 c).isSome && s.eligible c w.1 w.2.2 && s.clusterRoom c w.1 w.2.2 then
    assign (claimsOf w.1 w.2.1).2 (mine.flatMap s.homeClaims ++ (claimsOf w.1 w.2.1).1)
      ((t.coresOf c).map fun p => t.coreUse w.2.2 p)
  else none

/-- The seats of one relay in a joint assignment. -/
def seatsOf (r : Nat) (l : List (Nat × Nat × List Nat)) : List (Nat × Nat × List Nat) :=
  (l.filter fun e => e.1 / 32 = r).map fun e => (e.1 % 32, e.2)

/-- The squads of a cluster take the cores that leave room for work that waits (R236). -/
def State.gatherOn (s : State) (c : Nat) : State :=
  match s.stuck.findSome? fun w => (s.gather c w).map fun l => (w, l) with
  | some (w, l) => (s.movable c w.1 w.2.2).foldl (fun s e => s.moveSquads e.1 c (seatsOf e.1 l)) s
  | none => s

/-- Room for work that waits would come of moving other work off the cluster. -/
def State.roomWithout (s : State) (c : Nat) (rl : Relay) : Bool :=
  s.stuck.any fun w =>
    let t := { s with relays := s.relays.filter fun e => !(s.movable c w.1 w.2.2).any fun m => m.1 = e.1 }
    s.rankOf rl ≤ s.classRank w.1 && (s.mapped w.1 c).isSome && t.eligible c w.1 w.2.2 &&
    (t.fitOn c w.1 w.2.1 w.2.2).isSome

/-- A relay moved to another cluster, where it may stand there and fits. -/
def State.movedTo (s : State) (r d : Nat) : Option State :=
  (find s.relays r).bind fun rl => (find s.fields rl.field).bind fun f =>
    if rl.place = some d || (s.mapped f d).isNone || !s.eligible d f (some r) then none
    else (s.fitOn d f rl.toSeat (some r)).map fun a => s.moveRelay r d a

/-- Some relays of a list, moved off cluster c each to one or another cluster, make room there for work that waits, the
squads that stay taking other cores where that helps (R236). -/
def State.makesRoom (s : State) (c : Nat) (w : Field × List (Nat × List Nat) × Option Nat) : List Nat → Bool
  | [] => (s.gather c w).isSome
  | r :: l => s.makesRoom c w l || clusterIds.any fun d => (s.movedTo r d).any fun t => t.makesRoom c w l

/-- Moving other work makes room for work that waits: squads between the cores of a cluster, relays to other clusters, or
both (R236). -/
def State.migrationHelps (s : State) (w : Field × List (Nat × List Nat) × Option Nat) : Bool :=
  clusterIds.any fun c =>
    (s.mapped w.1 c).isSome && s.makesRoom c w ((s.movable c w.1 w.2.2).map fun e => e.1)

/-- PREEMPTION: room is asked for a relay that waits and that no cluster holds, as it is or after other work has moved, and
squads that have yielded leave. -/
def execPreemption (field linear : Nat) (s : State) : Host.Outcome State Fault Refusal :=
  match find s.fields field with
  | none => .next s
  | some f =>
    let back := (s.evicted field).find? fun e => e.2.linear = linear
    let wants : Bool := match back with
      | some e => s.mayReturn field f e.2
      | none => s.mayPlace field f linear
    let (squads, r) := match back with
      | some e => (e.2.toSeat, some e.1)
      | none => ((List.range (hdrRelay f)).map fun q => (q, []), none)
    if !wants || (s.best f squads r fun c => (s.mapped f c).isSome).isSome || s.migrationHelps (f, squads, r) then .next s
    else
      let l := s.makeRoom f squads r
      let s1 := l.foldl (fun s k => s.modRelay k Relay.askYield) s
      .next (l.foldl (fun s k => s.tryLeave k) s1)

/-- A relay has a reason to leave its cluster: a core of it reads 95 °C, or is about to enter rotation with a squad of the
relay on it, or the cluster lies in the quarantine partition and the relay's queue is of another class, or the other way
round (R225), or room is gathered there (R236). -/
def State.mustMove (s : State) (rl : Relay) (f : Field) (c : Nat) : Bool :=
  95 ≤ hottest (s.cluster c).coreTemps || (rl.squads.any fun q => !rl.squadRetired q.1 && s.entering q.2.core) ||
  (s.quarPart).contains c ≠ f.quar || s.roomWithout c rl

/-- The squads of a relay on a core about to enter rotation move to other cores of the cluster (R22, R236). -/
def State.clearCore (s : State) (r c : Nat) (rl : Relay) (f : Field) : Option State :=
  let out := (rl.toSeat).filter fun q => (find rl.squads q.1).any fun k => s.entering k.core
  if out.isEmpty then none
  else
    (seats f out (((s.coresOf c).filter fun p => !s.entering p).map fun p => s.coreUse none p)).map fun a =>
      s.moveSquads r c a

/-- MIGRATION: to another cluster where the relay has a reason to leave its own, or of squads between the cores of their
cluster. DESIGN CHOICE, entry 85: a stopped relay, which holds its resources (R263), is not moved, so that a rotation slot
whose next core holds a squad of it goes on (R21). -/
def execMigration (relay cluster : Nat) (s : State) : Host.Outcome State Fault Refusal :=
  match find s.relays relay with
  | none => .next s
  | some rl =>
    match find s.fields rl.field, rl.place with
    | some f, some c =>
      if rl.stopped then .next s
      else if c = cluster then .next ((s.clearCore relay c rl f).getD (s.gatherOn c))
      else if !s.mustMove rl f c || !s.eligible cluster f (some relay) || (s.mapped f cluster).isNone then .next s
      else
        match s.fitOn cluster f rl.toSeat (some relay) with
        | some a => .next (s.moveRelay relay cluster a)
        | none => .next s
    | _, _ => .next s

/-- The quarantine partition is formed: the work that stands there moves away where it can (R225). -/
def State.clearPart (s : State) : State :=
  s.quarPart.foldl (fun s c =>
    (s.residents c none).foldl (fun s e => if s.relayQuar e.2 then s else s.moveAway e.1 c) s) s

/-- A queue is demoted: its pending and resident fields are of the quarantine class with it, and their relays move to the
partition where they can (R225, log 84). -/
def State.demote (s : State) (qid : Nat) : State :=
  let s1 := (({ s.holdTurn with fields := s.fields.map fun e => (e.1, if e.2.queue = qid then { e.2 with quar := true } else e.2) } :
    State).modQueue qid fun q => { q with quar := true }).clearPart
  s1.relays.foldl (fun s e =>
    match e.2.place with
    | some c => if s.relayQueue e.2 = qid && !s.quarPart.contains c then s.moveAway e.1 c else s
    | none => s) s1

/-! ### Spares (R24, R26, R276, R284) -/

/-- The spares in the order they are tried: those of the die first (R24, step 1). -/
def State.spares (s : State) (die : Nat) : List Nat :=
  let l := clusterIds.filter fun c => (s.cluster c).status = .spare
  (l.filter fun c => c / 26 = die) ++ l.filter fun c => c / 26 ≠ die

/-- A relay leaves a cluster that goes: to another, or out of residency, with those that leave with it, until there is
room (R24, R50). -/
def State.disperseRelay (s : State) (r c : Nat) : State :=
  let t := s.moveAway r c
  match find t.relays r with
  | some rl => if rl.place = some c then (t.together r).foldl (fun s k => s.evict k) t else t
  | none => t

/-- Relays of a cluster that goes without a spare. Those that have left meanwhile, with another of their field, are out
already. -/
def State.disperse (s : State) (c : Nat) : State :=
  (s.residents c none).foldl (fun s e => s.disperseRelay e.1 c) s

/-- No squad stands on a core that enters rotation: those that no other core of their cluster holds go elsewhere (R22). -/
def State.drainCore (s : State) (p : Nat) : State :=
  let c := p / 4
  (s.residents c none).foldl (fun s e =>
    match find s.relays e.1 with
    | none => s
    | some rl =>
      let out := rl.toSeat.filter fun q => (find rl.squads q.1).any fun k => k.core = p
      match find s.fields rl.field with
      | none => s
      | some f =>
        if out.isEmpty || rl.place ≠ some c then s
        else
          match seats f out (((s.coresOf c).filter fun n => n ≠ p).map fun n => s.coreUse none n) with
          | some a => s.moveSquads e.1 c a
          | none => s.disperseRelay e.1 c) s

/-- A member leaves its group. Where it was in rotation, the next in order enters; a group without members is none. -/
def RotGroup.drop (g : RotGroup) (p : Nat) : RotGroup :=
  if g.current = p then
    let l := g.after p
    { g with members := l, current := l.headD 0, scanning := true }
  else { g with members := g.members.filter fun m => m ≠ p }

/-- Every group without a unit. -/
def State.ungroup (s : State) (slices : Bool) (p : Nat) : State :=
  { s with
    rot := (s.rot.map fun e =>
      if e.2.slices = slices && e.2.members.contains p then (e.1, e.2.drop p) else e).filter fun e => !e.2.members.isEmpty }

/-- A core leaves its group; the core that enters in its place is drained. -/
def State.leaveGroup (s : State) (p : Nat) : State :=
  let s1 := s.ungroup false p
  let now := (s1.rot.filter fun e => !e.2.slices && !s.inRotation e.2.current).map fun e => e.2.current
  now.foldl (fun s n => s.drainCore n) s1

/-- The cores of a cluster. -/
def clusterCores (c : Nat) : List Nat := (List.range 4).map fun k => 4 * c + k

/-- Rotation groups when cluster d takes the place of cluster c: its cores stand where those stood where both lie on one
die; otherwise they form a group of their own, and the old cluster's leave theirs (R24, step 5). -/
def State.joinGroups (s : State) (c d : Nat) : State :=
  if c / 26 = d / 26 then
    let moved (p : Nat) : Nat := if p / 4 = c then 4 * d + p % 4 else p
    { s with rot := s.rot.map fun e =>
        if e.2.slices then e else (e.1, { e.2 with members := e.2.members.map moved, current := moved e.2.current }) }
  else
    { s with rot := put s.rot s.nextId ⟨false, d / 26, clusterCores d, 4 * d, true⟩, nextId := s.nextId + 1 }

/-- A relay that still stands on c goes whole to the cluster that takes its place: seat by seat on one die; elsewhere, where a
core of the new cluster is in rotation, as it fits there. R24 does not say what becomes of one that does not fit then: it goes
to another cluster, or out of residency (DESIGN CHOICE, log 47). -/
def State.carryRelay (s : State) (c d : Nat) (e : Nat × Relay) : State :=
  if !((find s.relays e.1).any fun rl => rl.place = some c) then s
  else if c / 26 = d / 26 then
    s.moveRelay e.1 d ((e.2.squads.filter fun q => !e.2.squadRetired q.1).map fun q =>
      (q.1, 4 * d + q.2.core % 4, q.2.slots))
  else
    match (find s.fields e.2.field).bind fun f => s.fitOn d f e.2.toSeat (some e.1) with
    | some a => s.moveRelay e.1 d a
    | none => s.disperseRelay e.1 c

/-- Every map gives c's logical number to d, or to no cluster (R26). -/
def State.remap (s : State) (c : Nat) (d : Option Nat) : State :=
  { s with ctxs := s.ctxs.map fun e =>
      (e.1, { e.2 with lmap := e.2.lmap.filterMap fun m =>
        if m.2 = c then d.map fun d => (m.1, d) else some m }) }

def State.setStatus (s : State) (c : Nat) (st : ClusterStatus) (code : Nat) : State :=
  ((s.setCluster c { s.cluster c with
    status := st, grant := none, mhz := min (s.cluster c).mhz 2700, tlb := [], exchanged := false }).markUnits
    c code)

/-- A spare is powered up: its rest ends and is credited (R272); how long it was is open. -/
def State.callUp (s : State) (d : Nat) : State :=
  (clusterUnits d).foldl (fun s u => s.endRest u.1 u.2 (s.freeNat 7) false) s

/-- A called-up spare has passed its scan and is active. -/
def State.powerUp (s : State) (d : Nat) : State :=
  let s1 := (clusterCores d).foldl (fun s p => s.setCore p { s.core p with passes := (s.core p).passes + 1 }) s
  let cl := s1.cluster d
  (s1.setCluster d { cl with arrayPasses := cl.arrayPasses + 1, arrayPass := cl.cyc.toNat }).setStatus d .active 0

/-- A unit fails its scan: the fields that name it are suspect (R258). -/
def State.suspectUnit (s : State) (u : UsedUnit) : State :=
  s.fields.foldl (fun s e =>
    if e.2.used.any fun x => x.1 = u then
      (s.logTo (fieldPort e.2) (logQ0 e.2.queue e.2.ctx e.2.tag false 0x5B 2) 0 0 0 ⟨2, e.2.ctx, none, 0, 0#4⟩).modField e.1
        fun f => { f with suspect := true }
    else s) s

/-- The unit of a spare that fails the scan at its call-up: which of its cores and its array, is open. -/
def State.failedAt (s : State) (d : Nat) : UsedUnit :=
  let k := s.freeNat (7200 + d) % 5
  if k < 4 then .core (4 * d + k) else .array d

/-- Call up spares in order: whether one passes its scan is the hardware's (a free value). Those that fail are retired, and
the fields that drew on the unit that failed are suspect (R24, R258). -/
def State.trySpares (s : State) : List Nat → State × Option Nat
  | [] => (s, none)
  | d :: l =>
    let s1 := s.callUp d
    if s.freeNat (7000 + d) % 2 = 0 then (s1, some d)
    else ((s1.suspectUnit (s1.failedAt d)).setStatus d .retired 2).trySpares l

/-- The unit rests: it is in rotation and its scan is over (R256, R272). -/
def State.resting (s : State) (k : WearKind) (i : Nat) : Bool :=
  let rests (slices : Bool) : Bool := s.rot.any fun e =>
    e.2.slices = slices && e.2.current = i && e.2.members.contains i && !e.2.scanning
  match k with
  | .core => rests false
  | .slice => rests true
  | _ => false

/-- A rotation rest that is cut short is credited; how long it was is open (R273). -/
def State.cutRest (s : State) (k : WearKind) (i : Nat) : State :=
  if s.resting k i then s.endRest k i (s.freeNat 9 % 2 ^ 29) true else s

/-- The rotation rests of a cluster's cores end as it leaves its place. -/
def State.cutRests (s : State) (c : Nat) : State := (clusterCores c).foldl (fun s p => s.cutRest .core p) s

/-- Cluster d takes the place of cluster c, which then stands as `st` (R24, steps 2 to 5). -/
def State.replace (s : State) (c d : Nat) (st : ClusterStatus) (code : Nat) : State :=
  let s1 := (((s.powerUp d).remap c (some d)).cutRests c).joinGroups c d
  let s2 := ((s1.residents c none).foldl (fun s e => s.carryRelay c d e) s1).setStatus c st code
  (clusterCores c).foldl (fun s p => s.leaveGroup p) s2

/-- A cluster retires: a spare takes its place, or its work goes elsewhere (R24, R276). -/
def State.retireCluster (s : State) (c : Nat) : State :=
  if (s.cluster c).status ≠ .active then s.setStatus c .retired 2
  else
    match s.trySpares (s.spares (c / 26)) with
    | (s1, some d) => s1.replace c d .retired 2
    | (s1, none) =>
      let s2 := (((s1.cutRests c).setStatus c .retired 2).remap c none).disperse c
      (clusterCores c).foldl (fun s p => s.leaveGroup p) s2

/-- A crossing of this cycle still retires the cluster (R291). -/
def State.noteExchange (s : State) (c : Nat) : State := s.setCluster c { s.cluster c with exchanged := true }

/-- A spare exchange: the old cluster becomes a cold spare (R284). -/
def State.exchange (s : State) (c : Nat) : State :=
  match s.trySpares (s.spares (c / 26)) with
  | (s1, some d) => (s1.replace c d .spare 1).noteExchange c
  | (s1, none) => s1

end Sys2Proof.Machine
end

