-- ==== Sys2Proof/Machine/Launch.lean ====
section
/-! DEFINITION. From ring to field: the validation of a batch, and the dispatch of LAUNCH, WAIT, SIGNAL and COPY
(R34, R51, R53, R214 to R232, R324, R325, R480). -/

namespace Sys2Proof.Machine

/-! ### Reserved fields of packets (R217 to R219) -/

/-- The fields of a packet of a type, as (high bit, low bit); none of an unknown type. -/
def packetFields (t : Nat) : Option (List (Nat × Nat)) :=
  let q (i hi lo : Nat) : Nat × Nat := (64 * i + hi, 64 * i + lo)
  let common := [q 0 7 0, q 0 31 16]
  match t with
  | 1 => some (common ++ [q 0 11 8, q 1 56 0, q 2 30 0, q 2 47 32, q 2 63 48, q 3 31 0, q 4 56 0, q 5 7 0, q 5 15 8,
      q 5 31 16, q 6 56 0])
  | 2 => some common
  | 3 => some (common ++ [q 1 56 0])
  | 4 => some (common ++ [q 0 10 8, q 1 56 0, q 2 63 0, q 3 56 0])
  | 5 => some (common ++ [q 0 9 8, q 1 56 0, q 2 63 0])
  | 6 => some (common ++ [q 1 56 0, q 2 56 0, q 3 31 0, q 4 56 0])
  | 7 => some common
  | _ => none

/-- A number has no bit set outside the given fields. -/
def onlyFields (fs : List (Nat × Nat)) (n : Nat) : Bool := (fs.map fun f => bits n f.1 f.2 * 2 ^ f.2).foldl (· + ·) 0 = n

/-- The type is known and every reserved field is 0 (R223, step 1). -/
def packetKnown (p : Nat) : Bool :=
  match packetFields (pType p) with
  | some fs => onlyFields fs p
  | none => false

/-! ### Fields of a LAUNCH (R218) -/

def lMode (p : Nat) : Nat := bits p 9 8
def lNodet (p : Nat) : Bool := bit p 10
def lPriv (p : Nat) : Bool := bit p 11
def lCode (p : Nat) : Nat := bits (pq p 1) 56 0
def lDimX (p : Nat) : Nat := bits (pq p 2) 30 0
def lDimY (p : Nat) : Nat := bits (pq p 2) 47 32
def lDimZ (p : Nat) : Nat := bits (pq p 2) 63 48
def lWoff (p : Nat) : Nat := bits (pq p 3) 31 0
def lParam (p : Nat) : Nat := bits (pq p 4) 56 0
def lNparam (p : Nat) : Nat := bits (pq p 5) 7 0
def lNcap (p : Nat) : Nat := bits (pq p 5) 15 8
def lCapBase (p : Nat) : Nat := bits (pq p 5) 31 16
def noWarm : Nat := 0xFFFFFFFF

/-! ### Ranges, alignment and bounds (R218, R219, R221) -/

/-- An access of n bytes through PKCAP at an aligned offset; 0 bytes are no access. -/
def reachOk (c : Cap) (off n align : Nat) (perms : List Perm) : Bool :=
  off % align = 0 && (n = 0 || (frontCauses c off n perms).isEmpty)

/-- A COMPL: 0, or 16 bytes that may be written. -/
def complOk (c : Cap) (off : Nat) : Bool := off = 0 || reachOk c off 16 16 [.w]

/-- R223, step 3. -/
def packetInRange (c : Cap) (p : Nat) : Bool :=
  let a1 := bits (pq p 1) 56 0
  let a2 := bits (pq p 2) 56 0
  complOk c (pCompl p) &&
  match pType p with
  | 1 =>
    lMode p ≠ 3 && lNparam p ≤ 64 && lNcap p ≤ 16 && reachOk c (lCode p) 256 256 [.r] &&
    (c.base + lCode p) % 256 = 0 && reachOk c (lParam p) (4 * lNparam p) 4 [.r]
  | 4 => reachOk c a1 8 8 [.r, .a]
  | 5 => bits p 9 8 ≠ 3 && reachOk c a1 8 8 [.r]
  | 6 =>
    let n := bits (pq p 3) 31 0
    16 ≤ n && n % 16 = 0 && reachOk c a1 n 16 [.r] && reachOk c a2 n 16 [.w]
  | _ => true

/-! ### The code-object header (R34, R324, R325) -/

/-- Fields of each quadword of a header. -/
def headerFields (i : Nat) : List (Nat × Nat) :=
  match i with
  | 0 => [(47, 32), (31, 0)]
  | 1 => [(63, 0)]
  | 2 => [(63, 0)]
  | 3 => [(63, 0)]
  | 4 => [(60, 56), (49, 48), (44, 40), (37, 32), (28, 24), (22, 16), (8, 0)]
  | 5 => [(37, 32), (22, 0)]
  | 6 => [(22, 16), (8, 0)]
  | 8 => [(63, 0)]
  | 9 => [(63, 0)]
  | 10 => [(63, 0)]
  | 11 => [(63, 0)]
  | _ => []

/-- A BANK byte as a .banks item asks for it. -/
def bankByteOk (b : Nat) : Bool := b / 32 = 0 && (b % 4 = 1 || b % 4 = 2) && b / 4 % 8 ≠ 7

/-- .regs in its range. -/
def regsOk (n : Nat) : Bool := 8 ≤ n && n ≤ 256 && n % 8 = 0

/-- An entry or handler that is absent or lies in the code. -/
def entryOk (f : Field) (w : Nat) : Bool := w = 0xFFFFFFFF || w < hdrCodeW f

/-- The header of 32 quadwords obeys R34 and R325; the field holds its first twelve. -/
def headerOk (f : Field) (h : List Nat) : Bool :=
  ((List.range 32).all fun i => onlyFields (headerFields i) (h.getD i 0)) &&
  bits (hq f 0) 31 0 = 0x4B395856 && bits (hq f 0) 47 32 = 1 &&
  1 ≤ hdrCodeW f && hdrCodeW f ≤ 2 ^ 26 && hdrEntry f < hdrCodeW f && entryOk f (hdrPEntry f) &&
  entryOk f (hdrHandler f) && entryOk f (hdrPHandler f) &&
  hdrDataOff f = (256 + 8 * hdrCodeW f + 15) / 16 * 16 &&
  hdrCaps f ≤ 16 && hdrProgress f ≠ 3 && 1 ≤ hdrRelay f && hdrRelay f ≤ 16 && 1 ≤ hdrSquad f && hdrSquad f ≤ 32 &&
  hdrBarriers f ≤ 16 && hdrSregs f ≤ 64 && regsOk (hdrRegs f) && hdrNBanks f ≤ 32 && hdrScratch f ≤ 4194304 &&
  (if hdrHasPacer f then regsOk (hdrPRegs f) && hdrPSregs f ≤ 64 else hdrPRegs f = 0 && hdrPSregs f = 0) &&
  (List.range 32).all fun i => if i < hdrNBanks f then bankByteOk (hdrBank f i) else hdrBank f i = 0

/-! ### The capacity guaranteed to a class (R51) -/

def State.guaranteed (s : State) (q : Queue) : Nat :=
  let nact := s.actives.length
  if q.quar then 4
  else if q.rt then (if s.dev.rtres ≠ 0 then s.dev.rtres else nact - 4)
  else nact - s.dev.rtres - 4

/-- The reason of a refusal, the first in the order of R51. -/
def State.refusal (s : State) (q : Queue) (f : Field) : Option Nat :=
  let p := s.guaranteed q
  if capOf f 4 = 0 then some 1
  else if f.total = 0 then some 2
  else if f.mode = 2 && (capOf f 3 = 0 || capOf f 3 * p < f.total) then some 3
  else if f.mode < hdrProgress f then some 4
  else if p = 0 then some 6 else none

/-! ### Reading a batch (R214, R222) -/

/-- A value that is to be had, must be waited for, or is refused. -/
inductive Got (α : Type) where
  | ok (a : α)
  | wait
  | bad (cause : Nat)
deriving DecidableEq, Repr

/-- The ring's packet n. -/
def Queue.slotOff (q : Queue) (n : Nat) : Nat :=
  bits q.q0.toNat 56 0 + 64 * (n % 2 ^ (bits q.q0.toNat 61 57 - 6))

def State.readPacket (s : State) (qid : Nat) (q : Queue) (n : Nat) : State × Got Nat :=
  match s.frontRead qid (q.slotOff n) 64 with
  | (s1, .val v) => (s1, .ok v)
  | (s1, .wait) => (s1, .wait)
  | (s1, .cause c) => (s1, .bad c)

/-- A batch as the ring gives it: its BEGIN, its packets without BEGIN and COMMIT, its COMMIT, how many packets RIDX
passes, and the INDEX of a packet that could not be read or should have been the COMMIT. -/
structure Batch where
  opening : Option Nat
  packets : List Nat
  commit : Option Nat
  length : Nat
  broken : Option Nat
  /-- TAG of the packet at `broken` -/
  brokenTag : Nat
deriving DecidableEq, Repr

def Batch.grouped (b : Batch) : Bool := b.opening.isSome

/-- Packets after a BEGIN up to its COMMIT: `left` packets may still come, `ready` of them are below WIDX. -/
def State.readGroup (s : State) (qid : Nat) (q : Queue) (o : Option Nat) :
    Nat → Nat → Nat → List Nat → State × Got Batch
  | 0, _, _, _ => (s, .wait)
  | _, 0, _, _ => (s, .wait)
  | left + 1, ready + 1, n, acc =>
    match s.readPacket qid q (q.ridx.toNat + n) with
    | (s1, .wait) => (s1, .wait)
    | (s1, .bad _) => (s1, .ok ⟨o, acc, none, n + 1, some n, 0⟩)
    | (s1, .ok p) =>
      if pType p = tCommit then (s1, .ok ⟨o, acc, some p, n + 1, none, 0⟩)
      else if n = 257 then (s1, .ok ⟨o, acc ++ [p], none, n + 1, some n, pTag p⟩)
      else s1.readGroup qid q o left ready (n + 1) (acc ++ [p])

/-- The batch at RIDX; none while its end is not below WIDX. -/
def State.readBatch (s : State) (qid : Nat) (q : Queue) : State × Got Batch :=
  let ready := (q.widx - q.ridx).toNat
  if ready = 0 then (s, .wait)
  else
    match s.readPacket qid q q.ridx.toNat with
    | (s1, .wait) => (s1, .wait)
    | (s1, .bad _) => (s1, .ok ⟨none, [], none, 1, some 0, 0⟩)
    | (s1, .ok p) =>
      if pType p = tBegin then s1.readGroup qid q (some p) 257 (ready - 1) 1 []
      else (s1, .ok ⟨none, [p], none, 1, none, 0⟩)

/-- INDEX of packet i after BEGIN, or of the one packet (R220). -/
def Batch.place (b : Batch) (i : Nat) : Nat := if b.grouped then i + 1 else 0

/-- The packets of a batch with the INDEX of each, its BEGIN and COMMIT apart. -/
def Batch.body (b : Batch) : List (Nat × Nat) :=
  (List.range b.packets.length).map fun i => (b.place i, b.packets.getD i 0)

/-- The packets of a batch with the INDEX of each. -/
def Batch.all (b : Batch) : List (Nat × Nat) :=
  (b.opening.toList.map fun o => (0, o)) ++ b.body ++ b.commit.toList.map fun c => (b.packets.length + 1, c)

/-- A packet of the batch could not be read (R480). -/
def Batch.unread (b : Batch) : Option Nat := b.broken.filter fun n => b.all.all fun e => e.1 ≠ n

/-- The offset of the batch record, where it is known and valid. -/
def Batch.compl (b : Batch) (c : Cap) : Nat :=
  let off := match b.commit with
    | some p => pCompl p
    | none => if b.grouped then 0 else pCompl (b.packets.getD 0 0)
  if complOk c off then off else 0

/-- What a packet is allowed to be where it stands (R222, step 2 of R223). -/
def placeOk (grouped : Bool) (p : Nat) : Bool :=
  if grouped then
    pType p ≠ tBegin && pType p ≠ tWait && !(pType p = tSignal && !bit p 9)
  else pType p ≠ tCommit

/-! ### Validation (R223, R224) -/

/-- How the checking of a batch ends. -/
inductive Verdict where
  | accepted (protos : AMap Field)
  | wait
  | malformed (index tag : Nat)
  | refused (index tag reason : Nat)
deriving DecidableEq, Repr

/-- The field a LAUNCH gives, its header and parameters apart. -/
def protoOf (qid : Nat) (q : Queue) (i p : Nat) : Field :=
  { queue := qid, ctx := q.context, meet := 0, packet := i, tag := pTag p, mode := lMode p, nodet := lNodet p,
    priv := lPriv p, quar := q.quar, epoch := 0, hdr := [], code := lCode p, params := [], capBase := lCapBase p,
    ncap := lNcap p, dimX := lDimX p, dimY := lDimY p, dimZ := lDimZ p, compl := pCompl p, placed := [], retired := 0,
    ended := .live, used := [], suspect := false, stopped := false }

/-- The low `n` words of a number. -/
def wordsOf (n v : Nat) : List Reg := (List.range n).map fun i => ⟨BitVec.ofNat 32 (bits v (32 * i + 31) (32 * i)), .clean⟩

def quadsOf (n v : Nat) : List Nat := (List.range n).map fun i => bits v (64 * i + 63) (64 * i)

/-- A parameter block. -/
def State.readParams (s : State) (qid p : Nat) : State × Got (List Reg) :=
  if lNparam p = 0 then (s, .ok [])
  else
    match s.frontRead qid (lParam p) (4 * lNparam p) with
    | (s1, .val v) => (s1, .ok (wordsOf (lNparam p) v))
    | (s1, .wait) => (s1, .wait)
    | (s1, .cause c) => (s1, .bad c)

/-- Step 4 for each LAUNCH of a batch: the fields their headers give, or the first that is malformed. -/
def State.readHeaders (s : State) (qid : Nat) (q : Queue) (b : Batch) : List (Nat × Nat) → State × Verdict
  | [] => (s, .accepted [])
  | (i, p) :: l =>
    match s.frontRead qid (lCode p) 256 with
    | (s1, .wait) => (s1, .wait)
    | (s1, .cause _) => (s1, .malformed (b.place i) (pTag p))
    | (s1, .val v) =>
      let h := quadsOf 32 v
      let f := { protoOf qid q i p with hdr := (h.take 12).map fun n => BitVec.ofNat 64 n }
      if headerOk f h then
        match s1.readHeaders qid q b l with
        | (s2, .accepted fs) => (s2, .accepted ((i, f) :: fs))
        | r => r
      else (s1, .malformed (b.place i) (pTag p))

/-- Steps 5 to 8, in their order: what each asks of a LAUNCH and the field its header gives. -/
def launchSteps (q : Queue) (capn : Nat) : List (Nat → Field → Bool) :=
  [fun p f => lWoff p = noWarm || lWoff p < hdrCodeW f,
   fun p f => lNparam p ≤ hdrSregs f,
   fun p _ => lCapBase p + lNcap p ≤ capn,
   fun p _ => !lPriv p || q.q1.getLsbD 19]

/-- The first LAUNCH that fails the first step that one fails. -/
def Batch.failing (b : Batch) (l : AMap Field) (steps : List (Nat → Field → Bool)) : Option Verdict :=
  steps.findSome? fun ok => (l.find? fun e => !ok (b.packets.getD e.1 0) e.2).map fun e =>
    .malformed (b.place e.1) (pTag (b.packets.getD e.1 0))

/-- The parameter blocks of the LAUNCH packets without a warm-up (R229, R480). -/
def State.readBlocks (s : State) (qid : Nat) (b : Batch) : AMap Field → State × Verdict
  | [] => (s, .accepted [])
  | (i, f) :: l =>
    let p := b.packets.getD i 0
    match if lWoff p = noWarm then s.readParams qid p else (s, .ok []) with
    | (s1, .wait) => (s1, .wait)
    | (s1, .bad _) => (s1, .malformed (b.place i) (pTag p))
    | (s1, .ok ps) =>
      match s1.readBlocks qid b l with
      | (s2, .accepted fs) => (s2, .accepted ((i, { f with params := ps }) :: fs))
      | r => r

/-- The first packet that a check fails. -/
def Batch.offender (l : List (Nat × Nat)) (ok : Nat → Bool) : Option Verdict :=
  (l.find? fun e => !ok e.2).map fun e => .malformed e.1 (pTag e.2)

/-- Steps 1 to 3, in which a packet that cannot be read fails the first. -/
def Batch.malformed (b : Batch) (c : Cap) : Option Verdict :=
  Batch.offender b.all packetKnown <|> b.unread.map (fun n => .malformed n b.brokenTag) <|>
  Batch.offender b.body (placeOk b.grouped) <|> b.broken.map (fun n => .malformed n b.brokenTag) <|>
  Batch.offender b.all (packetInRange c)

/-- Step 9. -/
def State.refusedIn (s : State) (q : Queue) (b : Batch) (l : AMap Field) : Option Verdict :=
  l.findSome? fun e => (s.refusal q e.2).map fun r => .refused (b.place e.1) (pTag (b.packets.getD e.1 0)) r

/-- The nine steps, each over the whole batch before the next (R223). -/
def State.checkBatch (s : State) (qid : Nat) (q : Queue) (b : Batch) : State × Verdict :=
  match b.malformed q.cap with
  | some v => (s, v)
  | none =>
    let launches := (List.range b.packets.length).filterMap fun i =>
      let p := b.packets.getD i 0
      if pType p = tLaunch then some (i, p) else none
    match s.readHeaders qid q b launches with
    | (s1, .accepted l) =>
      let capn := match find s1.ctxs q.context with
        | some c => c.capN
        | none => 0
      match b.failing l (launchSteps q capn) with
      | some v => (s1, v)
      | none =>
        match s1.readBlocks qid b l with
        | (s2, .accepted fs) => (s2, (s2.refusedIn q b fs).getD (.accepted fs))
        | r => r
    | r => r

/-- Each field takes a launch epoch (R174). -/
def State.giveEpochs (s : State) (l : AMap Field) : State × AMap Field :=
  let e := s.dev.epoch
  ({ s with dev := { s.dev with epoch := (e + l.length) % 2 ^ 16 } },
    l.zipIdx.map fun p => (p.1.1, { p.1.2 with epoch := (e + 1 + p.2) % 2 ^ 16 }))

/-- A batch that becomes no meet takes a number too: its record stands before what later batches bring (R480). -/
def State.useId (s : State) : State := { s with nextId := s.nextId + 1 }

/-- BATCH_VALIDATION. It waits while an access of an earlier packet waits for its page (R480). -/
def execBatchValidation (queue : Nat) (s0 : State) : Host.Outcome State Fault Refusal :=
  let s := s0.flushOwed queue
  match find s.queues queue with
  | none => .next s
  | some q =>
    if q.resetting || s.heldBefore queue s.nextId 0 || s.walks.any (fun e => e.2.who = .warm queue) then .next s
    else
      match s.readBatch queue q with
      | (s1, .ok b) =>
        let pass (s : State) : State := s.modQueue queue fun q => { q with ridx := q.ridx + BitVec.ofNat 32 b.length }
        match s1.checkBatch queue q b with
        | (s2, .wait) => .next s2
        | (s2, .malformed i t) =>
          .next (pass ((s2.owe queue s2.nextId i (b.compl q.cap) (recordBits 3 0 0 t 0 i)).useId.demote queue))
        | (s2, .refused i t r) => .next (pass (s2.owe queue s2.nextId i (b.compl q.cap) (recordBits 2 r 0 t 0 i)).useId)
        | (s3, .accepted l0) =>
          let (s2, l) := s3.giveEpochs l0
          let c := b.commit.getD (b.packets.getD 0 0)
          let m : Meet :=
            { queue := queue, packets := b.packets, protos := l, grouped := b.grouped, pos := 0, begun := false,
              states := [], fields := [], nfield := [], launchOpen := [], compl := b.compl q.cap, tag := pTag c,
              index := if b.grouped then b.packets.length + 1 else 0, recorded := false, fate := [], suspect := false,
              copied := [] }
          .next ((pass { s2 with meets := put s2.meets s2.nextId m, nextId := s2.nextId + 1 }).modQueue queue fun q =>
            { q with pending := q.pending ++ [s2.nextId] })
      | (s1, _) => .next s1

/-! ### Dispatch (R227) -/

/-- Packets that need no step of their own are passed: a NOP, and a SIGNAL, which is armed. -/
def Meet.pass (m : Meet) : Nat → Meet
  | 0 => m
  | n + 1 =>
    if m.pos < m.packets.length then
      let t := pType (m.packet m.pos)
      if t = tSignal then Meet.pass { m with states := put m.states m.pos .armed, pos := m.pos + 1 } n
      else if t = tNop then Meet.pass { m with pos := m.pos + 1 } n
      else m
    else m

/-- Dispatch goes on; a meet every packet of which has begun makes room for the next. -/
def State.advance (s : State) (mid : Nat) : State :=
  let s1 := s.modMeet mid fun m => m.pass m.packets.length
  match find s1.meets mid with
  | some m =>
    if m.packets.length ≤ m.pos then
      (s1.modQueue m.queue fun q => { q with pending := q.pending.filter fun k => k ≠ mid }).settleMeet mid
    else s1
  | none => s1

/-- MEET_DISPATCH. -/
def execMeetDispatch (queue : Nat) (s : State) : Host.Outcome State Fault Refusal :=
  match find s.queues queue with
  | none => .next s
  | some q =>
    match q.pending with
    | [] => .next s
    | mid :: _ =>
      match find s.meets mid with
      | none => .next s
      | some m =>
        if m.begun || q.resetting || s.heldBefore queue mid 0 then .next s
        else .next ((s.modMeet mid fun m => { m with begun := true }).advance mid)

/-- The packet a queue's dispatch stands at: its meet and index. -/
def State.atPacket (s : State) (queue : Nat) : Option (Nat × Meet × Nat) :=
  match find s.queues queue with
  | none => none
  | some q =>
    match q.pending with
    | [] => none
    | mid :: _ =>
      match find s.meets mid with
      | none => none
      | some m => if m.begun && m.pos < m.packets.length && !q.resetting then some (mid, m, m.packet m.pos) else none

/-- The same, where no access of an earlier packet waits for its page (R480). -/
def State.atFree (s : State) (queue : Nat) : Option (Nat × Meet × Nat) :=
  match s.atPacket queue with
  | some r => if s.heldBefore queue r.1 r.2.1.pos then none else some r
  | none => none

/-! ### LAUNCH (R229 to R232) -/

/-- A field is handed to placement: the first of its LAUNCH with the epoch given at validation, each further one of a
warm-up with a new one. Quarantined work forms the quarantine partition (R174, R225). -/
def State.addField (s : State) (mid i : Nat) (f : Field) : State :=
  let id := s.nextId
  let quar := match find s.queues f.queue with
    | some q => q.quar || q.cleared
    | none => f.quar
  let again : Bool := (find s.meets mid).any fun m => getD 0 m.nfield i ≠ 0
  let e := if again then (s.dev.epoch + 1) % 2 ^ 16 else f.epoch
  let g := { f with meet := mid, packet := i, epoch := e, quar := quar }
  let s0 : State :=
    { s with fields := put s.fields id g, nextId := id + 1,
             dev := { s.holdTurn.dev with epoch := if again then e else s.dev.epoch } }
  let s1 := if quar then s0.clearPart else s0
  s1.modMeet mid fun m =>
    { m with
      fields := m.fields ++ [id], nfield := put m.nfield i (getD 0 m.nfield i + 1),
      launchOpen := put m.launchOpen i (getD 0 m.launchOpen i + 1) }

/-- The LAUNCH at a meet's head launches no more. -/
def State.passLaunch (s : State) (qid mid i : Nat) : State :=
  let s1 : State := { s with warms := del s.warms qid, walks := s.walks.filter fun (e : Nat × Walk) => e.2.who ≠ .warm qid }
  ((s1.modMeet mid fun m => { m with pos := m.pos + 1 }).settleLaunch mid i).advance mid

/-- A warm-up before its first word (R230). -/
def warmStart (f : Field) (p : Nat) (params : List Reg) (caps : List Cap) : Warm :=
  { strand := strandStart [(0, laneStart (lWoff p))] (indexed params) (indexed caps), proto := f, start := lWoff p,
    words := 0, wpar := indexed (params.map fun r => r.val), wdimx := f.dimX, wrep := 0 }

/-- Start a warm-up, once its parameters and capabilities are read. -/
def State.startWarm (s : State) (qid p : Nat) (f : Field) : State :=
  match s.readParams qid p with
  | (s1, .wait) => s1
  | (s1, .bad c) => s1.failQueue qid c
  | (s1, .ok l) =>
    match s1.launchCaps (.front qid) f.ctx f.capBase f.ncap with
    | (s2, none) => s2
    | (s2, some caps) => { s2 with warms := put s2.warms qid (warmStart f p l caps) }

/-- The cause with which a warm-up ended, where it did. -/
def Warm.failed (w : Warm) : Option Nat :=
  let l := w.strand.lane 0
  if l.ls = .parked then some l.own.toNat else none

/-- LAUNCH: a field, a warm-up's start, or the record of a warm-up that faulted. -/
def execLaunch (queue : Nat) (s : State) : Host.Outcome State Fault Refusal :=
  match s.atFree queue with
  | none => .next s
  | some (mid, m, p) =>
    match find m.protos m.pos with
    | some f =>
      match find s.warms queue with
      | some w =>
        match w.failed with
        | some c => .next ((s.ownRecord mid m.pos 4 0 c (getD 0 m.nfield m.pos)).passLaunch queue mid m.pos)
        | none => .next s
      | none =>
        .next (if lWoff p = noWarm then (s.addField mid m.pos f).passLaunch queue mid m.pos
          else
            let t := s.startWarm queue p f
            t.setPState mid m.pos (if (find t.warms queue).isSome then .idle else .waiting))
    | none => .next s

/-! ### WAIT, SIGNAL, COPY (R227, R228) -/

/-- The condition of a WAIT. -/
def waitHolds (p v : Nat) : Bool :=
  let x := pq p 2
  match bits p 9 8 with
  | 0 => x ≤ v
  | 1 => v = x
  | _ => v ≠ x

/-- WAIT. -/
def execWait (queue : Nat) (s : State) : Host.Outcome State Fault Refusal :=
  match s.atFree queue with
  | none => .next s
  | some (mid, m, p) =>
    if pType p ≠ tWait then .next s
    else
      match s.frontRead queue (bits (pq p 1) 56 0) 8 with
      | (s1, .wait) => .next (s1.setPState mid m.pos .waiting)
      | (s1, .cause c) => .next (s1.failQueue queue c)
      | (s1, .val v) =>
        let s2 := s1.setPState mid m.pos .idle
        .next (if waitHolds p v then (s2.modMeet mid fun m => { m with pos := m.pos + 1 }).advance mid else s2)

/-- Fields launched from a queue before a meet. -/
def State.earlier (s : State) (queue mid : Nat) : List (Nat × Field) :=
  s.fields.filter fun e => e.2.queue = queue && e.2.meet < mid

/-- The fields whose end a SIGNAL waits for, and whose units VOUCH asks about (R228). -/
def State.signalled (s : State) (mid : Nat) (m : Meet) : List (Nat × Field) :=
  if m.grouped then s.fields.filter fun e => e.2.meet = mid else s.earlier m.queue mid

/-- The moment of a SIGNAL has come, vouching apart. -/
def State.signalDue (s : State) (mid : Nat) (m : Meet) (p : Nat) : Bool :=
  if m.grouped then m.complete
  else !bit p 9 || (s.earlier m.queue mid).all fun e => e.2.ended ≠ .live

/-- Perform a SIGNAL's write or add. -/
def State.writeSignal (s : State) (mid i : Nat) (m : Meet) (p : Nat) : State :=
  let off := bits (pq p 1) 56 0
  match s.frontRead m.queue off 8 with
  | (s1, .wait) => s1.setPState mid i .waiting
  | (s1, .cause c) => s1.failQueue m.queue c
  | (s1, .val old) =>
    match s1.frontWrite m.queue off 8 (if bit p 8 then (old + pq p 2) % 2 ^ 64 else pq p 2) with
    | (s2, .wait) => s2.setPState mid i .waiting
    | (s2, .cause c) => s2.failQueue m.queue c
    | (s2, .val _) => (s2.ownRecord mid i 1 0 0 0).settleMeet mid

/-- A SIGNAL or COPY is under way: neither discarded by a reset of its queue nor behind a packet that waits for a page
(R242, R480). -/
def State.underWay (s : State) (mid i : Nat) (m : Meet) : Bool :=
  (m.state i = .armed || m.state i = .waiting) &&
  !((find s.queues m.queue).any fun q => q.resetting) && !s.heldBefore m.queue mid i

/-- SIGNAL. -/
def execSignal (meet index : Nat) (s : State) : Host.Outcome State Fault Refusal :=
  match find s.meets meet with
  | none => .next s
  | some m =>
    let p := m.packet index
    if pType p ≠ tSignal || !s.underWay meet index m || !s.signalDue meet m p then .next s
    else
      let fs := s.signalled meet m
      if bit p 10 && fs.any (fun e => e.2.suspect) then
        .next ((s.ownRecord meet index 9 0 0 0).settleMeet meet)
      else if bit p 10 && fs.any (fun e => !e.2.used.isEmpty) then .next s
      else .next (s.writeSignal meet index m p)

/-- COPY: the copy starts. -/
def execCopy (meet index : Nat) (s : State) : Host.Outcome State Fault Refusal :=
  match find s.meets meet with
  | none => .next s
  | some m =>
    let ready := (m.grouped || (s.earlier m.queue meet).all fun e => e.2.ended ≠ .live) &&
      !((find s.queues m.queue).any fun q => q.resetting) && !s.heldBefore m.queue meet index
    if m.begun && m.pos = index && index < m.packets.length && pType (m.packet index) = tCopy && ready then
      .next ((s.modMeet meet fun m => { m with states := put m.states index .armed, pos := m.pos + 1 }).advance meet)
    else .next s

/-- Copy units of 16 bytes, ascending, from unit k on: how many are done, and how it ended. -/
def State.copyUnits (s : State) (qid src dst : Nat) : Nat → Nat → State × Nat × FrontVal
  | 0, k => (s, k, .val 0)
  | n + 1, k =>
    match s.frontRead qid (src + 16 * k) 16 with
    | (s1, .val v) =>
      match s1.frontWrite qid (dst + 16 * k) 16 v with
      | (s2, .val _) => s2.copyUnits qid src dst n (k + 1)
      | (s2, r) => (s2, k, r)
    | (s1, r) => (s1, k, r)

/-- COPY_DONE: the rest is copied; a page still to be mapped holds the copy. -/
def execCopyDone (meet index : Nat) (s : State) : Host.Outcome State Fault Refusal :=
  match find s.meets meet with
  | none => .next s
  | some m =>
    let p := m.packet index
    if pType p ≠ tCopy || !s.underWay meet index m then .next s
    else
      let k := getD 0 m.copied index
      let r := s.copyUnits m.queue (bits (pq p 1) 56 0) (bits (pq p 2) 56 0) (bits (pq p 3) 31 0 / 16 - k) k
      let s1 := r.1.modMeet meet fun m => { m with copied := put m.copied index r.2.1 }
      match r.2.2 with
      | .wait => .next (s1.setPState meet index .waiting)
      | .cause c => .next ((s1.ownRecord meet index 8 0 c 0).settleMeet meet)
      | .val _ => .next ((s1.ownRecord meet index 1 0 0 0).settleMeet meet)

end Sys2Proof.Machine
end

