-- ==== Sys2Proof/Machine/Life.lean ====
section
/-! DEFINITION. Integration, the cord, rotation, sensors and clocks, and BOOST, THERM and WRD (R19, R21, R22, R256 to
R258, R270 to R289, R361, R457, R462). -/

namespace Sys2Proof.Machine

/-! ### Stress (R271, R280, R282) -/

/-- The supply index of a sample in mV. -/
def supplyIndex (mv : Nat) : Nat := min 15 ((mv - 600) / 25)
/-- The temperature index of a sensor. -/
def tempIndex (t : Int) : Nat := min 15 ((t - 25) / 5).toNat

/-- The unit's own sensor. -/
def State.unitTemp (s : State) (k : WearKind) (i : Nat) : Int :=
  match k with
  | .core => getD 0 (s.cluster (i / 4)).coreT (i % 4)
  | .pacer => (s.cluster i).pacerT
  | .array => (s.cluster i).arrayT
  | .slice => getD 0 s.dev.sliceT i
  | .link => getD 0 s.dev.linkT i

/-- The supply index of the nominal clock, vn (R285). -/
def nominalIndex : Nat := 6

/-- The firmware's supply index of a boost level, VB (R285, R469); that of level 3 no rule gives. -/
def boostIndex (level : Nat) : Nat :=
  match level with
  | 1 => 7
  | 2 => 8
  | 4 => 10
  | n => (Config.vBoost n).toNat

/-- What the firmware's tables add per interval from vn to a supply index, over the three mechanisms, where a rule gives it
(R285, R469). -/
def tableRise (k : WearKind) (v t : Nat) : Option Nat :=
  let at_ (core pacer array : Nat) : Option Nat := match k with
    | .core => some core
    | .pacer => some pacer
    | .array => some array
    | .slice => none
    | .link => none
  match v, t with
  | 7, 8 => at_ 96 52 180
  | 8, 8 => at_ 210 115 390
  | 10, 8 => at_ 700 390 1250
  | 8, 12 => at_ 274 150 500
  | _, _ => none

/-- What falls to mechanism m of a sum of n; how it is divided is the firmware's. -/
def riseOf (n x y m : Nat) : Nat :=
  let a := x % (n + 1)
  let b := y % (n - a + 1)
  match m with
  | 0 => a
  | 1 => b
  | _ => n - a - b

/-- The firmware's entry for a mechanism: 232 at the reference conditions, 0.75 V and 85 °C (R3, R271); where a rule gives
what the mechanisms of a kind add together, they do (R285, R469, log 34). -/
def stress (k : WearKind) (m v t : Nat) : Nat :=
  let e (m v : Nat) : Nat := (Config.wearE (kindNum k) m v t).toNat
  let base : Nat := if t = 12 then 232 else e m nominalIndex
  if v = nominalIndex then base
  else
    match tableRise k v t with
    | some n => base + riseOf n (e 0 v) (e 1 v) m
    | none => e m v

/-- The increments of an interval: BTI, HCI, EM. -/
def incs (k : WearKind) (v t a : Nat) : Nat × Nat × Nat :=
  (stress k 0 v t * a / 256, stress k 1 v t * a / 256, stress k 2 v t * a / 256)

def wearCap : Nat := 2 ^ 48 - 1

/-- One integration of a record. -/
def WearRec.integrate (r : WearRec) (d : Nat × Nat × Nat) (mon : Nat) : WearRec :=
  { r with
    bti := min (r.bti + d.1) wearCap, hci := min (r.hci + d.2.1) wearCap, em := min (r.em + d.2.2) wearCap,
    since := min (r.since + d.1) wearCap, active := (r.active + 1) % 2 ^ 48, mon := mon }

/-- The thresholds of a kind together (R280). -/
def thresholds (k : WearKind) : Nat :=
  (Config.wearMax (kindNum k) 0).toNat + (Config.wearMax (kindNum k) 1).toNat + (Config.wearMax (kindNum k) 2).toNat

/-- The stress per interval that the target allows. -/
def allow (k : WearKind) (lifeh : Nat) : Nat :=
  if lifeh = 0 then 0 else thresholds k * 2 ^ 20 / (lifeh * 9720000000000)

/-- The cord within its bounds. -/
def clampBal (z : Int) (capwu : Nat) : Int := max (-(2 ^ 47 : Nat)) (min z ((capwu * 2 ^ 30 : Nat) : Int))

/-- A unit crosses (R275). -/
def WearRec.crosses (r : WearRec) (k : WearKind) : Bool :=
  (Config.wearMax (kindNum k) 0).toNat ≤ r.bti || (Config.wearMax (kindNum k) 1).toNat ≤ r.hci ||
  (Config.wearMax (kindNum k) 2).toNat ≤ r.em || (Config.monMax (kindNum k)).toNat ≤ r.mon

/-- A grant is in force on the unit's cluster. -/
def State.boosted (s : State) (k : WearKind) (i : Nat) : Bool :=
  match unitCluster k i with
  | some c =>
    match (s.cluster c).grant with
    | some g => !(s.cluster c).grantSpent g
    | none => false
  | none => false

/-- A slice leaves its group and service (R258, R276). -/
def State.dropSlice (s0 : State) (i : Nat) : State :=
  let s := s0.cutRest .slice i
  ({ s with slices := put s.slices i { (find s.slices i).getD sliceInit with present := false } } : State).ungroup true i

/-- A unit that crosses, or whose records fail to check, goes out of service (R276, R277). DESIGN CHOICE, entry 92: its
record is written once here for the unit and once with the other units of a cluster that retires. -/
def State.retireUnit (s : State) (k : WearKind) (i : Nat) : State :=
  let s1 := s.modWear k i fun r => { r with state := 2 }
  match k with
  | .slice => s1.dropSlice i
  | .link => { s1 with links := put s1.links i false }
  | .core => s1.retireCluster (i / 4)
  | .pacer => s1.retireCluster i
  | .array => s1.retireCluster i

/-- The unit's cluster has been exchanged in this very cycle (R291). -/
def State.justExchanged (s : State) (k : WearKind) (i : Nat) : Bool :=
  match unitCluster k i with
  | some c => (s.cluster c).exchanged
  | none => false

/-- A BOOST of this cycle has been decided on the unit's cluster: its integrations of the cycle came before (R291). -/
def State.justDecided (s : State) (k : WearKind) (i : Nat) : Bool :=
  match unitCluster k i with
  | some c => (s.cluster c).decided
  | none => false

/-- Pacers, tile arrays and link macros of an active cluster may have been power-gated since they last integrated: a rest of
2^20 cycles or more is credited. When the device gates them, and for how long, is open (R272). -/
def State.ungate (s : State) (k : WearKind) (i : Nat) : State :=
  let c := s.freeNat 32
  match k with
  | .core => s
  | .slice => s
  | .pacer => if 2 ^ 20 ≤ c then s.endRest k i c false else s
  | .array => if 2 ^ 20 ≤ c then s.endRest k i c false else s
  | .link => if 2 ^ 20 ≤ c then s.endRest k i c false else s

/-- The relays of a cluster a unit of which crosses now. -/
def State.noteCrossing (s : State) (k : WearKind) (i : Nat) : State :=
  match unitCluster k i with
  | some c =>
    { s with relays := s.relays.map fun e => (e.1, if e.2.place = some c then { e.2 with crossed := true } else e.2) }
  | none => s

/-- WEAR_INTEGRATION: an active unit integrates, settles the cord and writes its record; a crossing retires it. Of a
cluster that a BOOST.SPARE of the same cycle has exchanged, only a crossing still counts, and the spare called up then is
the one of its retirement; after another BOOST of the cycle on the cluster, the integration is of a later cycle. -/
def execWearIntegration (kind : WearKind) (index mv activity : Nat) (mon : BitVec 16) (s0 : State) :
    Host.Outcome State Fault Refusal :=
  let spent : Bool := s0.justExchanged kind index
  let s := if spent then s0 else s0.ungate kind index
  let r := s.wearRec kind index
  if kindCount kind ≤ index || (s0.wearRec kind index).state ≠ (if spent then 1 else 0) || s0.resting kind index ||
     (s0.justDecided kind index && !spent) then .next s0
  else
    let t := tempIndex (s.unitTemp kind index)
    let a := min activity 256
    let d := incs kind (supplyIndex mv) t a
    let n := r.integrate d mon.toNat
    let u := if s.boosted kind index then incs kind nominalIndex t a else d
    let settles : Bool := match unitCluster kind index with
      | some _ => true
      | none => false
    let bal := if settles then
      clampBal (s.dev.bal + allow kind s.dev.lifeh - (u.1 + u.2.1 + u.2.2 : Nat)) s.dev.capwu
    else s.dev.bal
    let s1 := { s.writeWear kind index n with dev := { s.dev with bal := bal } }
    .next (if n.crosses kind then (s1.noteCrossing kind index).retireUnit kind index else if spent then s0 else s1)

/-! ### Rotation and scans (R21, R256 to R258) -/

/-- Passes of a unit a field drew on. -/
def State.passesOf (s : State) : UsedUnit → Nat
  | .core p => (s.core p).passes
  | .slice i => ((find s.slices i).getD sliceInit).passes
  | .array c => (s.cluster c).arrayPasses

/-- Units that have passed since a field's last use of them are no longer provisional. -/
def State.sweepUsed (s : State) : State :=
  let keep := fun (f : Field) => ({ f with used := f.used.filter fun u => s.passesOf u.1 ≤ u.2 } : Field)
  let s1 : State := { s with fields := s.fields.map fun (e : Nat × Field) => (e.1, keep e.2) }
  (s1.fields.map fun (e : Nat × Field) => e.1).foldl (fun s f => s.tidyField f) s1

/-- ROTATION_SCAN_DONE. -/
def execRotationScanDone (group : Nat) (pass : Bool) (s : State) : Host.Outcome State Fault Refusal :=
  match find s.rot group with
  | none => .next s
  | some g =>
    let p := g.current
    if !g.scanning || !g.members.contains p then .next s
    else
      -- a unit that fails never rests: its rotation ends as it leaves the group (R258)
      let s1 := { s with rot := put s.rot group { g with scanning := false } }
      match g.slices, pass with
      | false, true => .next (s1.setCore p { s1.core p with passes := (s1.core p).passes + 1 }).sweepUsed
      | true, true =>
        let sl := (find s1.slices p).getD sliceInit
        .next ({ s1 with slices := put s1.slices p { sl with passes := sl.passes + 1 } } : State).sweepUsed
      | false, false => .next ((s.suspectUnit (.core p)).retireCluster (p / 4))
      | true, false => .next ((s.suspectUnit (.slice p)).retireUnit .slice p)

/-- The length of a rotation rest: what the slot leaves after the scan, with any extension of the slot, which is
open here (R21, R256). -/
def State.restLength (s : State) : Nat := 2 ^ 29 - 13500000 + s.freeNat 8

/-- ROTATION_SLOT_END: the unit's rest is credited and the next member enters, once it holds no squad. -/
def execRotationSlotEnd (group : Nat) (s : State) : Host.Outcome State Fault Refusal :=
  match find s.rot group with
  | none => .next s
  | some g =>
    let p := g.current
    match g.next p with
    | none => .next s
    | some n =>
      if g.scanning || (!g.slices && n ≠ p && !(s.coreUse none n).slots.isEmpty) then .next s
      else
        let k : WearKind := if g.slices then .slice else .core
        let s1 := if g.members.contains p then s.endRest k p s.restLength true else s
        .next { s1 with rot := put s1.rot group { g with current := n, scanning := true } }

/-- The tile array is due for a scan: none passed in its last 2^31 cycles (R256). -/
def Cluster.arrayDue (c : Cluster) : Bool := 2 ^ 31 ≤ c.cyc.toNat - c.arrayPass

/-- TILE_ARRAY_SCAN: when due, in a gap between relays with a pacer. -/
def execTileArrayScan (cluster : Nat) (pass : Bool) (s : State) : Host.Outcome State Fault Refusal :=
  let cl := s.cluster cluster
  if cl.status ≠ .active || 104 ≤ cluster || !cl.arrayDue || (s.residents cluster none).any (fun e => e.2.pacer.isSome) then .next s
  else if pass then
    .next (s.setCluster cluster { cl with arrayPasses := cl.arrayPasses + 1, arrayPass := cl.cyc.toNat }).sweepUsed
  else .next ((s.suspectUnit (.array cluster)).retireCluster cluster)

/-! ### Clocks and sensors (R19, R283, R286, R287) -/

/-- The clock of a cluster when no droop slows it, in MHz. -/
def Cluster.fullMhz (c : Cluster) : Nat :=
  match c.grant with
  | some g => if g.since.isSome && !c.grantSpent g then 2700 + 100 * g.level else 2700
  | none => 2700

/-- SUPPLY_DROOP: the oscillator takes a slower clock, or recovers. -/
def execSupplyDroop (cluster mhz : Nat) (s : State) : Host.Outcome State Fault Refusal :=
  let c := s.cluster cluster
  if cluster < 104 && c.status = .active then
    .next (s.setCluster cluster { c with mhz := max 2200 (min mhz c.fullMhz) })
  else .next s

/-- BOOST_LEVEL_REACHED. -/
def execBoostLevelReached (cluster : Nat) (s : State) : Host.Outcome State Fault Refusal :=
  let c := s.cluster cluster
  match c.grant with
  | some g =>
    if g.since.isSome then .next s
    else
      .next (s.setCluster cluster
        { c with grant := some { g with since := some c.cyc.toNat }, mhz := 2700 + 100 * g.level })
  | none => .next s

/-- BOOST_GRANT_END: its cycles are spent. -/
def execBoostGrantEnd (cluster : Nat) (s : State) : Host.Outcome State Fault Refusal :=
  let c := s.cluster cluster
  match c.grant with
  | some g => .next (if c.grantSpent g then s.setCluster cluster c.endGrant else s)
  | none => .next s

/-- A stack refreshes at double rate above 85 °C, until it reads 82 °C or less (R287). -/
def refresh (old : Bool) (t : Int) : Bool := if 85 < t then true else if t ≤ 82 then false else old

/-- At 95 °C the cluster's relays move to other clusters where those have room; where not, each MIGRATION is such a
request again (R236, R287). -/
def State.coolDown (s : State) (c : Nat) : State := (s.residents c none).foldl (fun s e => s.moveAway e.1 c) s

/-- SENSOR_SAMPLE. -/
def execSensorSample (sensor : Sensor) (value : Int) (s : State) : Host.Outcome State Fault Refusal :=
  match sensor with
  | .core p =>
    if 416 ≤ p then .next s
    else
      let c := s.cluster (p / 4)
      let c1 : Cluster := { c with coreT := put c.coreT (p % 4) value }
      .next (if 95 ≤ value then (s.setCluster (p / 4) c1.endGrant).coolDown (p / 4) else s.setCluster (p / 4) c1)
  | .pacer c => .next (if c < 104 then s.setCluster c { s.cluster c with pacerT := value } else s)
  | .array c => .next (if c < 104 then s.setCluster c { s.cluster c with arrayT := value } else s)
  | .slice i => .next (if i < 256 then { s with dev := { s.dev with sliceT := put s.dev.sliceT i value } } else s)
  | .link i => .next (if i < 18 then { s with dev := { s.dev with linkT := put s.dev.linkT i value } } else s)
  | .stack d i =>
    if 4 ≤ d || 3 ≤ i then .next s
    else
      let die := (find s.dies d).getD dieInit
      let nd : Die := ⟨put die.stackT i value, put die.refx2 i (refresh (getD false die.refx2 i) value)⟩
      .next { s with dies := put s.dies d nd }

/-! ### BOOST (R281 to R285) -/

/-- The stress a boost adds over n intervals (R282). -/
def State.boostCost (s : State) (c n level : Nat) : Nat :=
  ((clusterUnits c).flatMap fun u => (List.range 3).map fun m =>
    let t := tempIndex (s.unitTemp u.1 u.2)
    n * (stress u.1 m (boostIndex level) t - stress u.1 m nominalIndex t)).foldl (· + ·) 0

/-- The class of the requesting queue. -/
def State.quarClass (s : State) (u : UnitRef) : Bool :=
  match s.fieldOf u with
  | some f => f.quar || (match find s.queues f.queue with
    | some q => q.quar
    | none => false)
  | none => false

/-- A crossing on the unit's cluster came first in this cycle (R291). -/
def State.crossing (s : State) (u : UnitRef) : Bool :=
  match s.relayOf u with
  | some rl => rl.crossed
  | none => false

/-- The decision: the status, and the machine after it (R282). -/
def State.decideBoost (s : State) (u : UnitRef) (spare : Bool) (level cycles : Nat) : Nat × State :=
  let c := (s.clusterOf u).getD 0
  let cl := s.cluster c
  let n := (cycles + 2 ^ 20 - 1) / 2 ^ 20
  if s.quarClass u then (2, s)
  else if spare && s.crossing u then (4, s)
  else if level = 0 then (0, s.setCluster c cl.endGrant)
  else if s.boosted .pacer c then (4, s)
  else if s.dev.lifeh = 0 then (7, s)
  else if bits (s.srTallow (c / 26)) 7 0 < 5 * level then (3, s)
  else
    let cost := s.boostCost c n level
    if (cost : Int) ≤ s.dev.bal then
      let s1 := { s with dev := { s.dev with bal := s.dev.bal - cost } }
      (0, s1.setCluster c { cl with grant := some ⟨level, n, none, s.fieldD u 0 fun f => f.ctx⟩ })
    else if !spare || s.dev.bal < 0 then (1, s)
    else if s.clustersWith .spare = 0 then (6, s)
    else (5, s)

/-- A BOOST has been decided on the cluster in this cycle (R291). -/
def State.noteDecided (s : State) (c : Nat) : State := s.setCluster c { s.cluster c with decided := true }

def boostWord (spare : Bool) (f : RegF) (s : State) : Host.Outcome State Fault Refusal :=
  withUnit s fun F x =>
    let u := F.unit
    let d := f.d.toNat
    let e := effectLanes x F.lanes f.pred
    let a := readOpd x 0 true f.a.toNat 1
    let b := readOpd x 0 true f.b.toNat 1
    let ts := [a.taint, b.taint, guardTaint x F.lanes f.pred]
    if e = 0#32 then s.finishOnce F x (regInfo f) [d] e {}
    else if mustVerify ts then s
    else
      let causes := unitCauses u {} ++ scalarCauses s u x e f.pred [d, f.a.toNat, f.b.toNat] ++ poisonCause ts ++
        (if 4 < a.val || (a.val ≠ 0 && b.val = 0) || (spare && a.val = 0) then [0x04] else [])
      if !causes.isEmpty then s.finishOnce F x (regInfo f) [d] e { causes := causes }
      else
        let r := s.decideBoost u spare a.val b.val
        let s1 := (r.2.noteDecided ((s.clusterOf u).getD 0)).finishOnce F x (regInfo f) [d] e { sw := [(d, ⟨BitVec.ofNat 32 r.1, .clean⟩)] }
        if r.1 = 5 then s1.exchange ((s.clusterOf u).getD 0) else s1

/-- BOOST. -/
def execBoost (f : RegF) (s : State) : Host.Outcome State Fault Refusal := boostWord false f s
/-- BOOST.SPARE. -/
def execBoostSpare (f : RegF) (s : State) : Host.Outcome State Fault Refusal := boostWord true f s

/-! ### THERM and WRD (R288, R289) -/

/-- The reading of a selector. -/
def State.thermValue (s : State) (u : UnitRef) (sel : Nat) : Int :=
  let c := (s.clusterOf u).getD 0
  let cl := s.cluster c
  let die := c / 26
  match sel with
  | 0 => match s.coreOf u with
    | some p => getD 0 cl.coreT (p % 4)
    | none => hottest cl.coreTemps
  | 1 => hottest cl.coreTemps
  | 2 =>
    let act := (List.range 26).filter fun i => (s.cluster (die * 26 + i)).status = .active
    hottest (act.flatMap fun i => (s.cluster (die * 26 + i)).coreTemps)
  | _ => hottest (((find s.dies die).getD dieInit).stackT.map fun e => e.2)

/-- THERM. -/
def execTherm (f : RegF) (s : State) : Host.Outcome State Fault Refusal :=
  withUnit s fun F x =>
    let u := F.unit
    let d := f.d.toNat
    let e := execLanes x F.lanes f.pred
    let a := readOpd x 0 true f.a.toNat 1
    let causes := if e = 0#32 then [] else
      unitCauses u {} ++ scalarCauses s u x e f.pred [d, f.a.toNat] ++ (if 3 < a.val then [0x04] else [])
    s.finishOnce F x (regInfo f) [d] e
      { causes := causes,
        sw := if e = 0#32 then [] else [(d, ⟨BitVec.ofInt 32 (s.thermValue u a.val), a.taint⟩)] }

/-- The unit a selector of WRD names, with its causes (R289). -/
def State.wrdUnit (s : State) (u : UnitRef) (sel : Nat) : List Nat × WearKind × Nat :=
  let c := (s.clusterOf u).getD 0
  if bit sel 31 then
    let i := bits sel 15 0
    let base := (if s.fieldD u false fun f => f.priv then [] else [0x25]) ++
      (if bits sel 30 27 ≠ 0 || bits sel 23 16 ≠ 0 then [0x04] else [])
    match kindOf (bits sel 26 24) with
    | some k => (base ++ (if i < kindCount k then [] else [0x04]), k, i)
    | none => (base ++ [0x04], .core, 0)
  else
    match sel with
    | 4 => ([], .pacer, c)
    | 5 => ([], .array, c)
    | n => if n < 4 then ([], .core, 4 * c + n) else ([0x04], .core, 0)

/-- WRD. -/
def execWrd (f : RegF) (s : State) : Host.Outcome State Fault Refusal :=
  withUnit s fun F x =>
    let u := F.unit
    let d := f.d.toNat
    let e := effectLanes x F.lanes f.pred
    let a := readOpd x 0 true f.a.toNat 1
    let b := readOpd x 0 true f.b.toNat 1
    let ts := [a.taint, b.taint, guardTaint x F.lanes f.pred]
    if e = 0#32 then s.finishOnce F x (regInfo f) (span d 2) e {}
    else if mustVerify ts then s
    else
      let w := s.wrdUnit u a.val
      let causes := unitCauses u {} ++ scalarCauses s u x e f.pred (span d 2 ++ [f.a.toNat, f.b.toNat]) ++
        poisonCause ts ++ w.1 ++ (if 7 < b.val then [0x04] else [])
      let v := (s.wearShown w.2.1 w.2.2).quad w.2.1 w.2.2 b.val
      s.finishOnce F x (regInfo f) (span d 2) e
        (if causes.isEmpty then { sw := splitRegs d v .clean 2 } else { causes := causes })

end Sys2Proof.Machine
end

