-- ==== Sys2Proof/Machine/Host.lean ====
section
/-! DEFINITION. What the hosts do: doorbells, queue resets, host commands, host registers, BAR2, and the trusted
interface (R8, R134, R214 to R216, R226, R233, R242, R250 to R253, R264 to R266, R278, R292 to R303, R306). -/

namespace Sys2Proof.Machine

/-! ### Doorbells and resets (R216, R226, R242, R299) -/

/-- The queue a write names, where the port owns it. -/
def State.ownQueue (s : State) (p : Port) (qid : Nat) : Option Queue :=
  if queuePort qid = p then find s.queues qid else none

/-- VX_DOORBELL. -/
def execVxDoorbell (port : Port) (value : Word64) (s : State) : Host.Outcome State Fault Refusal :=
  let v := value.toNat
  let qid := bits v 14 0
  match s.ownQueue port qid with
  | none => .next s
  | some q =>
    if (s.port port).iface = .error then .next s
    else
      let w := BitVec.ofNat 32 (bits v 63 32)
      let packets := 2 ^ (bits q.q0.toNat 61 57 - 6)
      if bits v 31 15 ≠ 0 || packets < (w - q.ridx).toNat then
        .next (s.demote qid)
      else .next (s.modQueue qid fun q => { q with widx := w })

/-- A write of VX_QCTL that is not dropped: its operation and queue. A value in the reserved bits [27:15] is ignored (R9);
one in [31:30] drops the write (R226). -/
def State.qctl (s : State) (p : Port) (v : Nat) : Option (Nat × Nat) :=
  if bits v 31 30 = 0 && (s.ownQueue p (bits v 14 0)).isSome then
    some (bits v 29 28, bits v 14 0)
  else none

/-- CLEAR_QUAR: VX_QCTL operation 1; a placement of the same cycle still has the class before it (R241). -/
def execClearQuar (port : Port) (value : Word32) (s : State) : Host.Outcome State Fault Refusal :=
  match s.qctl port value.toNat with
  | some (1, q) => .next (s.modQueue q fun q => { q with quar := false, cleared := q.cleared || q.quar })
  | _ => .next s

/-- QUEUE_RESET: VX_QCTL operation 2 (steps 1 to 3). -/
def execQueueReset (port : Port) (value : Word32) (s : State) : Host.Outcome State Fault Refusal :=
  match s.qctl port value.toNat with
  | some (2, q) => .next (s.startReset q)
  | _ => .next s

/-- QUEUE_RESET_REPORT: the open records, RIDX, and VX_QSTAT (steps 4 and 5). -/
def execQueueResetReport (queue : Nat) (s : State) : Host.Outcome State Fault Refusal :=
  match find s.queues queue with
  | none => .next s
  | some q =>
    if !q.resetting then .next s
    else
      let mine := (s.meets.filter fun e => e.2.queue = queue).map fun e => e.1
      let s1 := (mine.foldl (fun s m => s.oweReset m) s).flushOwed queue
      match find s1.queues queue with
      | none => .next s1
      | some q1 =>
        if !q1.owed.isEmpty then .next s1
        else
          let s2 := s1.modQueue queue fun q => { q with ridx := q.widx, resetting := false, resetDone := true }
          let s3 : State := { s2 with fields := s2.fields.filter fun e => e.2.queue ≠ queue || e.2.ended ≠ .reset }
          .next (s3.modPort (queuePort queue) fun ps =>
            { ps with qstat := BitVec.ofNat 64 (2 ^ 63 + queue) })

/-! ### Host commands (R295 to R298) -/

/-- Quadword i of a port's command block. -/
def PortState.cmd (ps : PortState) (i : Nat) : Nat := (getD 0#64 ps.hcmd i).toNat

def PortState.op (ps : PortState) : Nat := bits (ps.cmd 0) 7 0
def PortState.cmdCtx (ps : PortState) : Nat := bits (ps.cmd 0) 30 16

/-- Every field a command does not name is 0: `fs` gives the fields of HCMD1 to HCMD3. -/
def PortState.cmdClean (ps : PortState) (fs : List (List (Nat × Nat))) : Bool :=
  onlyFields [(7, 0), (30, 16)] (ps.cmd 0) &&
  (List.range 7).all fun i => onlyFields (fs.getD i []) (ps.cmd (i + 1))

/-- Whose context a number names. -/
def State.ctxPort (s : State) (c : Nat) : Option Port := (find s.ctxs c).map fun x => x.port

/-- A context of the other port (R296). -/
def State.foreign (s : State) (p : Port) (c : Nat) : Bool :=
  match s.ctxPort c with
  | some q => q ≠ p
  | none => false

/-- What every command must pass before its own checks; 0 where it does. -/
def State.commandBars (s : State) (p : Port) (clean foreign : Bool) : Nat :=
  if (s.port p).iface = .error then 4
  else if s.dev.startState ≠ 3 then 1
  else if !clean then 2
  else if foreign then 3 else 0

/-- The command has had its effect, or is refused. -/
def State.settleCommand (s : State) (p : Port) (status : Nat) : State :=
  s.modPort p fun ps => { ps with performed := true, status := BitVec.ofNat 8 status }

/-- Perform the submitted command where it is operation `op`: `act` gives its status and, where that is 0, its effect;
none while it must wait. -/
def hostCommand (p : Port) (op : Nat) (fs : List (List (Nat × Nat))) (namesCtx : Bool)
    (act : State → PortState → Option (Nat × State)) (s : State) : Host.Outcome State Fault Refusal :=
  let ps := s.port p
  if ps.done || ps.performed || ps.op ≠ op then .next s
  else
    let b := s.commandBars p (ps.cmdClean fs) (namesCtx && s.foreign p ps.cmdCtx)
    if b ≠ 0 then .next (s.settleCommand p b)
    else
      match act s ps with
      | none => .next s
      | some (0, t) => .next (t.settleCommand p 0)
      | some (n, _) => .next (s.settleCommand p n)

/-- Context 0x7FFF stands for the port (R297). -/
def portCtx : Nat := 0x7FFF

/-- CTX_CREATE. -/
def execCtxCreate (port : Port) (s : State) : Host.Outcome State Fault Refusal :=
  hostCommand port 1 [[(47, 12)], [(56, 0)], [(15, 0)]] true (fun s ps =>
    let c := ps.cmdCtx
    let root := ps.cmd 1
    let base := ps.cmd 2
    let n := ps.cmd 3
    if (find s.ctxs c).isSome || c = portCtx || (s.frame (root / 65536)).owner ≠ .host port || base % 16 ≠ 0 || n = 0 then
      some (2, s)
    else
      let x : Ctx :=
        { port := port, root := root, capRoot := base, capN := n, lmap := indexed s.actives, dbgEn := false,
          stopHeat := false, step := false, tensors := [], cgrps := [] }
      some (0, { s with ctxs := put s.ctxs c x })) s

/-- CTX_END. -/
def execCtxEnd (port : Port) (s : State) : Host.Outcome State Fault Refusal :=
  hostCommand port 2 [] true (fun s ps =>
    let c := ps.cmdCtx
    if (find s.ctxs c).isNone then some (2, s)
    else if !(s.queuesOf c).isEmpty then some (1, s)
    else some (0, s.endContext c)) s

/-- Q0 and Q1 of a queue record obey R215, PKCAP apart. -/
def queueOk (q0 q1 : Nat) : Bool :=
  let lg := bits q0 61 57
  bits q0 63 62 = 0 && bits q1 63 48 = 0 && !bit q1 20 && 12 ≤ lg && lg ≤ 24 && bits q0 56 0 % 2 ^ lg = 0 &&
  10 ≤ bits q1 31 27 && bits q1 31 27 ≤ 24 && 20 ≤ bits q1 26 22

/-- The capability table entry of a context, as the front end reads it in a command. DESIGN CHOICE, entry 101: on a page
that is not mapped it is untagged (R215). -/
def State.entryNow (s : State) (c n : Nat) : Cap :=
  match find s.ctxs c with
  | none => capNull
  | some cx =>
    match s.translateCtx c ((cx.capRoot + 16 * n) % 2 ^ 57) false with
    | .hit pa e => ⟨BitVec.ofNat 128 (s.readMem pa 16), e.cap && s.tag pa⟩
    | _ => capNull

/-- That entry's page is still being zeroed: the command waits (R154). -/
def State.entryBusy (s : State) (c n : Nat) : Bool :=
  (find s.ctxs c).any fun cx => match s.translateCtx c ((cx.capRoot + 16 * n) % 2 ^ 57) false with
    | .hit pa _ => s.beingZeroed pa
    | .busy => true
    | _ => false

/-- Q_CREATE. -/
def execQCreate (port : Port) (s : State) : Host.Outcome State Fault Refusal :=
  hostCommand port 3 [[(63, 0)], [(63, 0)], [(14, 0)]] false (fun s ps =>
    let q0 := ps.cmd 1
    let q1 := ps.cmd 2
    let qid := ps.cmd 3
    let c := bits q1 14 0
    let owner : Port := if bit q1 21 then .p1 else .p0
    if queuePort qid ≠ port || owner ≠ port || s.foreign port c then some (3, s)
    else
      match find s.ctxs c with
      | none => some (2, s)
      | some cx =>
        let cap := s.entryNow c (bits q1 47 32)
        if s.entryBusy c (bits q1 47 32) then none
        else if !queueOk q0 q1 || cx.capN ≤ bits q1 47 32 || (find s.queues qid).isSome ||
           !(frontCauses cap (bits q0 56 0) (2 ^ bits q0 61 57) [.r, .w]).isEmpty then some (2, s)
        else
          let q : Queue :=
            { q0 := BitVec.ofNat 64 q0, q1 := BitVec.ofNat 64 q1, quar := false, widx := 0#32, ridx := 0#32, cap := cap,
              pending := [], resetting := false, resetDone := false, owed := [], cleared := false }
          some (0, { s with queues := put s.queues qid q })) s

/-- Q_DESTROY. -/
def execQDestroy (port : Port) (s : State) : Host.Outcome State Fault Refusal :=
  hostCommand port 4 [[(14, 0)]] false (fun s ps =>
    let qid := ps.cmd 1
    if queuePort qid ≠ port then some (3, s)
    else
      match find s.queues qid with
      | none => some (2, s)
      | some q =>
        if !q.resetDone || q.resetting then some (1, s)
        else some (0, (s.startReset qid).dropQueues [qid])) s

/-! Frames -/

/-- The frames a command names. -/
def PortState.frameList (ps : PortState) : List Nat :=
  (List.range (bits (ps.cmd 2) 31 0)).map fun i => ps.cmd 1 / 65536 + i

/-- Every frame the command names is a whole frame of a tier outside the carve-outs. -/
def State.framesNamed (s : State) (ps : PortState) : Bool :=
  bits (ps.cmd 2) 31 0 ≤ frames2 && ps.frameList.all fun n => wholeFrame n && !s.inCarve n

/-- The owner a command's context stands for. -/
def ownerOf (p : Port) (c : Nat) : Owner := if c = portCtx then .host p else .ctx c

/-- FRAME_ASSIGN. -/
def execFrameAssign (port : Port) (s : State) : Host.Outcome State Fault Refusal :=
  hostCommand port 5 [[(47, 16)], [(33, 0)]] true (fun s ps =>
    let c := ps.cmdCtx
    let attr := bits (ps.cmd 2) 33 32
    if (c ≠ portCtx && (find s.ctxs c).isNone) || attr = 3 || !s.framesNamed ps then some (2, s)
    else if ps.frameList.any fun n =>
        (s.frame n).owner ≠ .none || (s.frame n).quarantined || (attr = 2 && !s.tierHasCarve n) then some (2, s)
    else
      some (0, ps.frameList.foldl (fun s n =>
        (s.setFrame n ⟨ownerOf port c, BitVec.ofNat 2 attr, false, false⟩).zeroFrames n 1) s)) s

/-- FRAME_RELEASE. -/
def execFrameRelease (port : Port) (s : State) : Host.Outcome State Fault Refusal :=
  hostCommand port 6 [[(47, 16)], [(31, 0)]] true (fun s ps =>
    let own := ownerOf port ps.cmdCtx
    if !s.framesNamed ps then some (2, s)
    else if ps.frameList.any fun n =>
        (s.frame n).owner ≠ .none && (s.frame n).owner ≠ own && (s.frame n).owner ≠ .area ps.cmdCtx then some (3, s)
    else if ps.frameList.any fun n => (s.frame n).owner ≠ own || (s.frame n).quarantined then some (2, s)
    else
      some (0, ps.frameList.foldl (fun s n => (s.zeroFrames n 1).setFrame n frameInit) s)) s

/-- FRAME_SCRUB: a frame whose scrub meets an uncorrectable error (row STORAGE_ERROR) stays quarantined (R266). -/
def execFrameScrub (port : Port) (s : State) : Host.Outcome State Fault Refusal :=
  hostCommand port 7 [[(47, 16)], [(31, 0)]] true (fun s ps =>
    if !s.framesNamed ps || ps.frameList.any fun n => !(s.frame n).quarantined then some (2, s)
    else
      some (0, ps.frameList.foldl (fun s n =>
        let f := s.frame n
        (s.zeroFrames n 1).setFrame n (if f.dead then f else { f with quarantined := false, attr := 0#2 })) s)) s

/-! Capabilities, translations, groups -/

/-- CAP_SET. -/
def execCapSet (port : Port) (s : State) : Host.Outcome State Fault Refusal :=
  hostCommand port 8 [[(15, 0)], [(63, 0)], [(63, 0)]] true (fun s ps =>
    match find s.ctxs ps.cmdCtx with
    | none => some (2, s)
    | some cx =>
      let n := ps.cmd 1
      let va := (cx.capRoot + 16 * n) % 2 ^ 57
      if cx.capN ≤ n then some (2, s)
      else
        match s.walk ps.cmdCtx cx va with
        | .leaf e =>
          let pa := e.pa + (va - e.vbase)
          let d := BitVec.ofNat 128 (ps.cmd 2 + 2 ^ 64 * ps.cmd 3)
          if s.beingZeroed pa then none
          else some (0, (s.hostStore pa 16 d.toNat).setTag pa (e.cap && capTaggable d))
        | .busy => none
        | _ => some (2, s)) s

/-- TLB_INVAL. -/
def execTlbInval (port : Port) (s : State) : Host.Outcome State Fault Refusal :=
  hostCommand port 9 [[(56, 0)], [(56, 0)]] true (fun s ps =>
    let c := ps.cmdCtx
    let base := ps.cmd 1
    let n := ps.cmd 2
    if (find s.ctxs c).isNone then some (2, s)
    else some (0, s.dropTlb fun t => t.ctx = c && t.vbase < base + n && base < t.vbase + t.size)) s

/-- Two entries of a list name one relay. -/
def repeats : List Nat → Bool
  | [] => false
  | n :: ns => ns.contains n || repeats ns

/-- A participant list is valid (R298). -/
def listOk (l : List Nat) : Bool :=
  (l.all fun n => !bit n 23 && entryDevice n ≤ 143 && entryCtx n ≠ portCtx) && !repeats l

/-- CGRP_SET. -/
def execCgrpSet (port : Port) (s : State) : Host.Outcome State Fault Refusal :=
  hostCommand port 10 [[(15, 0), (28, 16)], [(47, 0)]] true (fun s ps =>
    let c := ps.cmdCtx
    let g := bits (ps.cmd 1) 15 0
    let n := bits (ps.cmd 1) 28 16
    let pa := ps.cmd 2
    match find s.ctxs c with
    | none => some (2, s)
    | some cx =>
      if n = 0 then some (0, { s with ctxs := put s.ctxs c { cx with cgrps := del cx.cgrps g } })
      else if 4096 < n || pa % 8 ≠ 0 ||
          !((List.range n).all fun i => (s.frame ((pa + 8 * i) / 65536)).owner = .host port) then some (2, s)
      else if (List.range n).any fun i => s.beingZeroed (pa + 8 * i) then none
      else
        let l := (List.range n).map fun i => s.readMem (pa + 8 * i) 8
        if listOk l then some (0, { s with ctxs := put s.ctxs c { cx with cgrps := put cx.cgrps g l } })
        else some (2, s)) s

/-- Accesses of a context are still to be performed. An engine, and a store of the window of a CWAIT or MWAIT, translates as
it accesses (entries 9 and 82). -/
def State.inflightOf (s : State) (c : Nat) : Bool :=
  s.relays.any fun e =>
    (match find s.fields e.2.field with
     | some f => f.ctx = c
     | none => false) &&
    ((e.2.heats.any fun h => h.2.inflight ≠ 0) || e.2.pacer.any fun x => x.inflight ≠ 0)

/-- HOST_COMMAND_DONE: DONE returns to 1; an invalidation waits for the accesses before it (R134), and an operation that
does not exist is refused. -/
def execHostCommandDone (port : Port) (s : State) : Host.Outcome State Fault Refusal :=
  let ps := s.port port
  if ps.done then .next s
  else if ps.performed then
    if ps.op = 9 && ps.status = 0#8 && s.inflightOf ps.cmdCtx then .next s
    else .next (s.modPort port fun ps => { ps with done := true })
  else if ps.op = 0 || 10 < ps.op then
    let b := s.commandBars port true false
    .next ((s.settleCommand port (if b = 0 then 2 else b)).modPort port fun ps => { ps with done := true })
  else .next s

/-! ### VX_FCTL (R252) -/

/-- The entry of a port's log that a write of VX_FCTL names, with the operation. -/
def State.fctl (s : State) (p : Port) (v : Nat) : Option (Nat × LogRef) :=
  let ps := s.port p
  let e := bits v 31 0
  if bits v 60 32 ≠ 0 || 2 ^ bits ps.flog.toNat 63 59 < (ps.flogW - BitVec.ofNat 32 e).toNat then none
  else (find ps.log e).map fun r => (bits v 63 61, r)

/-- The number under which a unit holds the fragment of an entry: an overflow fragment follows its heat's slot (R54). -/
def Strand.fidOf (x : Strand) (fid : Nat) : Nat :=
  if fid < 0x100 then fid
  else
    match x.frags.find? fun e => 0x100 ≤ e.1 with
    | some e => e.1
    | none => fid

/-- The unit of an entry stands in a stopped heat, squad or field (R263). -/
def State.unitLost (s : State) (u : UnitRef) : Bool :=
  (match s.strand u with
   | some x => x.stopped = .lost
   | none => true) ||
  (match s.relayOf u with
   | some rl => rl.stopped || (find s.fields rl.field).any fun f => f.stopped
   | none => true)

/-- A fragment holds lanes that a debugger stopped; of an overflow fragment its lanes tell (R70, R255). -/
def Strand.hasDebug (x : Strand) : Bool :=
  laneIds.any fun i => (x.lane i).ls = .parked && ((x.lane i).own = 0x47#7 || (x.lane i).own = 0x48#7)

/-- A heat stopped at a debug stop goes on once the host has acted on every debug fragment of it (R255). -/
def Strand.resume (x : Strand) : Strand :=
  if x.stopped = .debug && !x.hasDebug then
    { x with stopped := .none }
  else x

/-- Act on an escalated fragment that its log entry names. -/
def State.actOn (s : State) (r : LogRef) (how : FragEnd) : State :=
  match r.unit with
  | none => s
  | some u =>
    match s.strand u with
    | none => s
    | some x =>
      let fid := x.fidOf r.fid
      match find x.frags fid with
      | none => s
      | some fr =>
        if r.kind ≠ 1 || fr.phase ≠ .escalated || fr.gen ≠ r.gen || s.unitLost u then s
        else (s.endUnitFrag u fid how).modStrand u Strand.resume

/-- FCTL_RETRY: operation 1. -/
def execFctlRetry (port : Port) (value : Word64) (s : State) : Host.Outcome State Fault Refusal :=
  match s.fctl port value.toNat with
  | some (1, r) => .next (s.actOn r .retry)
  | _ => .next s

/-- FCTL_SKIP: operation 2. -/
def execFctlSkip (port : Port) (value : Word64) (s : State) : Host.Outcome State Fault Refusal :=
  match s.fctl port value.toNat with
  | some (2, r) => .next (s.actOn r .skip)
  | _ => .next s

/-- FCTL_KILL: operation 3. -/
def execFctlKill (port : Port) (value : Word64) (s : State) : Host.Outcome State Fault Refusal :=
  match s.fctl port value.toNat with
  | some (3, r) => .next (s.actOn r .kill)
  | _ => .next s

/-- HOST_TEARDOWN: operation 4. -/
def execHostTeardown (port : Port) (value : Word64) (s : State) : Host.Outcome State Fault Refusal :=
  match s.fctl port value.toNat with
  | some (4, r) => .next (s.teardown r.ctx 0x5E [])
  | _ => .next s

/-! ### Debug, life, schedule, domain, log (R233, R250, R253, R278, R306) -/

/-- VX_DBGCTL (R253). A value in reserved bit 15 is ignored (R9); one in [31:19] drops the write. -/
def execVxDbgctl (port : Port) (value : Word32) (s : State) : Host.Outcome State Fault Refusal :=
  let v := value.toNat
  let c := bits v 14 0
  if bits v 31 19 ≠ 0 || !(s.queuesOf c).any (fun q => queuePort q = port) then .next s
  else
    .next { s with ctxs := modify s.ctxs c fun x => { x with dbgEn := bit v 16, stopHeat := bit v 17, step := bit v 18 } }

/-- VX_LIFE. -/
def execVxLife (port : Port) (value : Word64) (s : State) : Host.Outcome State Fault Refusal :=
  let v := value.toNat
  let _ := port
  if bits v 63 49 ≠ 0 || bits v 31 20 ≠ 0 then .next s
  else
    let cap := bits v 48 32
    .next { s with dev := { s.dev with lifeh := bits v 19 0, capwu := cap, bal := clampBal s.dev.bal cap } }

/-- An interface whose configuration is frozen (R301). -/
def PortState.frozen (ps : PortState) : Bool := ps.iface = .locked || ps.iface = .run

def otherPort : Port → Port
  | .p0 => .p1
  | .p1 => .p0

/-- An interface drops to ERROR: every queue of the port is reset (R302). -/
def State.dropToError (s : State) (p : Port) : State :=
  (s.queues.filter fun e => queuePort e.1 = p).foldl (fun s e => s.startReset e.1)
    (s.modPort p fun ps => { ps with iface := .error })

/-- A write of a register of the device that locked interfaces freeze (R233, R301). -/
def State.deviceWrite (s : State) (p : Port) (t : State) : State :=
  if (s.port p).frozen then s.dropToError p
  else if (s.port (otherPort p)).frozen then s else t

/-- VX_SCHED. -/
def execVxSched (port : Port) (value : Word32) (s : State) : Host.Outcome State Fault Refusal :=
  let n := bits value.toNat 4 0
  .next (s.deviceWrite port (if 16 < n then s else { s with dev := { s.dev with rtres := n } }))

/-- VX_DOMAIN. -/
def execVxDomain (port : Port) (value : Word64) (s : State) : Host.Outcome State Fault Refusal :=
  let n := value.toNat
  .next (s.deviceWrite port (if 143 < n then s else { s with dev := { s.dev with domain := n } }))

/-- The ring a write of VX_FLOG names lies wholly in host frames of the port, aligned. -/
def State.flogOk (s : State) (p : Port) (v : Nat) : Bool :=
  let n := bits v 63 59
  let base := bits v 47 12 * 4096
  6 ≤ n && n ≤ 16 && bits v 58 48 = 0 && bits v 11 1 = 0 && base % (32 * 2 ^ n) = 0 &&
  (List.range ((32 * 2 ^ n + 65535) / 65536)).all fun i => (s.frame (base / 65536 + i)).owner = .host p

/-- VX_FLOG. -/
def execVxFlog (port : Port) (value : Word64) (s : State) : Host.Outcome State Fault Refusal :=
  if (s.port port).frozen then .next (s.dropToError port)
  else if s.flogOk port value.toNat then .next (s.modPort port fun ps => { ps with flog := value })
  else .next s

/-! ### Registers without a step of their own (R8) -/

/-- A bit that a written 1 clears. -/
def w1c (old value : Word64) : Word64 := if value.getLsbD 63 then old &&& 0x7FFFFFFFFFFFFFFF#64 else old

/-- VX_HCMD0 to VX_HCMD7: a write to the last submits the block (R295). -/
def PortState.writeCmd (ps : PortState) (i : Nat) (v : Word64) : PortState :=
  if !ps.done then ps
  else
    let ps1 := { ps with hcmd := put ps.hcmd i v }
    if i = 7 then { ps1 with done := false, performed := false } else ps1

/-- A part of the function that a lock freezes: its configuration space and its base address registers (R301). -/
def lockFreezes : HostReg → Bool
  | .config _ => true
  | .bar _ => true
  | _ => false

/-- REGISTER_WRITE: a register with no behaviour of its own. A write of one that has a row of its own is that row's; here
it does nothing. What the configuration space and the base address registers hold is kept as written; on a frozen
interface a write of them drops it to ERROR (R300). -/
def execRegisterWrite (port : Port) (reg : HostReg) (value : Word64) (s : State) : Host.Outcome State Fault Refusal :=
  let v := value.toNat
  .next (if lockFreezes reg && (s.port port).frozen then s.dropToError port else s.modPort port fun ps =>
    match reg with
    | .config i => { ps with config := put ps.config i.val (BitVec.ofNat 32 v) }
    | .bar two => if two then { ps with bar2 := value } else { ps with bar0 := value }
    | .hcmd i => ps.writeCmd i.val value
    | .flogw => if value.getLsbD 63 then { ps with flogOvf := false } else ps
    | .flogr => { ps with flogR := BitVec.ofNat 32 v }
    | .qstat => { ps with qstat := w1c ps.qstat value }
    | .tdstat => { ps with tdstat := w1c ps.tdstat value }
    | .placemap =>
      { ps with placemap := BitVec.ofNat 64 (bits v 46 32 * 2 ^ 32 + bits v 22 16 * 2 ^ 16) }
    | .hres => ps
    | .qctl => ps
    | .fctl => ps
    | .sstat => ps
    | .flog => ps
    | .life => ps
    | .sched => ps
    | .domain => ps
    | .doorbell => ps
    | .start => ps
    | .dbgctl => ps)

/-- VX_SSTAT (R309). -/
def State.sstat (s : State) : Nat :=
  pack [(3, s.dev.startState), (5, 0), (8, s.dev.startStep), (4, s.dev.startFails)]

/-- What a host register reads as; the write-only ones read 0 (R8, R250, R278, R295, R299, R306, R309). R295 and R296 give
VX_HCMD0 to VX_HCMD7 neither a Type nor a read value: here they read 0 as write-only ones do (DESIGN CHOICE, log 72). -/
def State.readReg (s : State) (p : Port) (reg : HostReg) : Word64 :=
  let ps := s.port p
  match reg with
  | .hcmd _ => 0#64
  | .hres => BitVec.ofNat 64 (pack [(8, ps.status.toNat), (55, 0), (1, boolBit ps.done)])
  | .qctl => 0#64
  | .fctl => 0#64
  | .flogw => BitVec.ofNat 64 (pack [(32, ps.flogW.toNat), (31, 0), (1, boolBit ps.flogOvf)])
  | .flogr => BitVec.ofNat 64 ps.flogR.toNat
  | .qstat => ps.qstat
  | .tdstat => ps.tdstat
  | .placemap =>
    let v := ps.placemap.toNat
    match (find s.ctxs (bits v 46 32)).bind fun c => find c.lmap (bits v 22 16) with
    | some c => BitVec.ofNat 64 (2 ^ 63 + v + c)
    | none => ps.placemap
  | .sstat => BitVec.ofNat 64 s.sstat
  | .config i => (getD 0#32 ps.config i.val).setWidth 64
  | .bar two => if two then ps.bar2 else ps.bar0
  | .flog => ps.flog
  | .life => BitVec.ofNat 64 (pack [(20, s.dev.lifeh), (12, 0), (17, s.dev.capwu)])
  | .sched => BitVec.ofNat 64 s.dev.rtres
  | .domain => BitVec.ofNat 64 s.dev.domain
  | .doorbell => 0#64
  | .start => 0#64
  | .dbgctl => 0#64

/-! ### BAR2 (R292, R294) -/

/-- A byte that BAR2 serves to a port. -/
def State.served (s : State) (p : Port) (tee : Bool) (pa : Nat) : Bool :=
  let f := s.frame (pa / 65536)
  let mine : Bool := match f.owner with
    | .none => false
    | .host q => q = p
    | .ctx c => s.ctxPort c = some p
    | .area _ => false
  populated pa && !f.quarantined && mine && (f.attr = 0#2 || (tee && (s.port p).iface = .run))

/-- Write bytes from an address up, each where it is served; an entry of a page table so rewritten is whole again. -/
def State.barWrite (s : State) (p : Port) (tee : Bool) : Nat → List Byte → State
  | _, [] => s
  | pa, b :: bs =>
    let s1 := if s.served p tee pa then
      let t := s.hostStore pa 1 b.toNat
      { t with dev := { t.dev with lostPte := t.dev.lostPte.filter fun a => a ≠ pa / 8 * 8 } }
    else s
    s1.barWrite p tee (pa + 1) bs

/-- BAR2_ACCESS. -/
def execBar2Access (port : Port) (tee : Bool) (addr len : Nat) (write : Option (List Byte)) (s : State) :
    Host.Outcome State Fault Refusal :=
  let n := match write with
    | some l => l.length
    | none => len
  if (List.range n).any fun i => s.served port tee (addr + i) && s.beingZeroed (addr + i) then .next s
  else
    match write with
    | some l => .next (s.barWrite port tee addr l)
    | none =>
      let data := (List.range len).map fun i =>
        if s.served port tee (addr + i) then s.byte (addr + i) else 0xFF#8
      .next (s.modPort port fun ps => { ps with readData := data })

/-! ### The trusted interface (R300 to R302) -/

/-- A number in eight bytes. -/
def quadBytes (n : Nat) : List Byte := (numBytes n 8).map fun b => BitVec.ofNat 8 b

/-- Contexts of a port. -/
def State.ctxsOf (s : State) (p : Port) : List Nat := (s.ctxs.filter fun e => e.2.port = p).map fun e => e.1

/-- The frames assigned to a port's contexts: the ranges of BAR2, each with its attribute. -/
def State.bar2Ranges (s : State) (p : Port) : List (Nat × Nat) :=
  (s.frames.filter fun e => match e.2.owner with
    | .ctx c => s.ctxPort c = some p
    | _ => false).map fun e => (e.1, e.2.attr.toNat)

/-- The interface report: the port's queues, BAR0 with the MSI-X table in it, and the BAR2 ranges with their attributes
(R301). How it is laid out as bytes is the model's choice (log 33). -/
def State.interfaceReport (s : State) (p : Port) : List Byte :=
  ((s.queues.filter fun e => queuePort e.1 = p).flatMap fun e =>
    quadBytes e.1 ++ quadBytes e.2.q0.toNat ++ quadBytes e.2.q1.toNat) ++
  quadBytes (s.port p).bar0.toNat ++ quadBytes (s.port p).bar2.toNat ++
  (s.bar2Ranges p).flatMap fun e => quadBytes e.1 ++ quadBytes e.2

def State.answer (s : State) (p : Port) (a : SpdmAnswer) : State := s.modPort p fun ps => { ps with spdm := ps.spdm ++ [a] }

/-- A TDISP request: it travels in a secure session of the port, and one that does not suit the state gets the protocol's
error response (R300). -/
def State.tdisp (s : State) (p : Port) (suits : Bool) (t : State) : State :=
  if (s.port p).sessions = 0 then s else if suits then t else s.answer p .error

/-- LOCK_INTERFACE_REQUEST: the interface report is fixed. -/
def execLockInterface (port : Port) (s : State) : Host.Outcome State Fault Refusal :=
  .next (s.tdisp port ((s.port port).iface = .unlocked)
    (s.modPort port fun ps => { ps with iface := .locked, report := s.interfaceReport port }))

/-- START_INTERFACE_REQUEST. -/
def execStartInterface (port : Port) (s : State) : Host.Outcome State Fault Refusal :=
  .next (s.tdisp port ((s.port port).iface = .locked) (s.modPort port fun ps => { ps with iface := .run }))

/-- STOP_INTERFACE_REQUEST: from ERROR or RUN every context of the port ends first. -/
def execStopInterface (port : Port) (s : State) : Host.Outcome State Fault Refusal :=
  let i := (s.port port).iface
  let s1 := if i = .error || i = .run then
    (s.ctxsOf port).foldl (fun s c => (s.stopContext c).endContext c) s else s
  .next (s.tdisp port true (s1.modPort port fun ps => { ps with iface := .unlocked, report := [] }))

/-- LINK_SECURITY_ERROR. -/
def execLinkSecurityError (port : Port) (s : State) : Host.Outcome State Fault Refusal :=
  .next (if (s.port port).frozen then s.dropToError port else s)

end Sys2Proof.Machine
end

