-- ==== Sys2Proof/Machine/Attest.lean ====
section
/-! DEFINITION. SPDM on each port: the certificate chain, challenges, sessions and measurements (R290, R303). How the
contents of a measurement are laid out as bytes is the model's choice (see the log). -/

namespace Sys2Proof.Machine

/-- A verifier's nonce, 256 bits (R290, R303). -/
def nonceBytes (n : Nat) : List Byte := (numBytes n 32).map fun b => BitVec.ofNat 8 b

/-- The wear records of every unit, in ascending KIND and INDEX (R290). -/
def State.wearBytes (s : State) : List Byte :=
  wearUnits.flatMap fun u => (List.range 8).flatMap fun n => quadBytes ((s.wearShown u.1 u.2).quad u.1 u.2 n)

/-- The start record: start kind, steps skipped, VX_SSTAT. -/
def State.startBytes (s : State) : List Byte :=
  quadBytes (boolBit s.dev.startWarm) ++ quadBytes s.dev.startSkipped ++ quadBytes s.sstat

/-- The port's queues, contexts, and assigned frames with their attributes. -/
def State.portBytes (s : State) (p : Port) : List Byte :=
  ((s.queues.filter fun e => queuePort e.1 = p).flatMap fun e =>
    quadBytes e.1 ++ quadBytes e.2.q0.toNat ++ quadBytes e.2.q1.toNat) ++
  (s.ctxsOf p).flatMap quadBytes ++
  (s.frames.filter fun e => match e.2.owner with
    | .none => false
    | .host q => q = p
    | .ctx c => s.ctxPort c = some p
    | .area _ => false).flatMap fun e => quadBytes e.1 ++ quadBytes e.2.attr.toNat

/-- The measurement of an index; none where the index names none. -/
def State.measurement (s : State) (p : Port) (i nonce : Nat) : Option (List Byte) :=
  match i with
  | 1 => some (Config.image 1)
  | 2 => some (Config.image 2)
  | 3 => some Config.wearMeasurement
  | 4 => some s.startBytes
  | 5 => some (s.portBytes p)
  | 0xF0 =>
    some (s.wearBytes ++ Config.wearMeasurement ++ quadBytes s.dev.lifeh ++ quadBytes s.dev.capwu ++
      quadBytes (wrap 64 s.dev.bal) ++ nonceBytes nonce)
  | _ => none

/-- GET_CERTIFICATE. -/
def execGetCertificate (port : Port) (s : State) : Host.Outcome State Fault Refusal :=
  .next (s.answer port (.certificate Config.certificate))

/-- CHALLENGE: the identity key signs. -/
def execChallenge (port : Port) (nonce : Nat) (s : State) : Host.Outcome State Fault Refusal :=
  let text := Config.certificate ++ nonceBytes nonce
  .next (s.answer port (.signature text (Config.sign text nonce).toNat))

/-- A link key of generation g is newer than the one held, where one is held: generations count modulo 2^16 (log 78). -/
def newerKey (held : Option Nat) (g : BitVec 16) : Bool :=
  match held with
  | some n => (g - BitVec.ofNat 16 n).toNat < 2 ^ 15
  | none => true

/-- The newest link key is the one a device seals under (R305). -/
def State.takeLinkKey (s : State) (k : Option (BitVec 16)) : State :=
  match k with
  | none => s
  | some g => if newerKey s.dev.linkGen g then { s with dev := { s.dev with linkGen := some g.toNat } } else s

/-- KEY_EXCHANGE: a secure session opens, under a signed answer; between peer devices it gives a link key. -/
def execKeyExchange (port : Port) (peer : KeyRequest) (s : State) : Host.Outcome State Fault Refusal :=
  let text := Config.certificate ++ nonceBytes peer.nonce
  let s1 := s.answer port (.signature text (Config.sign text peer.nonce).toNat)
  let id := (s1.port port).sessions + 1
  .next (((s1.modPort port fun ps => { ps with sessions := id }).answer port (.session id)).takeLinkKey peer.linkKey)

/-- GET_MEASUREMENTS: one index, signed; a request for an index that does not exist changes nothing. -/
def execGetMeasurements (port : Port) (index : Byte) (nonce : Nat) (s : State) : Host.Outcome State Fault Refusal :=
  match s.measurement port index.toNat nonce with
  | none => .next s
  | some b => .next (s.answer port (.measurement index.toNat b (Config.sign b nonce).toNat))

end Sys2Proof.Machine
end

