-- ==== Sys2Proof/Machine/Barrier.lean ====
section
/-! DEFINITION. Barriers, the rendezvous and FORK (R44, R77, R183 to R185, R356 to R358, R391, R434, R435). -/

namespace Sys2Proof.Machine

/-! ### BAR, BARA, BARW, RBAR -/

/-- The squad of a heat. -/
def unitSquad : UnitRef → Nat
  | .heat _ q _ => q
  | _ => 0

/-- What a barrier word asks of a lane (R357). -/
inductive BarKind where
  | both
  | arrive
  | wait
deriving DecidableEq, Repr

def BarKind.arrives : BarKind → Bool
  | .wait => false
  | _ => true

def BarKind.waits : BarKind → Bool
  | .arrive => false
  | _ => true

/-- A barrier word: executing lanes arrive, and are held as the table of R357 says; then the phase completes
where this was all it awaited. -/
def barWord (kind : BarKind) (b : UnitRef → BarId) (hold : Hold) (info : WordInfo) (causes : Focus → List Nat)
    (s : State) : Host.Outcome State Fault Refusal :=
  withUnit s fun F x =>
    let id := b F.unit
    let e := execLanes x F.lanes info.pred
    let o (i : Nat) : LaneOut :=
      { laneNone with
        causes := bareCauses s F x heatOnly' info.pred i ++ handlerBars F ++ causes F,
        hold := if kind.waits && (kind.arrives || id.arrived (x.lane i)) then some hold else none }
    let ok := lanesOf (okLanes x e (faultsOf e o))
    let passes := !kind.arrives && ok.any fun i => !id.arrived (x.lane i)
    let x1 := if kind.arrives then x.arrive id ok else x
    let x2 := match id.num with
      | some n => if passes then { x1 with race := x1.race.takeDeferred n } else x1
      | none => x1
    (s.finish F x2 info ⟨[], [], []⟩ e o []).settleBars F.unit
where
  heatOnly' : Runs := { pacer := false }

/-- The causes of a barrier number (R356). -/
def State.barNumber (s : State) (f : ImmF) (F : Focus) : List Nat :=
  if 16 ≤ f.imm.toNat then [0x04] else if s.fieldD F.unit 0 hdrBarriers ≤ f.imm.toNat then [0x42] else []

/-- BAR (R357). -/
def execBar (f : ImmF) (s : State) : Host.Outcome State Fault Refusal :=
  barWord .both (fun u => .squad (unitSquad u) f.imm.toNat) (.bar f.imm.toNat) (immInfo f) (s.barNumber f) s
/-- BARA (R357). -/
def execBara (f : ImmF) (s : State) : Host.Outcome State Fault Refusal :=
  barWord .arrive (fun u => .squad (unitSquad u) f.imm.toNat) (.bar f.imm.toNat) (immInfo f) (s.barNumber f) s
/-- BARW (R357). -/
def execBarw (f : ImmF) (s : State) : Host.Outcome State Fault Refusal :=
  barWord .wait (fun u => .squad (unitSquad u) f.imm.toNat) (.barw f.imm.toNat) (immInfo f) (s.barNumber f) s
/-- RBAR (R434). -/
def execRbar (f : NilF) (s : State) : Host.Outcome State Fault Refusal :=
  barWord .both (fun _ => .relay) .rbar (nilInfo f) (fun _ => []) s

/-! ### RDV (R185, R435) -/

/-- The causes of an arrival with a tag. -/
def State.rdvCauses (s : State) (F : Focus) (tag : Nat) : List Nat :=
  match s.relayOf F.unit with
  | some rl =>
    (if isHeat F.unit && (rl.pacerState = .idle || rl.pacerState = .draining) then [0x56] else []) ++
    (match rl.rdvTag with
     | some t => if t = tag then [] else [0x56]
     | none => [])
  | none => []

/-- RDV. -/
def execRdv (f : ImmF) (s : State) : Host.Outcome State Fault Refusal :=
  withUnit s fun F x =>
    let tag := f.imm.toNat
    let e := execLanes x F.lanes f.pred
    let mq := s.mqCause F
    let base (i : Nat) : List Nat :=
      bareCauses s F x {} f.pred i ++ handlerBars F ++ (if 255 < tag then [0x04] else [])
    let o (i : Nat) : LaneOut :=
      { laneNone with
        causes := base i ++ (if mq.isEmpty then s.rdvCauses F tag else if (base i).isEmpty then mq else []),
        hold := some (.rdv tag) }
    let ok := okLanes x e (faultsOf e o)
    let s1 := (s.markMq F (!mq.isEmpty && e ≠ 0#32 && (base 0).isEmpty)).finish F x (immInfo f) ⟨[], [], []⟩ e o []
    if ok = 0#32 then s1
    else
      let s2 := match unitRelay F.unit with
        | some r => s1.modRelay r fun rl =>
            { rl with rdvTag := some tag, pacerState := if isPacer F.unit then .atRdv else rl.pacerState }
        | none => s1
      s2.settleBars F.unit

/-! ### FORK (R184, R391) -/

/-- The pacer as FORK starts it: arguments, entry word, running; it acquires the heat's release. -/
def Strand.forked (p : Strand) (entry : Nat) (args : List (Nat × Reg)) (l : List RaceEntry) : Strand :=
  let p1 := args.foldl (fun (p : Strand) e => p.setSreg e.1 e.2) p
  { p1.setLane 0 { p1.lane 0 with lpc := BitVec.ofNat 32 entry, ls := .running, held := none } with
    race := p1.race.merge l }

/-- A FORK that does not execute, under a poisoned predicate, poisons its destinations: the pacer's first n S registers
(R260). -/
def State.markPacer (s : State) (u : UnitRef) (n : Nat) (t : Taint) : State :=
  match unitRelay u with
  | some r => if t = .clean then s else s.modRelay r fun rl =>
      { rl with pacer := rl.pacer.map fun (p : Strand) =>
          (List.range n).foldl (fun p i => p.setSreg i { p.sreg i with taint := (p.sreg i).taint.join t }) p }
  | none => s

/-- FORK. Its arguments carry their poison, and that of its predicate (R260). -/
def execFork (f : ImmF) (s : State) : Host.Outcome State Fault Refusal :=
  withUnit s fun F x =>
    let u := F.unit
    let a := f.a.toNat
    let n := f.imm.toNat
    let e := execLanes x F.lanes f.pred
    let small : Bool := n ≤ 8
    let regs := if small then span a n else []
    let pt := guardTaint x F.lanes f.pred
    let args := (List.range regs.length).map fun i => (i, { x.sreg (a + i) with taint := (x.sreg (a + i)).taint.join pt })
    let psregs := s.fieldD u 0 hdrPSregs
    let hasPacer := s.fieldD u false hdrHasPacer
    let idle := match s.relayOf u with
      | some rl => rl.pacerState = .idle && rl.pacer.isSome
      | none => false
    let causes := unitCauses u { pacer := false } ++ handlerBars F ++ scalarCauses s u x e f.pred regs ++
      (if small && a + n ≤ 64 && (n ≠ 0 || a = 0) then [] else [0x04]) ++
      (if small && psregs < n then [0x08] else []) ++
      (if hasPacer && idle then [] else [0x55])
    if e = 0#32 then (s.markPacer u regs.length pt).finishOnce F x (immInfo f) [] e {}
    else if !causes.isEmpty then s.finishOnce F x (immInfo f) [] e { causes := causes }
    else
      let t := x.race.release 2
      let l := t.give (s.agentOf u) t.count
      let entry := s.fieldD u 0 hdrPEntry
      let s1 := match unitRelay u with
        | some r => s.modRelay r fun rl =>
            { rl with pacer := rl.pacer.map (fun (p : Strand) => p.forked entry args l), pacerState := .running }
        | none => s
      s1.finishOnce F { x with race := t } (immInfo f) [] e {}

end Sys2Proof.Machine
end

