-- ==== Sys2Proof/Machine/Events.lean ====
section
/-! DEFINITION. Events of memory and of units: walks and pages, storage errors, verification, completion, and accesses of
peer devices (R54, R69 to R74, R84 to R86, R132 to R134, R154, R155, R180, R244, R259 to R263, R306, R389). -/

namespace Sys2Proof.Machine

/-! ### Walks (R72, R73, R132, R133) -/

/-- The walks of a fragment. -/
def Walk.ofFrag (w : Walk) (u : UnitRef) (fid : Nat) : Bool := w.who = .fragment u fid

def State.dropWalks (s : State) (u : UnitRef) (fid : Nat) : State :=
  { s with walks := s.walks.filter fun e => !e.2.ofFrag u fid }

/-- A page cannot be mapped: REPLAY is cleared, the lanes that asked for the page take the cause, and FCAUSE follows the
lowest lane (R72, R133). -/
def State.denyFrag (s : State) (u : UnitRef) (fid va cause : Nat) : State :=
  match s.strand u with
  | none => s
  | some x =>
    match find x.frags fid with
    | none => s.dropWalks u fid
    | some fr =>
      let m := lanesOf (x.fragLanes fid)
      let x1 := x.mapLanes m fun _ l =>
        if l.fva.toNat / 65536 = va / 65536 && l.own = 0x10#7 then { l with own := BitVec.ofNat 7 cause } else l
      let fc := match m with
        | i :: _ => if 0x100 ≤ fid then fr.fcause else (x1.lane i).own
        | [] => fr.fcause
      let fr1 : Frag := { fr with replay := false, fcause := fc, misses := 0#32 }
      ((s.setStrand u { x1 with frags := put x1.frags fid fr1 }).dropWalks u fid).serveFrag u fid

/-- How a walk of the tables ends for an access. -/
inductive Walked where
  | leaf (e : TlbEntry)
  | ask
  | cause (c : Nat)
  | busy
deriving DecidableEq, Repr

def State.walkNow (s : State) (w : Walk) : Walked :=
  match find s.ctxs w.ctx with
  | none => .cause 0x10
  | some cx =>
    match s.walk w.ctx cx w.va with
    | .leaf e => if w.store && !e.w then .cause 0x11 else .leaf e
    | .replayable => .ask
    | .unmapped => .cause 0x10
    | .busy => .busy
    | .mismatch lw => .cause (if w.store && !lw then 0x11 else 0x14)

/-- TRANSLATION_WALK_DONE. -/
def execTranslationWalkDone (walk : Nat) (s : State) : Host.Outcome State Fault Refusal :=
  match find s.walks walk with
  | none => .next s
  | some w =>
    match w.who, w.asked with
    | .fragment u fid, false =>
      match s.walkNow w with
      | .leaf e => .next (({ s with walks := del s.walks walk } : State).fillTlb u e)
      | .ask => .next { s with walks := put s.walks walk { w with asked := true } }
      | .cause c => .next (s.denyFrag u fid w.va c)
      | .busy => .next s
    | _, _ => .next s

/-- FRAGMENT_REPLAY: every page the fragment asked for has been mapped (R72). -/
def execFragmentReplay (u : UnitRef) (fid : Nat) (s : State) : Host.Outcome State Fault Refusal :=
  match s.strand u with
  | none => .next s
  | some x =>
    match find x.frags fid with
    | none => .next s
    | some fr =>
      if !fr.replay || fr.phase ≠ .waiting then .next s
      else
        let ws := (s.walks.filter fun e => e.2.ofFrag u fid).map fun e => e.2
        if ws.any fun w => !w.asked || s.walkNow w = .ask || s.walkNow w = .busy then .next s
        else
          match ws.findSome? fun w => match s.walkNow w with
            | .cause c => some (w.va, c)
            | _ => none with
          | some (va, c) => .next (s.denyFrag u fid va c)
          | none =>
            let s1 := ws.foldl (fun s w => match s.walkNow w with
              | .leaf e => s.fillTlb u e
              | _ => s) s
            .next (((s1.dropWalks u fid).endFrag u fid .retry).settleBars u)

/-- MAPPING_DECLINED: the host declines to map a page it was asked for. -/
def execMappingDeclined (walk : Nat) (s : State) : Host.Outcome State Fault Refusal :=
  match find s.walks walk with
  | none => .next s
  | some w =>
    if !w.asked then .next s
    else
      match w.who with
      | .fragment u fid => .next (s.denyFrag u fid w.va 0x10)
      | .warm q => .next (({ s with walks := del s.walks walk } : State).warmFault q 0x10)
      | _ => .next { s with walks := put s.walks walk { w with declined := true } }

/-! ### Zeroing, performing, verification, sectors (R154, R180, R261, R389) -/

/-- ZEROING_COMPLETE. -/
def execZeroingComplete (frame : Nat) (s : State) : Host.Outcome State Fault Refusal :=
  .next ((({ s with zeroing := s.zeroing.filter fun n => n ≠ frame } : State).payLog frame .p0).payLog frame .p1)

/-- ACCESS_PERFORMED: one more access of the unit has performed for every agent. -/
def execAccessPerformed (u : UnitRef) (s : State) : Host.Outcome State Fault Refusal :=
  .next (s.modStrand u fun x => { x with inflight := x.inflight - 1 })

/-- The verification of read `n` ends: what came from it is good, and clean when no other read is still open, or it is
poisoned (R260, R261). -/
def Taint.resolve (n : Nat) (good : Bool) : Taint → Taint
  | .unverified l =>
    if !l.contains n then .unverified l
    else if !good then .poisoned
    else if (l.filter fun m => m ≠ n).isEmpty then .clean else .unverified (l.filter fun m => m ≠ n)
  | t => t

def Reg.mapTaint (f : Taint → Taint) (r : Reg) : Reg := { r with taint := f r.taint }
def PBit.mapTaint (f : Taint → Taint) (b : PBit) : PBit := { b with taint := f b.taint }
def KSlot.mapTaint (f : Taint → Taint) (k : KSlot) : KSlot := { k with taint := f k.taint }

def Hold.mapTaint (f : Taint → Taint) : Hold → Hold
  | .facq fl b d lead t => .facq fl b d lead (f t)
  | .mcommit d t => .mcommit d (f t)
  | h => h

def Lane.mapTaint (f : Taint → Taint) (l : Lane) : Lane :=
  { l with
    v := l.v.map (fun e => (e.1, e.2.mapTaint f)), p := l.p.map (fun e => (e.1, e.2.mapTaint f)),
    held := l.held.map (Hold.mapTaint f) }

def LaneWrite.mapTaint (f : Taint → Taint) (w : LaneWrite) : LaneWrite :=
  { w with v := w.v.map (fun e => (e.1, e.2.mapTaint f)), p := w.p.map fun e => (e.1, e.2.mapTaint f) }

def mapRegs (f : Taint → Taint) (m : AMap Reg) : AMap Reg := m.map fun e => (e.1, e.2.mapTaint f)
def mapSlots (f : Taint → Taint) (m : AMap KSlot) : AMap KSlot := m.map fun e => (e.1, e.2.mapTaint f)
def mapLaneTaints (f : Taint → Taint) (m : AMap Lane) : AMap Lane := m.map fun e => (e.1, e.2.mapTaint f)

def Over.mapTaint (f : Taint → Taint) (o : Over) : Over := { o with s := mapRegs f o.s, k := mapSlots f o.k }

def Late.mapTaint (f : Taint → Taint) : Late → Late
  | .word i m v stays h =>
    .word i m { v with lanes := mapLaneTaints f v.lanes, s := mapRegs f v.s, k := mapSlots f v.k } stays h
  | d => d

def LongOp.mapTaint (f : Taint → Taint) (o : LongOp) : LongOp :=
  { o with
    writes := o.writes.map (LaneWrite.mapTaint f), swrites := o.swrites.map (fun e => (e.1, e.2.mapTaint f)),
    save := mapLaneTaints f o.save, laid := o.laid.mapTaint f, late := o.late.map (Late.mapTaint f) }

/-- Every poison bit of a unit: of its registers, and of what its outstanding instructions will write or restore. -/
def Strand.mapTaint (f : Taint → Taint) (x : Strand) : Strand :=
  { x with
    lanes := mapLaneTaints f x.lanes, s := mapRegs f x.s, k := mapSlots f x.k, ops := x.ops.map (LongOp.mapTaint f),
    due := x.due.map (Late.mapTaint f) }

/-- The verification of read `n` ends for a unit, and for the pacer of its relay, to which FORK may have carried the data
(R260, R391). -/
def State.endRead (s : State) (u : UnitRef) (n : Nat) (good : Bool) : State :=
  let s1 := s.modStrand u (Strand.mapTaint (Taint.resolve n good))
  match u with
  | .heat r _ _ => s1.modStrand (.pacer r) (Strand.mapTaint (Taint.resolve n good))
  | _ => s1

/-- DATA_VERIFIED: the data of a read, forwarded to a unit, was good. -/
def execDataVerified (u : ReadRef) (s : State) : Host.Outcome State Fault Refusal :=
  .next (s.endRead u.unit u.read true)

/-- CACHE_SECTOR_EVICTION: the sector's write record goes with it. -/
def execCacheSectorEviction (sector : Nat) (s : State) : Host.Outcome State Fault Refusal :=
  .next { s with records := dropRecs s.agentTable (fun i => i = sector) s.records }

/-! ### Peer devices (R155, R306) -/

/-- A peer reaches populated memory outside the carve-outs and outside quarantine. -/
def State.peerReaches (s : State) (pa : Nat) : Bool :=
  populated pa && !s.inCarve (pa / 65536) && !(s.frame (pa / 65536)).quarantined

def State.peerWrite (s : State) : Nat → List Byte → State
  | _, [] => s
  | pa, b :: bs => (if s.peerReaches pa then s.hostStore pa 1 b.toNat else s).peerWrite (pa + 1) bs

/-- PEER_DEVICE_ACCESS: an access of a host agent through a link port; what a read returns leaves the device. -/
def execPeerDeviceAccess (op : PeerAccess) (s : State) : Host.Outcome State Fault Refusal :=
  if !s.linkUp op.link then .next s
  else
    match op.op with
    | .read _ _ => .next s
    | .write pa l =>
      if (List.range l.length).any fun i => s.beingZeroed (pa + i) then .next s else .next (s.peerWrite pa l)

/-! ### Latencies and handlers (R74, R84 to R86) -/

/-- LONG_LATENCY_COMPLETION: an instruction outstanding completes. -/
def execLongLatencyCompletion (u : UnitRef) (index : Nat) (s : State) : Host.Outcome State Fault Refusal :=
  match s.strand u with
  | none => .next s
  | some x =>
    match x.ops[index]? with
    | none => .next s
    | some o =>
      if o.plain then .next (s.setStrand u (x.landAt index))
      else .next (s.settleOp u o)

/-- HANDLER_ENTRY. -/
def execHandlerEntry (u : UnitRef) (s : State) : Host.Outcome State Fault Refusal := .next (s.enterHandler u)

/-! ### Storage errors (R259, R260, R263) -/

def Reg.poisoned (r : Reg) : Reg := { r with taint := .poisoned }

/-- The lanes of a heat park in its overflow fragment with cause 0x5A, and it issues nothing more (R263). -/
def State.loseHeat (s : State) (u : UnitRef) : State :=
  match s.strand u with
  | none => s
  | some x =>
    if x.stopped = .lost then s
    else
      let m := laneIds.filter fun i => (x.lane i).ls ≠ .exited
      let fid := 0x100 + s.heatSlot u
      let gen := match find x.frags fid with
        | some f => f.gen
        | none => s.nextGen u x fid
      let fr : Frag := ⟨gen, false, false, 0x41#7, .escalated, x.nextOrder, 0#32⟩
      let x1 := x.mapLanes m fun _ l => { l.park fid 0x5A 0 with fva := l.fva }
      let s1 := if m.isEmpty then s else s.setGen u fid gen
      let x2 := ({ x1 with
        frags := if m.isEmpty then x1.frags else put x1.frags fid fr, nextOrder := x1.nextOrder + 1, ops := [],
        due := [], stopped := .lost } : Strand).dropEmpty
      s1.setStrand u x2

/-- A stopped heat's KIND 0x3 entry. -/
def State.logHeat (s : State) (u : UnitRef) (level : Nat) : State :=
  match s.strand u, s.fieldOf u, s.relayOf u with
  | some x, some f, some rl =>
    let (q, h) := unitSquadHeat u
    let m := laneSet fun i => (x.lane i).ls ≠ .exited
    s.logStopped f rl.linear level q (if level = 0 then h else 0) (if level = 0 then m.toNat else 0) 0x5A
  | _, _, _ => s

/-- STATE_LOST of a heat. -/
def State.lostHeat (s : State) (u : UnitRef) : State :=
  match s.strand u with
  | none => s
  | some x => if x.stopped = .lost then s else (s.loseHeat u).logHeat u 0

/-- STATE_LOST of a squad. -/
def State.lostSquad (s : State) (r q : Nat) : State :=
  match find s.relays r with
  | none => s
  | some rl =>
    match rl.squadHeats q with
    | [] => s
    | e :: es =>
      ((e :: es).foldl (fun s h => s.loseHeat (.heat r q (h.1 % 32))) s).logHeat (.heat r q (e.1 % 32)) 1

/-- STATE_LOST of a field: every relay of it stops, holding its resources, and no other is placed. -/
def State.lostField (s : State) (r : Nat) : State :=
  match find s.relays r with
  | none => s
  | some rl =>
    match find s.fields rl.field with
    | none => s
    | some f =>
      if f.stopped then s
      else
        let s1 : State :=
          { s with
            relays := s.relays.map fun e => if e.2.field = rl.field then (e.1, { e.2 with stopped := true }) else e,
            fields := put s.fields rl.field { f with stopped := true } }
        s1.logStopped f rl.linear 2 0 0 0 0x5A

/-- The context a relay's work belongs to. -/
def State.relayCtx (s : State) (r : Nat) : Option Nat :=
  ((find s.relays r).bind fun rl => find s.fields rl.field).map fun f => f.ctx

/-- Teardown of a relay's context. -/
def State.tearRelay (s : State) (r cause : Nat) (frames : List Nat) : State :=
  match s.relayCtx r with
  | some c => s.teardown c cause frames
  | none => s

/-- The frame that the head command of a queue is reading, where its source is device memory (R264). -/
def State.sourceFrames (s : State) (r q : Nat) : List Nat :=
  match find s.relays r with
  | none => []
  | some rl =>
    match rl.head q, find s.fields rl.field with
    | some c, some f =>
      let upr := c.rowBytes / 16
      let i := c.done / upr
      let b := 16 * (c.done % upr)
      let p := s.sourceRow r q c i b
      match (p.1.srcUnit r q f.ctx (scratchRounded f) c p.2 b).2 with
      | .at (.dev pa _) => [pa / 65536]
      | _ => []
    | _, _ => []

/-- An error in the source of a queue's head command: it fails, or, where its data was on its way into the B store, its
context is torn down, and the frame that held the data is quarantined (R259, R264). -/
def State.sourceError (s : State) (r q : Nat) : State :=
  match (find s.relays r).bind fun rl => rl.head q with
  | none => s
  | some c =>
    match c.dst with
    | .bstore _ => s.tearRelay r 0x5D (s.sourceFrames r q)
    | _ => s.endCommand r q (some 0x16) none

/-- STORAGE_ERROR: an uncorrectable error or an integrity failure, contained by where the data is. That of a save area is met
at the restore, of an evicted relay or of one that migrates (R244, R267). -/
def execStorageError (site : ErrorSite) (s : State) : Host.Outcome State Fault Refusal :=
  match site with
  | .vreg u i n => .next (s.modStrand u fun x => x.spoil i fun l => l.setReg n (l.reg n).poisoned)
  | .preg u i n => .next (s.modStrand u fun x => x.spoil i fun l => l.setPred n ⟨(l.pred n).val, .poisoned⟩)
  | .sreg u n => .next (s.modStrand u fun x => x.setSreg n (x.sreg n).poisoned)
  | .forwarded u n => .next (s.endRead u n false)
  | .command r q => .next (s.sourceError r q)
  | .heatState r q h => .next (s.lostHeat (.heat r q h))
  | .squadState r q => .next (s.lostSquad r q)
  | .relayState r => .next (s.lostField r)
  | .pageEntry pa => .next { s with dev := { s.dev with lostPte := (pa / 8 * 8) :: s.dev.lostPte.filter fun a => a ≠ pa / 8 * 8 } }
  | .queueState q => .next (s.failQueue q 0x5A)
  | .matrixData r frame => .next (s.tearRelay r 0x5D frame.toList)
  | .contextState c frame => .next (s.teardown c 0x5D [frame])
  | .codeFetch c frame => .next (s.teardown c 0x5D [frame])
  | .scrub frame =>
    .next (if (s.frame frame).quarantined then s.setFrame frame { s.frame frame with dead := true } else s)
  | .saveArea r => .next (s.modRelay r fun rl => { rl with save := { rl.save with bad := true } })
  | .correctable => .next s

end Sys2Proof.Machine
end

