-- ==== Sys2Proof/Machine/Exit.lean ====
section
/-! DEFINITION. EXIT: lanes retire, the pacer drains, a warm-up ends with its code (R45, R59, R183, R185, R195, R230
to R232, R377). -/

namespace Sys2Proof.Machine

/-- The causes of EXIT in a lane, the failure of SR.MQERR apart. -/
def exitCauses (s : State) (F : Focus) (x : Strand) (f : ImmF) (i : Nat) : List Nat :=
  bareCauses s F x anyUnit f.pred i ++ handlerBars F ++
  (if isWarm F.unit then (if 3 ≤ f.imm.toNat then [0x04] else []) else if f.imm ≠ 0#29 then [0x04] else []) ++
  (if isHeat F.unit && F.handler.isNone && x.g ≠ 0#3 then [0x40] else [])

/-- EXIT in a heat or a pacer. -/
def State.exitLanes (s : State) (F : Focus) (x : Strand) (f : ImmF) : State :=
  let e := execLanes x F.lanes f.pred
  let mq := s.mqCause F
  let o (i : Nat) : LaneOut :=
    let b := exitCauses s F x f i
    { laneNone with causes := if b.isEmpty then mq else b, pc := some (x.lane i).lpc }
  let fs := faultsOf e o
  let ok := okLanes x e fs
  -- in the window of a long-latency instruction it takes effect when that has completed
  let x1 := (x.landWhere fun o => (o.lanes &&& ok) ≠ 0#32).mapLanes (lanesOf ok) fun _ l => { l with ls := .exited }
  let s1 := (s.markMq F (!mq.isEmpty && e ≠ 0#32 && (exitCauses s F x f 0).isEmpty)).finish F x1 (immInfo f)
    ⟨[], [], []⟩ e o []
  if ok = 0#32 then s1
  else
    match F.unit with
    | .pacer r => s1.pacerExit r
    | u => s1.settleBars u

/-- The field a warm-up's EXIT launches: SR.WPAR and SR.WDIMX as they stand (R229, R232). -/
def Warm.field (w : Warm) (p : Nat) : Field :=
  { w.proto with
    params := (List.range (lNparam p)).map (fun n => ⟨getD 0#32 w.wpar n, .clean⟩), dimX := w.wdimx }

/-- The warm-up runs again from WOFF: S and C registers, SR.WPAR and SR.WDIMX stay (R232). -/
def Warm.again (w : Warm) : Warm :=
  { w with
    strand := { w.strand with lanes := [(0, laneStart w.start)], ops := [] }, words := 0, wrep := w.wrep + 1 }

/-- A code 2 that would make the meet hold more than 256 fields: those it has, this one, the one still to come, and one
for each LAUNCH after it (R232). -/
def Meet.crowded (m : Meet) : Bool :=
  256 < m.fields.length + 2 + ((m.ofType tLaunch).filter fun i => m.pos < i).length

/-- EXIT in a warm-up. -/
def State.exitWarm (s : State) (q code : Nat) : State :=
  match s.atPacket q, find s.warms q with
  | some (mid, m, p), some w =>
    match code with
    | 1 =>
      let s1 := if getD 0 m.nfield m.pos = 0 then s.ownRecord mid m.pos 5 0 0 0 else s
      s1.passLaunch q mid m.pos
    | 2 =>
      let s1 := s.addField mid m.pos (w.field p)
      if m.crowded then s1.passLaunch q mid m.pos else { s1 with warms := put s1.warms q w.again }
    | _ => (s.addField mid m.pos (w.field p)).passLaunch q mid m.pos
  | _, _ => s

/-- EXIT. -/
def execExit (f : ImmF) (s : State) : Host.Outcome State Fault Refusal :=
  withUnit s fun F x =>
    match F.unit with
    | .warm q =>
      let e := execLanes x F.lanes f.pred
      let o (i : Nat) : LaneOut := laneFaults (exitCauses s F x f i)
      let s1 := s.finish F x (immInfo f) ⟨[], [], []⟩ e o []
      if okLanes x e (faultsOf e o) = 0#32 then s1 else s1.exitWarm q f.imm.toNat
    | _ => s.exitLanes F x f

end Sys2Proof.Machine
end

