-- ==== Sys2Proof/Machine/Level.lean ====
section
/-! DEFINITION. The symmetric level-index formats and SLADD, SLMUL, SLRCP, SLCMP, SLCVT (R111 to R121,
R445, R446). -/

namespace Sys2Proof.Machine

/-! ### Fixed point (R113): U62 as a natural number of 2^−62, S52 as an integer of 2^−52 -/

def u62Max : Nat := 2 ^ 64 - 1
def s52Max : Int := 2 ^ 63 - 1
def s52Min : Int := -(2 ^ 63)

def toS52 (num : Int) (den : Nat) : Int :=
  if den = 0 then s52Max else clamp s52Min s52Max (nearest (num * (2 ^ 52 : Nat)) den)
def toU62 (num : Int) (den : Nat) : Nat :=
  if den = 0 then u62Max else (clamp 0 u62Max (nearest (num * (2 ^ 62 : Nat)) den)).toNat

/-- EXPN(u): the U62 value nearest e^−u. -/
def expn (u : Int) : Nat :=
  refine (fun N =>
    let n : Int := shiftTo false (-u) ((N : Int) - 52)
    let r := expOf N ⟨n, n⟩
    let near (z : Int) : Nat :=
      let k : Int := r.2 + 62 - N
      (clamp 0 u62Max (if 0 ≤ k then z * (2 ^ k.toNat : Nat) else nearest z (2 ^ (-k).toNat))).toNat
    if u = 0 then (2 ^ 62, 2 ^ 62) else (near r.1.lo, near r.1.hi)) 0 precisions

/-- The S52 value nearest ln(m·2^e); −infinity before clamping when m is 0. -/
def logDy (m : Nat) (e : Int) : Int :=
  if m = 0 then s52Min
  else
    refine (fun N =>
      let b := lnOf N m e
      let near (z : Int) : Int := clamp s52Min s52Max (nearest z (2 ^ (N - 52)))
      (near b.lo, near b.hi)) 0 precisions

/-- LOG(v) for v in S52. -/
def log52 (v : Int) : Int := logDy v.toNat (-52)

/-! ### Codes (R111, R112) -/

/-- The fraction width of a type code. -/
def slW (ty : BitVec 3) : Nat := if ty = 0#3 then 27 else 11

/-- An internal level-index value (R114): F in S52. -/
structure SLV where
  s : Bool
  r : Bool
  n : Nat
  F : Int
deriving DecidableEq, Repr

inductive SLClass where
  | zero (s : Bool)
  | nan
  | noncanonical
  | val (s r : Bool) (l f : Nat)
deriving DecidableEq, Repr

/-- Read a code: 1 with r = 1 is normalised (R112). -/
def slRead (w n : Nat) : SLClass :=
  let f := n % 2 ^ w
  let l := n / 2 ^ w % 8
  let r := n.testBit (w + 3)
  let s := n.testBit (w + 4)
  if l = 0 then
    if f = 0 then (if r then .nan else .zero s) else .noncanonical
  else .val s (r && !(l = 1 && f = 0)) l f

def slWrite (w : Nat) (s r : Bool) (l f : Nat) : Nat :=
  f + 2 ^ w * l + 2 ^ (w + 3) * boolBit r + 2 ^ (w + 4) * boolBit s
def slNan (w : Nat) : Nat := slWrite w false true 0 0
def slZero (w : Nat) (s : Bool) : Nat := slWrite w s false 0 0

/-- f/2^w in S52. -/
def slFrac (w f : Nat) : Int := (f * 2 ^ (52 - w) : Nat)

/-! ### Procedures (R114, R115) -/

/-- a[j] = 1/φ(n + F − j), in U62, for j = 0 to n − 1. -/
def aseq : Nat → Int → List Nat
  | 0, _ => []
  | 1, F => [expn F]
  | n + 1, F =>
    let a := aseq n F
    expn (toS52 (2 ^ 62 : Nat) (a.headD 0)) :: a

/-- The steps of RATIO from j = m − 1 down to 1, on a[j]. -/
def ratioSteps (a : List Nat) : Nat → Nat → Nat
  | 0, b => b
  | 1, b => b
  | j + 2, b => ratioSteps a (j + 1) (expn (toS52 ((2 ^ 62 : Nat) - (b : Int)) (a.getD (j + 1) 0)))

/-- φ(m + G) / φ(n + F), with a = ASEQ(n, F). -/
def ratio (n : Nat) (F : Int) (m : Nat) (G : Int) (a : List Nat) : Nat :=
  let b0 := if m = n then expn (clamp s52Min s52Max (F - G)) else toU62 (a.getD (m - 1) 0) (expn G)
  ratioSteps a m b0

/-- IDX(λ): the loop of at most `fuel` logarithms; four suffice below 2048. -/
def idxLoop : Nat → Nat → Int → Nat × Int
  | 0, k, t => (k, t)
  | fuel + 1, k, t => if t < 2 ^ 52 then (k, t) else idxLoop fuel (k + 1) (log52 t)

def idx (lam : Int) : Nat × Int := idxLoop 8 1 lam

/-- The loop of SCALE over j, `left` steps remaining. -/
def scaleLoop (n : Nat) (F : Int) (a : List Nat) : Nat → Nat → Int → Bool × Nat × Int
  | 0, j, d => (false, j, d)
  | left + 1, j, d =>
    let aj : Int := a.getD j 0
    -- d in S52 against a[j] in U62
    if d * 1024 < aj then (false, j, toS52 (d * 1024) (a.getD j 0))
    else if j = n - 1 then
      let r := idx (clamp s52Min s52Max (log52 d + F))
      (false, n - 1 + r.1, r.2)
    else
      scaleLoop n F a left (j + 1) (toS52 ((2 ^ 114 : Nat) + (a.getD (j + 1) 0 : Int) * log52 d) (2 ^ 114))

/-- SCALE: the index of φ(n + F) × e^L. -/
def scale (n : Nat) (F : Int) (a : List Nat) (L : Int) : Bool × Nat × Int :=
  if n = 1 then
    let lam := clamp s52Min s52Max (F + L)
    if 0 ≤ lam then (false, idx lam) else (true, idx (clamp s52Min s52Max (-lam)))
  else
    let a1 := a.getD 1 0
    let d := toS52 ((2 ^ 114 : Nat) + (a1 : Int) * L) (2 ^ 114)
    if d < 0 then
      -- −(L + 1/a[1])
      (true, idx (if a1 = 0 then s52Min else toS52 (-(L * a1 + (2 ^ 114 : Nat))) (2 ^ 52 * a1)))
    else scaleLoop n F a n 1 d

def SLV.key (x : SLV) : Int :=
  let k : Int := (x.n : Int) * (2 ^ 52 : Nat) + x.F
  if x.r then -k else k

/-- ADDCORE; `none` is ZERO. -/
def addcore (x0 y0 : SLV) (sub : Bool) : Option SLV :=
  let (x, y) := if x0.key < y0.key then (y0, x0) else (x0, y0)
  let ax := aseq x.n x.F
  let b : Nat :=
    if !x.r && !y.r then ratio x.n x.F y.n y.F ax
    else if !x.r then toU62 ((ax.headD 0 : Int) * ((aseq y.n y.F).headD 0)) (2 ^ 124)
    else ratio y.n y.F x.n x.F (aseq y.n y.F)
  let c := toU62 ((2 ^ 62 : Nat) + (if sub then -(b : Int) else b)) (2 ^ 62)
  if c = 0 then none
  else
    let lc := log52 (toS52 c (2 ^ 62))
    let r := scale x.n x.F ax (if x.r then clamp s52Min s52Max (-lc) else lc)
    some ⟨x.s, x.r != r.1, r.2.1, r.2.2⟩

/-- A level-index result: its code, its flags, and its level where it has one. -/
structure SLRes where
  code : Nat
  fl : BitVec 4 := 0#4
  level : Option Nat := none
deriving DecidableEq, Repr

/-- SLROUND (R117), on a fraction num/den. -/
def slround (w : Nat) (s r : Bool) (k : Nat) (num : Int) (den : Nat) : SLRes :=
  let f0 := (nearest (num * (2 ^ w : Nat)) den).toNat
  let (k1, f) := if f0 = 2 ^ w then (k + 1, 0) else (k, f0)
  if 7 < k1 then ⟨slWrite w s r 7 (2 ^ w - 1), slSAT, some 7⟩
  else ⟨slWrite w s (r && !(k1 = 1 && f = 0)) k1 f, 0#4, some k1⟩

/-- The level-crossing flags (R118). -/
def crossFlags (la lb : Nat) (z : SLRes) : BitVec 4 :=
  match z.level with
  | some l => if max la lb < l then slXUP else if l < min la lb then slXDN else 0#4
  | none => 0#4

/-- NaN or non-canonical operands (R112). -/
def slBad (w : Nat) (l : List SLClass) : Option SLRes :=
  if l.any (fun c => c = .nan || c = .noncanonical) then
    some ⟨slNan w, if l.contains .noncanonical then slNONCANON else 0#4, none⟩
  else none

/-- SLADD (R115). -/
def sladd (w : Nat) (neg : Bool) (na nb : Nat) : SLRes :=
  let a := slRead w na
  let b := slRead w nb
  match slBad w [a, b] with
  | some r => r
  | none =>
    match a, b with
    | .zero sa, .zero sb => ⟨slZero w (sa && (sb != neg)), 0#4, none⟩
    | .zero _, .val sb r l f => ⟨slWrite w (sb != neg) r l f, 0#4, none⟩
    | .val sa r l f, .zero _ => ⟨slWrite w sa r l f, 0#4, none⟩
    | .val sa ra la fa, .val sb0 rb lb fb =>
      let sb := sb0 != neg
      match addcore ⟨sa, ra, la, slFrac w fa⟩ ⟨sb, rb, lb, slFrac w fb⟩ (sa != sb) with
      | none => ⟨slZero w false, 0#4, none⟩
      | some z =>
        let r := slround w z.s z.r z.n z.F (2 ^ 52)
        { r with fl := r.fl ||| crossFlags la lb r }
    | _, _ => ⟨slNan w, 0#4, none⟩

/-- LNV (R116): the signed logarithm of a magnitude as an internal value; `none` is ZERO. -/
def lnv (w : Nat) (r : Bool) (l f : Nat) : Option SLV :=
  if 2 ≤ l then some ⟨r, false, l - 1, slFrac w f⟩
  else if f = 0 then none
  else
    let k := idx (clamp s52Min s52Max (-(log52 (slFrac w f))))
    some ⟨r, true, k.1, k.2⟩

/-- SLMUL (R116). R114 has the fraction of an internal value in S52, and R116 does not say whether q, in U62, is first
rounded to S52 before SLROUND: here SLROUND takes q as it is, and rounds once (DESIGN CHOICE, log 75). -/
def slmul (w : Nat) (na nb : Nat) : SLRes :=
  let a := slRead w na
  let b := slRead w nb
  match slBad w [a, b] with
  | some r => r
  | none =>
    match a, b with
    | .val sa ra la fa, .val sb rb lb fb =>
      let s := sa != sb
      let L := match lnv w ra la fa, lnv w rb lb fb with
        | none, none => none
        | none, some v => some v
        | some u, none => some u
        | some u, some v => addcore u v (u.s != v.s)
      let r : SLRes := match L with
        | none => ⟨slWrite w s false 1 0, 0#4, some 1⟩
        | some z =>
          if !z.r then slround w s z.s (z.n + 1) z.F (2 ^ 52)
          else slround w s z.s 1 ((aseq z.n z.F).headD 0) (2 ^ 62)
      { r with fl := r.fl ||| crossFlags la lb r }
    | .zero sa, .zero sb => ⟨slZero w (sa != sb), 0#4, none⟩
    | .zero sa, .val sb _ _ _ => ⟨slZero w (sa != sb), 0#4, none⟩
    | .val sa _ _ _, .zero sb => ⟨slZero w (sa != sb), 0#4, none⟩
    | _, _ => ⟨slNan w, 0#4, none⟩

/-- SLRCP (R120). -/
def slrcp (w : Nat) (n : Nat) : SLRes :=
  match slRead w n with
  | .nan => ⟨slNan w, 0#4, none⟩
  | .noncanonical => ⟨slNan w, slNONCANON, none⟩
  | .zero s => ⟨slWrite w s false 7 (2 ^ w - 1), slSAT, none⟩
  | .val s r l f => ⟨slWrite w s (!r && !(l = 1 && f = 0)) l f, 0#4, none⟩

/-- The order of a value among all values (R112): the key with the sign applied; 0 for zeros. -/
def slRank (w : Nat) : SLClass → Int
  | .val s r l f =>
    let k : Int := (l * 2 ^ w + f : Nat)
    let m : Int := (if r then -k else k) + (2 ^ (w + 4) : Nat)
    if s then -m else m
  | _ => 0

/-- Binary to level-index (R121). -/
def slOfBin (w : Nat) (v : FVal) : SLRes :=
  match v with
  | .nan _ => ⟨slNan w, 0#4, none⟩
  | .inf neg => ⟨slWrite w neg false 7 (2 ^ w - 1), slSAT, none⟩
  | .fin neg m e =>
    if m = 0 then ⟨slZero w neg, 0#4, none⟩
    else
      let lg := logDy m e
      let k := idx (clamp s52Min s52Max (if lg < 0 then -lg else lg))
      slround w neg (e + m.log2 < 0) k.1 k.2 (2 ^ 52)

/-- Level-index to binary (R121). -/
def slToBin (w : Nat) (F : Fmt) (mode : Rnd) (sat : Bool) (n : Nat) : FRes × BitVec 4 :=
  match slRead w n with
  | .nan => (F.nanRes false, 0#4)
  | .noncanonical => (F.nanRes false, slNONCANON)
  | .zero s => (F.zero s, 0#4)
  | .val s r l f =>
    let lam : Int := if l = 1 then slFrac w f else toS52 (2 ^ 62 : Nat) ((aseq l (slFrac w f)).getD 1 0)
    if lam = 0 then (F.round mode sat s 1 0, 0#4)
    else
      (F.roundReal mode sat s fun N =>
        let z := (if r then -lam else lam) * (2 ^ (N - 52) : Nat)
        let b := expOf N ⟨z, z⟩
        (b.1, b.2 - N), 0#4)

/-! ### Instructions -/

def slRes (z : SLRes) : Res := { d := z.code, slf := z.fl }

/-- SLADD (R446). -/
def execSladd (f : RegF) (s : State) : Host.Outcome State Fault Refusal :=
  aluWord s (regAlu shSladd {} f) fun l _ => slRes (sladd (slW f.ty) (f.opx.getLsbD 0) (arg l 0) (arg l 1))
/-- SLMUL (R446). -/
def execSlmul (f : RegF) (s : State) : Host.Outcome State Fault Refusal :=
  aluWord s (regAlu shSlmul {} f) fun l _ => slRes (slmul (slW f.ty) (arg l 0) (arg l 1))
/-- SLRCP (R120). -/
def execSlrcp (f : RegF) (s : State) : Host.Outcome State Fault Refusal :=
  aluWord s (regAlu shSlrcp {} f) fun l _ => slRes (slrcp (slW f.ty) (arg l 0))
/-- SLCMP (R446). -/
def execSlcmp (f : CmpF) (s : State) : Host.Outcome State Fault Refusal :=
  let w := slW f.ty
  aluWord s (cmpAlu shSlcmp anyUnit f) fun l _ =>
    let a := slRead w (arg l 0)
    let b := slRead w (arg l 1)
    let bad := slBad w [a, b]
    { p := some (fCond f.cc.toNat bad.isSome (slRank w a < slRank w b) (slRank w a = slRank w b)),
      slf := match bad with
        | some r => r.fl
        | none => 0#4 }
/-- SLCVT (R121, R446). -/
def execSlcvt (f : RegF) (s : State) : Host.Outcome State Fault Refusal :=
  let toBin := f.opx.getLsbD 0
  let wide := f.opx.getLsbD 1
  let F := if wide then f64 else f32
  let cnt (b : Bool) : Nat := if b && wide then 2 else 1
  aluWord s { info := regInfo f, runs := {}, u := f.u, dst := some (f.d.toNat, cnt toBin),
              srcs := [(f.u || f.sa, f.a.toNat, cnt (!toBin))], psrc := none, pdst := none } fun l _ =>
    if toBin then
      let r := slToBin (slW f.ty) F f.rnd f.sat (arg l 0)
      { d := r.1.bits, fpf := r.1.fl, slf := r.2 }
    else slRes (slOfBin (slW f.ty) (F.val (arg l 0)))

end Sys2Proof.Machine
end

