-- ==== Sys2Proof/Machine/Start.lean ====
section
/-! DEFINITION. Reset, loss of power, and VX_START (R15, R21, R256, R270, R274, R277, R304, R307 to R311). -/

namespace Sys2Proof.Machine

/-! ### Reset and power (R270, R278, R308, R309) -/

/-- A quarantined frame stays so until a scrub, and one that is dead for good (R266); it belongs to nobody. -/
def Frame.kept (f : Frame) : Option Frame :=
  if f.quarantined || f.dead then some ⟨.none, 0#2, f.quarantined, f.dead⟩ else none

/-- Everything but what the magnetoresistive RAM keeps goes: wear records, VX_LIFE, BAL, calibration and training stay.
So do the quarantine of frames (R266) and what the stacks' sensors read. The model's own counters and agenda stay too.
DESIGN CHOICE, entry 102: a rest in progress ends with no credit, and SINCE stays (R273). -/
def State.restart (s : State) : State :=
  { State.reset with
    dev := { deviceInit with
      lifeh := s.dev.lifeh, capwu := s.dev.capwu, bal := s.dev.bal, calib := s.dev.calib, trained := s.dev.trained },
    dies := s.dies, frames := s.frames.filterMap (fun e => e.2.kept.map fun f => (e.1, f)),
    wear := s.wear, agenda := s.agenda, tick := s.tick, nextId := s.nextId }

/-- DEVICE_RESET. -/
def execDeviceReset (s : State) : Host.Outcome State Fault Refusal := .next s.restart

/-- A copy whose CHECK no longer matches. -/
def WearRec.torn (r : WearRec) : WearRec := { r with check := r.check + 1#32 }

/-- A write of a unit's record is cut off: the copy it wrote does not check (R270). -/
def State.tearRecord (s : State) (k : WearKind) (i : Nat) : State :=
  match find s.wear (wearKey k i) with
  | none => s
  | some p =>
    let q : WearPair := if seqBefore p.a.seq p.b.seq then { p with b := p.b.torn } else { p with a := p.a.torn }
    { s with wear := put s.wear (wearKey k i) q }

/-- POWER_LOSS: where `torn`, in the middle of the last write of a unit's record. -/
def execPowerLoss (tornKind : WearKind) (tornIndex : Nat) (torn : Bool) (s : State) : Host.Outcome State Fault Refusal :=
  .next (if torn && tornIndex < kindCount tornKind then s.tearRecord tornKind tornIndex else s).restart

/-! ### The steps of a start (R310) -/

/-- Whether a step that may fail passes in an attempt: the hardware's, and free here. -/
def State.stepPasses (s : State) (attempt step : Nat) : Bool := s.freeNat (9000 + 16 * attempt + step) % 2 = 0

/-- The state a unit's record holds, where a copy checks. -/
def State.loadedState (s : State) (k : WearKind) (i : Nat) : Option Nat :=
  match find s.wear (wearKey k i) with
  | some p => (p.load k i).map fun r => r.state
  | none => some (if sparedUnit k i then 1 else 0)

/-- Step 3: clusters stand as their units' records say. -/
def State.loadClusters (s : State) : State :=
  clusterIds.foldl (fun s c =>
    let l := (clusterUnits c).filterMap fun u => s.loadedState u.1 u.2
    let st : ClusterStatus := if l.contains 2 then .retired else if l.contains 1 then .spare else .active
    s.setCluster c { s.cluster c with status := st }) s

/-- Step 3: slices and links whose record is retired are out of service. -/
def State.loadOthers (s : State) : State :=
  let out (k : WearKind) : List Nat := (List.range (kindCount k)).filter fun i => s.loadedState k i = some 2
  { s with
    slices := (out .slice).foldl (fun m i => put m i ({ sliceInit with present := false } : Slice)) s.slices,
    links := (out .link).foldl (fun m i => put m i false) s.links }

/-- Units neither of whose copies checks are retired (R270, R277). -/
def State.retireUnread (s : State) : State :=
  wearUnits.foldl (fun s u => if (s.loadedState u.1 u.2).isNone then s.retireUnit u.1 u.2 else s) s

/-- The units that are active: not spare, not retired. -/
def State.activeUnits (s : State) : List (WearKind × Nat) := wearUnits.filter fun u => (s.wearRec u.1 u.2).state = 0

/-- A unit passes a scan. -/
def State.passUnit (s : State) (k : WearKind) (i : Nat) : State :=
  match k with
  | .core => s.setCore i { s.core i with passes := (s.core i).passes + 1 }
  | .array => s.setCluster i { s.cluster i with arrayPasses := (s.cluster i).arrayPasses + 1 }
  | .slice =>
    let sl := (find s.slices i).getD sliceInit
    { s with slices := put s.slices i { sl with passes := sl.passes + 1 } }
  | .pacer => s
  | .link => s

/-- Step 7: every active unit is scanned; whether it passes is the hardware's. -/
def State.scanAll (s : State) (attempt : Nat) : State :=
  s.activeUnits.foldl (fun s u =>
    if (s.wearRec u.1 u.2).state ≠ 0 then s
    else if s.freeNat (10000 + 1000 * attempt + wearKey u.1 u.2) % 2 = 0 then s.passUnit u.1 u.2
    else s.retireUnit u.1 u.2) s

/-- Step 8: rest for the time off. -/
def State.offRest (s : State) (offsec : Nat) : State :=
  if offsec = 0 then s
  else s.activeUnits.foldl (fun s u => s.endRest u.1 u.2 (offsec * 2700000000) false) s

/-- A rotation group starts with its lowest member. -/
def rotGroup (slices : Bool) (die : Nat) (l : List Nat) : RotGroup := ⟨slices, die, l, l.headD 0, true⟩

/-- Step 9: the rotation groups of a die: six of cores, four of slices (R21). -/
def State.dieGroups (s : State) (die : Nat) : List RotGroup :=
  let act := (List.range 26).filter fun i => (s.cluster (die * 26 + i)).status = .active
  ((List.range 6).map fun g =>
    rotGroup false die (((act.drop (4 * g)).take 4).flatMap fun i => (List.range 4).map fun k => 4 * (die * 26 + i) + k)) ++
  (List.range 4).map fun g =>
    rotGroup true die (((List.range 16).map fun j => die * 64 + 16 * g + j).filter fun i =>
      ((find s.slices i).getD sliceInit).present)

def State.formGroups (s : State) : State :=
  { s with
    rot := indexed (((List.range 4).flatMap s.dieGroups).filter fun g => !g.members.isEmpty),
    nextId := max s.nextId 64 }

/-- The readings of the twelve first-tier stacks. -/
def State.stackTemps (s : State) : AMap Int :=
  (List.range 12).map fun k => (k, getD 0 ((find s.dies (k / 3)).getD dieInit).stackT (k % 3))

/-- Every stack lies within 10 °C of its stored temperature (R310, step 5). -/
def nearTemps (now stored : AMap Int) : Bool :=
  (List.range 12).all fun k =>
    match find stored k, find now k with
    | some a, some b => a - b ≤ 10 && b - a ≤ 10
    | _, _ => false

/-- The supply settings at a start: the board's, and free here. -/
def State.supplySettings (s : State) : Nat := s.freeNat 9500

/-- Step 4 is skipped by a warm start while the supply settings equal those of the stored calibration. -/
def State.skipsCalibration (s : State) (warm : Bool) : Bool := warm && s.dev.calib = some s.supplySettings

/-- Step 5 is skipped by a warm start while the stored training is valid and every stack near its stored temperature. -/
def State.skipsTraining (s : State) (warm : Bool) : Bool :=
  warm && (match s.dev.trained with
    | some m => nearTemps s.stackTemps m
    | none => false)

/-- A step begins: VX_SSTAT.STEP names it. It fails where it does not complete, which the hardware decides. -/
def State.runStep (n k : Nat) (skip : Bool) (act : State → State) (s : State) : Except State State :=
  let s1 : State := { s with dev := { s.dev with startStep := k } }
  if skip then .ok s1 else if s1.stepPasses n k then .ok (act s1) else .error s1

/-- Step 2: fresh keys (R304). -/
def State.drawKeys (n : Nat) (s : State) : State :=
  { s with dev := { s.dev with memKey := Config.drawMemKey (s.tick + n), macKey := Config.drawMacKey (s.tick + n) } }

/-- Step 6: memory is zeroed, with its tags and its write records, and the carve-outs are laid out (R137, R304). -/
def State.zeroAll (i1 i2 : Bool) (s : State) : State :=
  { s with
    mem := [], tags := [], records := [], relays := [],
    dev := { s.dev with integ1 := i1, integ2 := i2, lostPte := [] } }

/-- Step 7 of a cold start: the scan completes in any case, and fails when no active cluster remains. -/
def State.scanStep (n : Nat) (warm : Bool) (s : State) : Except State State :=
  let s1 : State := { s with dev := { s.dev with startStep := 7 } }
  if warm then .ok s1
  else
    let s2 := s1.scanAll n
    if s2.actives.isEmpty then .error s2 else .ok s2

/-- What the start record says of a start (R303): its kind, and the steps skipped. -/
def State.recordStart (warm calibrate train : Bool) (s : State) : State :=
  { s with
    dev := { s.dev with startWarm := warm, startSkipped := 16 * boolBit calibrate + 32 * boolBit train + 128 * boolBit warm } }

/-- One attempt at a start (R310): the machine after its nine steps, or as the step that failed left it. The steps before
that one have had their effects. -/
def State.attempt (s : State) (n : Nat) (warm : Bool) (offsec : Nat) (i1 i2 : Bool) : Except State State := do
  let noCal := s.skipsCalibration warm
  let noTrain := s.skipsTraining warm
  let s1 ← State.runStep n 1 false id s
  let s2 ← State.runStep n 2 false (State.drawKeys n) s1
  let s3 ← State.runStep n 3 false (fun s => ((s.loadClusters).loadOthers).retireUnread) s2
  let s4 ← State.runStep n 4 noCal (fun s => { s with dev := { s.dev with calib := some s.supplySettings } }) s3
  let s5 ← State.runStep n 5 noTrain (fun s => { s with dev := { s.dev with trained := some s.stackTemps } }) s4
  let s6 ← State.runStep n 6 false (State.zeroAll i1 i2) s5
  let s7 ← State.scanStep n warm s6
  let s8 ← State.runStep n 8 false (fun s => s.offRest offsec) s7
  State.runStep n 9 false (fun s => (s.formGroups).recordStart warm noCal noTrain) s8

/-- A start that reaches STATE 3 clears FAILS (R311). -/
def State.started (s : State) : State := { s with dev := { s.dev with startState := 3, startFails := 0 } }

/-- Cold starts, until one succeeds or FAILS reaches 3 (R311). -/
def State.coldStarts (s : State) (offsec : Nat) (i1 i2 : Bool) : Nat → Nat → State
  | 0, _ => { s with dev := { s.dev with startState := 4 } }
  | n + 1, k =>
    match s.attempt k false offsec i1 i2 with
    | .ok t => t.started
    | .error t =>
      ({ t with dev := { t.dev with startFails := t.dev.startFails + 1 } } : State).coldStarts offsec i1 i2 n (k + 1)

/-- VX_START: the first write that is not dropped runs a start. -/
def execVxStart (port : Port) (value : Word64) (s : State) : Host.Outcome State Fault Refusal :=
  let v := value.toNat
  let _ := port
  if s.dev.startState ≠ 0 || bits v 31 3 ≠ 0 then .next s
  else
    let offsec := bits v 63 32
    let cold (s : State) : State := s.coldStarts offsec (bit v 1) (bit v 2) 3 1
    if bit v 0 then
      match s.attempt 0 true offsec (bit v 1) (bit v 2) with
      | .ok t => .next t.started
      | .error t => .next (cold t)
    else .next (cold s)

end Sys2Proof.Machine
end

