-- ==== Sys2Proof/Machine/Dispatch.lean ====
section
/-! DEFINITION. One arm per instruction: which meaning each constructor has. -/

namespace Sys2Proof.Machine

def exec (i : Instr) (s : State) : Host.Outcome State Fault Refusal :=
  match i with
  | .deviceReset => Sys2Proof.Machine.execDeviceReset s
  | .vxStart port value => Sys2Proof.Machine.execVxStart port value s
  | .vxDoorbell port value => Sys2Proof.Machine.execVxDoorbell port value s
  | .clearQuar port value => Sys2Proof.Machine.execClearQuar port value s
  | .queueReset port value => Sys2Proof.Machine.execQueueReset port value s
  | .queueResetReport queue => Sys2Proof.Machine.execQueueResetReport queue s
  | .ctxCreate port => Sys2Proof.Machine.execCtxCreate port s
  | .ctxEnd port => Sys2Proof.Machine.execCtxEnd port s
  | .qCreate port => Sys2Proof.Machine.execQCreate port s
  | .qDestroy port => Sys2Proof.Machine.execQDestroy port s
  | .frameAssign port => Sys2Proof.Machine.execFrameAssign port s
  | .frameRelease port => Sys2Proof.Machine.execFrameRelease port s
  | .frameScrub port => Sys2Proof.Machine.execFrameScrub port s
  | .capSet port => Sys2Proof.Machine.execCapSet port s
  | .tlbInval port => Sys2Proof.Machine.execTlbInval port s
  | .cgrpSet port => Sys2Proof.Machine.execCgrpSet port s
  | .hostCommandDone port => Sys2Proof.Machine.execHostCommandDone port s
  | .fctlRetry port value => Sys2Proof.Machine.execFctlRetry port value s
  | .fctlSkip port value => Sys2Proof.Machine.execFctlSkip port value s
  | .fctlKill port value => Sys2Proof.Machine.execFctlKill port value s
  | .hostTeardown port value => Sys2Proof.Machine.execHostTeardown port value s
  | .vxDbgctl port value => Sys2Proof.Machine.execVxDbgctl port value s
  | .vxLife port value => Sys2Proof.Machine.execVxLife port value s
  | .vxSched port value => Sys2Proof.Machine.execVxSched port value s
  | .vxDomain port value => Sys2Proof.Machine.execVxDomain port value s
  | .vxFlog port value => Sys2Proof.Machine.execVxFlog port value s
  | .registerWrite port reg value => Sys2Proof.Machine.execRegisterWrite port reg value s
  | .bar2Access port tee addr len write => Sys2Proof.Machine.execBar2Access port tee addr len write s
  | .lockInterface port => Sys2Proof.Machine.execLockInterface port s
  | .startInterface port => Sys2Proof.Machine.execStartInterface port s
  | .stopInterface port => Sys2Proof.Machine.execStopInterface port s
  | .linkSecurityError port => Sys2Proof.Machine.execLinkSecurityError port s
  | .getCertificate port => Sys2Proof.Machine.execGetCertificate port s
  | .challenge port nonce => Sys2Proof.Machine.execChallenge port nonce s
  | .keyExchange port peer => Sys2Proof.Machine.execKeyExchange port peer s
  | .getMeasurements port index nonce => Sys2Proof.Machine.execGetMeasurements port index nonce s
  | .batchValidation queue => Sys2Proof.Machine.execBatchValidation queue s
  | .meetDispatch queue => Sys2Proof.Machine.execMeetDispatch queue s
  | .launch queue => Sys2Proof.Machine.execLaunch queue s
  | .wait queue => Sys2Proof.Machine.execWait queue s
  | .signal meet index => Sys2Proof.Machine.execSignal meet index s
  | .copy meet index => Sys2Proof.Machine.execCopy meet index s
  | .copyDone meet index => Sys2Proof.Machine.execCopyDone meet index s
  | .relayPlacement field linear => Sys2Proof.Machine.execRelayPlacement field linear s
  | .relayRetirement relay => Sys2Proof.Machine.execRelayRetirement relay s
  | .concurrencyLost field => Sys2Proof.Machine.execConcurrencyLost field s
  | .sliceExpiry relay squad => Sys2Proof.Machine.execSliceExpiry relay squad s
  | .preemption field linear => Sys2Proof.Machine.execPreemption field linear s
  | .yieldDeadline relay squad => Sys2Proof.Machine.execYieldDeadline relay squad s
  | .migration relay cluster => Sys2Proof.Machine.execMigration relay cluster s
  | .rotationSlotEnd group => Sys2Proof.Machine.execRotationSlotEnd group s
  | .rotationScanDone group pass => Sys2Proof.Machine.execRotationScanDone group pass s
  | .tileArrayScan cluster pass => Sys2Proof.Machine.execTileArrayScan cluster pass s
  | .wearIntegration kind index mv activity mon => Sys2Proof.Machine.execWearIntegration kind index mv activity mon s
  | .boostLevelReached cluster => Sys2Proof.Machine.execBoostLevelReached cluster s
  | .boostGrantEnd cluster => Sys2Proof.Machine.execBoostGrantEnd cluster s
  | .sensorSample sensor value => Sys2Proof.Machine.execSensorSample sensor value s
  | .translationWalkDone walk => Sys2Proof.Machine.execTranslationWalkDone walk s
  | .fragmentReplay u fid => Sys2Proof.Machine.execFragmentReplay u fid s
  | .scratchRefill relay page => Sys2Proof.Machine.execScratchRefill relay page s
  | .storageError site => Sys2Proof.Machine.execStorageError site s
  | .longLatencyCompletion u index => Sys2Proof.Machine.execLongLatencyCompletion u index s
  | .handlerEntry u => Sys2Proof.Machine.execHandlerEntry u s
  | .copyEngineTransfer relay queue => Sys2Proof.Machine.execCopyEngineTransfer relay queue s
  | .commandCompletion relay queue => Sys2Proof.Machine.execCommandCompletion relay queue s
  | .collectiveRun relay peers => Sys2Proof.Machine.execCollectiveRun relay peers s
  | .matrixEntryBegin relay => Sys2Proof.Machine.execMatrixEntryBegin relay s
  | .matrixEntryComplete relay residueOk => Sys2Proof.Machine.execMatrixEntryComplete relay residueOk s
  | .pairWord h0 h1 => Sys2Proof.Machine.execPairWord h0 h1 s
  | .iadd f => Sys2Proof.Machine.execIadd f s
  | .iaddImm f => Sys2Proof.Machine.execIaddImm f s
  | .iaddImmUniform f => Sys2Proof.Machine.execIaddImmUniform f s
  | .isub f => Sys2Proof.Machine.execIsub f s
  | .iabs f => Sys2Proof.Machine.execIabs f s
  | .imin f => Sys2Proof.Machine.execImin f s
  | .iminImm f => Sys2Proof.Machine.execIminImm f s
  | .iminImmUniform f => Sys2Proof.Machine.execIminImmUniform f s
  | .imax f => Sys2Proof.Machine.execImax f s
  | .imaxImm f => Sys2Proof.Machine.execImaxImm f s
  | .imaxImmUniform f => Sys2Proof.Machine.execImaxImmUniform f s
  | .iaddc f => Sys2Proof.Machine.execIaddc f s
  | .icmp f => Sys2Proof.Machine.execIcmp f s
  | .icmpImm f => Sys2Proof.Machine.execIcmpImm f s
  | .icmpImmUniform f => Sys2Proof.Machine.execIcmpImmUniform f s
  | .idot4 f => Sys2Proof.Machine.execIdot4 f s
  | .qdot4 f => Sys2Proof.Machine.execQdot4 f s
  | .imul f => Sys2Proof.Machine.execImul f s
  | .imulImm f => Sys2Proof.Machine.execImulImm f s
  | .imulImmUniform f => Sys2Proof.Machine.execImulImmUniform f s
  | .imulhi f => Sys2Proof.Machine.execImulhi f s
  | .imad f => Sys2Proof.Machine.execImad f s
  | .and f => Sys2Proof.Machine.execAnd f s
  | .andImm f => Sys2Proof.Machine.execAndImm f s
  | .andImmUniform f => Sys2Proof.Machine.execAndImmUniform f s
  | .or f => Sys2Proof.Machine.execOr f s
  | .orImm f => Sys2Proof.Machine.execOrImm f s
  | .orImmUniform f => Sys2Proof.Machine.execOrImmUniform f s
  | .xor f => Sys2Proof.Machine.execXor f s
  | .xorImm f => Sys2Proof.Machine.execXorImm f s
  | .xorImmUniform f => Sys2Proof.Machine.execXorImmUniform f s
  | .not f => Sys2Proof.Machine.execNot f s
  | .shl f => Sys2Proof.Machine.execShl f s
  | .shlImm f => Sys2Proof.Machine.execShlImm f s
  | .shlImmUniform f => Sys2Proof.Machine.execShlImmUniform f s
  | .shr f => Sys2Proof.Machine.execShr f s
  | .shrImm f => Sys2Proof.Machine.execShrImm f s
  | .shrImmUniform f => Sys2Proof.Machine.execShrImmUniform f s
  | .sar f => Sys2Proof.Machine.execSar f s
  | .sarImm f => Sys2Proof.Machine.execSarImm f s
  | .sarImmUniform f => Sys2Proof.Machine.execSarImmUniform f s
  | .rotl f => Sys2Proof.Machine.execRotl f s
  | .rotlImm f => Sys2Proof.Machine.execRotlImm f s
  | .rotlImmUniform f => Sys2Proof.Machine.execRotlImmUniform f s
  | .bfx f => Sys2Proof.Machine.execBfx f s
  | .bfi f => Sys2Proof.Machine.execBfi f s
  | .brev f => Sys2Proof.Machine.execBrev f s
  | .clz f => Sys2Proof.Machine.execClz f s
  | .popc f => Sys2Proof.Machine.execPopc f s
  | .sel f => Sys2Proof.Machine.execSel f s
  | .mov f => Sys2Proof.Machine.execMov f s
  | .movi f => Sys2Proof.Machine.execMovi f s
  | .moviUniform f => Sys2Proof.Machine.execMoviUniform f s
  | .moviExt f => Sys2Proof.Machine.execMoviExt f s
  | .fadd f => Sys2Proof.Machine.execFadd f s
  | .fsub f => Sys2Proof.Machine.execFsub f s
  | .fmul f => Sys2Proof.Machine.execFmul f s
  | .ffma f => Sys2Proof.Machine.execFfma f s
  | .fmin f => Sys2Proof.Machine.execFmin f s
  | .fmax f => Sys2Proof.Machine.execFmax f s
  | .fcmp f => Sys2Proof.Machine.execFcmp f s
  | .fdiv f => Sys2Proof.Machine.execFdiv f s
  | .fsqrt f => Sys2Proof.Machine.execFsqrt f s
  | .frcp f => Sys2Proof.Machine.execFrcp f s
  | .frsq f => Sys2Proof.Machine.execFrsq f s
  | .fexp2 f => Sys2Proof.Machine.execFexp2 f s
  | .flog2 f => Sys2Proof.Machine.execFlog2 f s
  | .vfma2 f => Sys2Proof.Machine.execVfma2 f s
  | .dadd f => Sys2Proof.Machine.execDadd f s
  | .dmul f => Sys2Proof.Machine.execDmul f s
  | .dfma f => Sys2Proof.Machine.execDfma f s
  | .cvt f => Sys2Proof.Machine.execCvt f s
  | .sladd f => Sys2Proof.Machine.execSladd f s
  | .slmul f => Sys2Proof.Machine.execSlmul f s
  | .slrcp f => Sys2Proof.Machine.execSlrcp f s
  | .slcmp f => Sys2Proof.Machine.execSlcmp f s
  | .slcvt f => Sys2Proof.Machine.execSlcvt f s
  | .ld f => Sys2Proof.Machine.execLd f s
  | .lds f => Sys2Proof.Machine.execLds f s
  | .ldu f => Sys2Proof.Machine.execLdu f s
  | .ldk f => Sys2Proof.Machine.execLdk f s
  | .st f => Sys2Proof.Machine.execSt f s
  | .sts f => Sys2Proof.Machine.execSts f s
  | .atom f => Sys2Proof.Machine.execAtom f s
  | .atoms f => Sys2Proof.Machine.execAtoms f s
  | .pref f => Sys2Proof.Machine.execPref f s
  | .lea f => Sys2Proof.Machine.execLea f s
  | .leaS f => Sys2Proof.Machine.execLeaS f s
  | .cld f => Sys2Proof.Machine.execCld f s
  | .cldMemory f => Sys2Proof.Machine.execCldMemory f s
  | .cnarrow f => Sys2Proof.Machine.execCnarrow f s
  | .fence f => Sys2Proof.Machine.execFence f s
  | .facqF f => Sys2Proof.Machine.execFacqF f s
  | .facqE f => Sys2Proof.Machine.execFacqE f s
  | .frelF f => Sys2Proof.Machine.execFrelF f s
  | .frelE f => Sys2Proof.Machine.execFrelE f s
  | .bankmode f => Sys2Proof.Machine.execBankmode f s
  | .bankmodeQ f => Sys2Proof.Machine.execBankmodeQ f s
  | .pgpin f => Sys2Proof.Machine.execPgpin f s
  | .pgunpin f => Sys2Proof.Machine.execPgunpin f s
  | .shfl f => Sys2Proof.Machine.execShfl f s
  | .vote f => Sys2Proof.Machine.execVote f s
  | .redux f => Sys2Proof.Machine.execRedux f s
  | .lbind f => Sys2Proof.Machine.execLbind f s
  | .lunbind f => Sys2Proof.Machine.execLunbind f s
  | .ladd f => Sys2Proof.Machine.execLadd f s
  | .lsub f => Sys2Proof.Machine.execLsub f s
  | .lshl f => Sys2Proof.Machine.execLshl f s
  | .lshr f => Sys2Proof.Machine.execLshr f s
  | .lcmp f => Sys2Proof.Machine.execLcmp f s
  | .lmac f => Sys2Proof.Machine.execLmac f s
  | .nop f => Sys2Proof.Machine.execNop f s
  | .bra f => Sys2Proof.Machine.execBra f s
  | .brx f => Sys2Proof.Machine.execBrx f s
  | .call f => Sys2Proof.Machine.execCall f s
  | .ret f => Sys2Proof.Machine.execRet f s
  | .exit f => Sys2Proof.Machine.execExit f s
  | .reconv f => Sys2Proof.Machine.execReconv f s
  | .yield f => Sys2Proof.Machine.execYield f s
  | .yieldPoint f => Sys2Proof.Machine.execYieldPoint f s
  | .bar f => Sys2Proof.Machine.execBar f s
  | .bara f => Sys2Proof.Machine.execBara f s
  | .barw f => Sys2Proof.Machine.execBarw f s
  | .rbar f => Sys2Proof.Machine.execRbar f s
  | .fork f => Sys2Proof.Machine.execFork f s
  | .rdv f => Sys2Proof.Machine.execRdv f s
  | .fretRetry f => Sys2Proof.Machine.execFretRetry f s
  | .fretSkip f => Sys2Proof.Machine.execFretSkip f s
  | .fkill f => Sys2Proof.Machine.execFkill f s
  | .xrv f => Sys2Proof.Machine.execXrv f s
  | .xwv f => Sys2Proof.Machine.execXwv f s
  | .cqw f => Sys2Proof.Machine.execCqw f s
  | .cqwExt f => Sys2Proof.Machine.execCqwExt f s
  | .cqgo f => Sys2Proof.Machine.execCqgo f s
  | .cwait f => Sys2Proof.Machine.execCwait f s
  | .gset f => Sys2Proof.Machine.execGset f s
  | .qfence f => Sys2Proof.Machine.execQfence f s
  | .mzero f => Sys2Proof.Machine.execMzero f s
  | .mlda f => Sys2Proof.Machine.execMlda f s
  | .mma f => Sys2Proof.Machine.execMma f s
  | .mstore f => Sys2Proof.Machine.execMstore f s
  | .mcommit f => Sys2Proof.Machine.execMcommit f s
  | .mwait f => Sys2Proof.Machine.execMwait f s
  | .tdesc f => Sys2Proof.Machine.execTdesc f s
  | .tinv f => Sys2Proof.Machine.execTinv f s
  | .srd f => Sys2Proof.Machine.execSrd f s
  | .swr f => Sys2Proof.Machine.execSwr f s
  | .trap f => Sys2Proof.Machine.execTrap f s
  | .bkpt f => Sys2Proof.Machine.execBkpt f s
  | .boost f => Sys2Proof.Machine.execBoost f s
  | .boostSpare f => Sys2Proof.Machine.execBoostSpare f s
  | .therm f => Sys2Proof.Machine.execTherm f s
  | .wrd f => Sys2Proof.Machine.execWrd f s
  | .powerLoss tornKind tornIndex torn => Sys2Proof.Machine.execPowerLoss tornKind tornIndex torn s
  | .supplyDroop cluster mhz => Sys2Proof.Machine.execSupplyDroop cluster mhz s
  | .mappingDeclined walk => Sys2Proof.Machine.execMappingDeclined walk s
  | .bankmodeTransitionDone relay bank => Sys2Proof.Machine.execBankmodeTransitionDone relay bank s
  | .zeroingComplete frame => Sys2Proof.Machine.execZeroingComplete frame s
  | .accessPerformed u => Sys2Proof.Machine.execAccessPerformed u s
  | .dataVerified u => Sys2Proof.Machine.execDataVerified u s
  | .peerUnreachable relay => Sys2Proof.Machine.execPeerUnreachable relay s
  | .cacheSectorEviction sector => Sys2Proof.Machine.execCacheSectorEviction sector s
  | .peerDeviceAccess op => Sys2Proof.Machine.execPeerDeviceAccess op s

end Sys2Proof.Machine
end

