-- ==== Sys2Proof/Machine/Ahead.lean ====
section
/-! DEFINITION. Words in the window of an open CWAIT or MWAIT: they issue at once, what they write commits when that has
completed, and what they do outside the unit's registers is done then (R29, R84 to R86, R373, R417, log 82). -/

namespace Sys2Proof.Machine

/-- A word executed in the lanes of a focus by a unit as it stands: the machine after it, and the unit. -/
def State.try_ (s : State) (F : Focus) (x : Strand) (i : Instr) : State × Strand :=
  match exec i { s.setStrand F.unit x with focus := some F } with
  | .next t => (t, (t.strand F.unit).getD x)
  | .fault _ => (s, x)
  | .refused _ => (s, x)

/-- It has not issued: it waits, and leaves its unit as it was, but for what it waits for. -/
def unmoved (x y : Strand) : Bool := { y with waiting := x.waiting } = x

/-- The handler `h` of a word has escalated. -/
def Strand.handlerOver (y : Strand) (h : Option Nat) : Bool :=
  match h.bind fun fid => find y.frags fid with
  | some fr => fr.phase = .escalated
  | none => false

/-! ### What is due -/

/-- The unit after a word whose lanes had gone on: it keeps its registers, but for the lanes that the word now parks, which
are at it again. A lane that has exited stays exited (R59). -/
def Strand.gone (x y : Strand) (m : LaneSet) (h : Option Nat) : Strand :=
  let ends := y.handlerOver h
  let back := laneSet fun i => (y.lane i).ls = .parked && (x.lane i).ls ≠ .exited &&
    (m.getLsbD i || (x.lane i).ls ≠ .parked) && (h.isNone || ends)
  { x with
    lanes := (lanesOf back).foldl (fun l i => put l i (y.lane i)) x.lanes, ops := leaveAll back x.ops,
    due := x.due.filterMap fun d => d.without back, frags := if h.isNone || ends then y.frags else x.frags,
    nextOrder := y.nextOrder, stopped := y.stopped, race := y.race, inflight := y.inflight }

/-- The unit after a word at which its lanes waited; `x0` is the unit as the word found it. -/
def Strand.stayed (x x0 y : Strand) : Strand :=
  { y with
    s := Machine.layOver (changed regZero x0.s y.s) x.s, c := x.c, k := x.k, kset := x.kset, ops := x.ops ++ y.ops, due := x.due,
    count := if y.count = 0 then 0 else x.count, waiting := if y.waiting = .none then x.waiting else y.waiting }

/-- The STEP control of the unit's context. -/
def State.stepOf (s : State) (u : UnitRef) : Bool := (s.ctxOf u).any fun c => c.step

/-- A word that issued before is carried out: single stepping stops nobody at it (R254). -/
def State.carryOut (s : State) (F : Focus) (x : Strand) (i : Instr) : State × Strand :=
  let r := (s.modCtxOf F.unit fun c => { c with step := false }).try_ F x i
  (r.1.modCtxOf F.unit fun c => { c with step := s.stepOf F.unit }, r.2)

/-- A lane meets a cause at a store that it had issued before: it parks there, and what it issued later has never been. -/
def State.parkAt (s : State) (u : UnitRef) (x : Strand) (was : Lane) (f : LaneFault) (h : Option Nat) : State :=
  let m := 1#32 <<< f.lane
  match h with
  | some fid =>
    if (find x.frags fid).any fun fr => fr.phase.elected.isSome then (s.setStrand u x).takeFaults u h [f] else s.setStrand u x
  | none =>
    let x1 := ({ x.setLane f.lane ((x.lane f.lane).backTo was) with
      ops := leaveAll m x.ops, due := x.due.filterMap fun d => d.without m } : Strand).dropEmpty.recause
    let s1 := (((s.setStrand u x1).takeFaults u none [f]).stopHeat u [f]).unblock u
    s1.queueWalks u true [f]

/-- A store of the window is performed: its address is translated, its storage waited for, and its race looked for again
(R134, R141, R143, R154, R176). False while it waits. `check` is false where it is only imagined to be performed. -/
def State.storeNow (s : State) (u : UnitRef) (x : Strand) (check : Bool) (i : Nat) (l : Loc) (n v : Nat) (o : Order)
    (was : Lane) (fva : Nat) (h : Option Nat) : State × Bool :=
  let store (l : Loc) : State × Bool :=
    let r := s.doWrite u x l n v o
    (r.1.setStrand u r.2, true)
  let fault (y : Strand) (c : Nat) (replay : Bool) : State × Bool :=
    if check then
      if (x.lane i).ls = .exited then (s, true) else (s.parkAt u y was ⟨i, c, fva, replay⟩ h, true)
    else (s, true)
  let judged (l : Loc) : State × Bool :=
    if check && s.races u x l n (o.at_ l) && (x.lane i).ls ≠ .exited then
      fault (s.noteRace u x (fun _ => { loc := some l }) [⟨i, 0x15, fva, false⟩]) 0x15 false
    else store l
  match l with
  | .scr off =>
    let wait : Bool := (s.relayOf u).any fun rl =>
      (off < fifoBase && !(rl.page (off / 4096)).resident) || rl.inTransition off
    if wait then (s, false) else judged l
  | .dev _ _ =>
    match s.translate u fva true with
    | .hit pa e => if s.beingZeroed pa then (s, false) else judged (.dev pa e.attr)
    | .miss => fault x 0x10 true
    | .cause c => fault x c false
    | .busy => (s, false)

/-- A window word does what it has still to do; false while it waits. -/
def State.perform (s : State) (u : UnitRef) (check : Bool) (d : Late) : State × Bool :=
  match s.strand u with
  | none => (s, true)
  | some x =>
    match d with
    | .store i l n v o was fva h => s.storeNow u x check i l n v o was fva h
    | .arrive n m =>
      let here := (lanesOf m).filter fun i => (x.lane i).ls ≠ .exited
      ((s.setStrand u (x.arrive (.squad (unitSquad u) n) here)).settleBars u, true)
    | .word i m v stays h =>
      let m1 := if stays then laneSet fun i => m.getLsbD i && (x.lane i).held = some .window else m
      let x1 := if stays then x.mapLanes (lanesOf m1) fun _ l => { l with held := none }
        else { x with lanes := v.lanes.foldl (fun l e => put l e.1 e.2) x.lanes }
      let x0 : Strand := { x1 with s := v.s, c := v.c, k := v.k, kset := v.kset, ops := [], count := 1, waiting := .none }
      if m1 = 0#32 then (s, true)
      else
        let r := s.carryOut ⟨u, m1, h⟩ x0 i
        if unmoved x0 r.2 then (s.setStrand u { x with waiting := if r.2.waiting = .none then x.waiting else r.2.waiting }, false)
        else (({ r.1 with focus := s.focus } : State).setStrand u (if stays then x.stayed x0 r.2 else x.gone r.2 m1 h), true)

/-- What is due is done in order, as far as nothing of it waits, nor gives way under `yields`. -/
def State.performDue (s : State) (u : UnitRef) (yields : State → Late → Bool) : Nat → State
  | 0 => s
  | n + 1 =>
    match s.strand u with
    | none => s
    | some x =>
      match x.due with
      | [] => s
      | d :: ds =>
        if yields s d then s
        else
          let r := (s.setStrand u { x with due := ds }).perform u true d
          if r.2 then r.1.performDue u yields n else r.1.modStrand u fun y => { y with due := d :: y.due }

/-! ### Issue in a window -/

/-- The unit as a word of these lanes finds it: scalar registers as the words of its window have left them; a lane in a
window in which these lanes do not stand has the registers that are committed. -/
def Strand.viewOf (x : Strand) (m : LaneSet) : Strand :=
  let x1 := (x.covering m).foldl (fun x o => x.layOver o.laid) x
  (x.ops.filter fun o => !o.plain && !o.opens m).reverse.foldl (fun x o =>
    o.save.foldl (fun x e => if m.getLsbD e.1 then x else x.setLane e.1 ((x.lane e.1).regsOf e.2)) x) x1

/-- The machine as it would stand if the words of the window had done what they have still to do: a later load of their
lanes finds their stores (R86). -/
def State.asIf (s : State) (u : UnitRef) (x : Strand) (m : LaneSet) : State :=
  ((x.covering m).flatMap fun o => o.late).foldl (fun s d => (s.perform u false d).1) (s.setStrand u x)

/-- Keep with the instructions in whose window these lanes stand what a word has written and what it will do. -/
def Strand.keep (x : Strand) (m : LaneSet) (laid : Over) (late : List Late) : Strand :=
  let r := handLates (layLast m laid x.ops) late
  { x with ops := r.1, due := x.due ++ r.2 }

/-- The lanes of a set that a word has parked, with what they report; `x` is the unit as the word found it. -/
def Strand.faultsIn (x y : Strand) (m : LaneSet) : List LaneFault :=
  (lanesOf m).filterMap fun i =>
    let l := y.lane i
    if l.ls = .parked && (x.lane i).ls ≠ .parked then
      some ⟨i, l.own.toNat, l.fva.toNat, (l.frag.bind (find y.frags)).any fun fr => fr.misses.getLsbD i⟩
    else none

/-- The issuing set of a word, seen from inside the windows its lanes stand in and from outside. -/
structure Sides where
  inside : LaneSet
  outside : LaneSet
  /-- the machine as the lanes inside find it -/
  ahead : State

/-- The sides of an issuing set. -/
def State.sides (s : State) (F : Focus) (x : Strand) : Sides :=
  let m := x.coveredIn F.lanes
  ⟨m, F.lanes &&& ~~~m, s.asIf F.unit x m⟩

/-- The unit as the lanes outside find it: of the lanes inside they read committed registers. -/
def Strand.outer (x : Strand) (i : Instr) (out : LaneSet) : Strand :=
  if passesLanes i then { x.viewOf out with ops := x.ops.filter fun o => o.plain } else x
where
  passesLanes : Instr → Bool
    | .shfl _ | .redux _ | .vote _ => true
    | _ => false

/-- What an unissued word of a window asks for while it waits, in the lanes outside or inside; a handler's word that would
fault waits too, since its fragment is not escalated before the window's instruction has completed (R86). -/
def State.stalledIn (s : State) (F : Focus) (x : Strand) (i : Instr) : Option State :=
  let d := s.sides F x
  let waits (h : State) (x0 : Strand) (m : LaneSet) : Option Wait :=
    if m = 0#32 then none
    else
      let y := (h.try_ { F with lanes := m } { x0 with count := 0 } i).2
      if unmoved { x0 with count := 0 } y then some y.waiting else if y.handlerOver F.handler then some x.waiting else none
  ((waits s x d.outside).orElse fun _ => waits d.ahead (x.viewOf d.inside) d.inside).map fun w =>
    s.setStrand F.unit { x with waiting := w }

/-- What a word of the window will do later in the lanes that have gone on. -/
def lateOf (i : Instr) (s : State) (F : Focus) (x : Strand) : List Late :=
  match i with
  | .st f => storeLates false f s F x
  | .sts f => storeLates true f s F x
  | .bara f =>
    let e := executing x F.lanes f.pred
    if e = 0#32 then [] else [.arrive f.imm.toNat e]
  | i =>
    if F.lanes = 0#32 then []
    else [.word i F.lanes ⟨(lanesOf F.lanes).map fun j => (j, x.lane j), x.s, x.c, x.k, x.kset⟩ false F.handler]

/-- A word that accesses memory as a store (R131). -/
def storesWord : Instr → Bool
  | .st _ | .atom _ => true
  | _ => false

/-- The unit before its word is executed a second time, in other lanes: it issues once. -/
def Strand.again (x : Strand) (count n : Nat) : Strand :=
  { x with count := count, ops := x.ops.map fun o => { o with left := o.left + n } }

/-- The lanes of a set as they are in `y`; of the others `y` changes no register. -/
def Strand.lanesFrom (x y : Strand) (m : LaneSet) : AMap Lane :=
  y.lanes.map fun e => (e.1, if m.getLsbD e.1 then e.2 else e.2.regsOf (x.lane e.1))

/-- The scalar registers that a word has written. -/
def Strand.laidOver (x0 y : Strand) : Over :=
  ⟨changed regZero x0.s y.s, changed capNull x0.c y.c, changed kZero x0.k y.k, y.kset && !x0.kset⟩

/-- The lanes of a word that meet causes, on either side, park together at once (R86): the machine, and the unit as it
stood with what was pending in them completed (R85). -/
def State.parkSides (s : State) (F : Focus) (x : Strand) (i : Instr) (d : Sides) : State × Strand × LaneSet :=
  let u := F.unit
  let xo := x.outer i d.outside
  let xi := x.viewOf d.inside
  let yo := (s.try_ F xo i).2
  let yi := (d.ahead.try_ F xi i).2
  let fo := if d.outside = 0#32 then [] else xo.faultsIn yo d.outside
  let fi := if d.inside = 0#32 then [] else xi.faultsIn yi d.inside
  let fs := fo ++ fi
  if fs.isEmpty then (s.setStrand u x, x, 0#32)
  else
    let races (l : List LaneFault) : Bool := l.any fun f => f.cause = 0x15
    let note (y z : Strand) : Strand := { z with race := { z.race with wv := y.race.wv, wagent := y.race.wagent } }
    let x1 := x.landFor fs
    let x2 := if races fi then note yi x1 else if races fo then note yo x1 else x1
    let bad := laneSet fun i => fs.any fun f => f.lane = i
    (((s.setStrand u x2).park ⟨u, bad, none⟩ fs).queueWalks u (storesWord i) fs, x2, bad)

/-- A word acts in lanes outside, at once, where there are any. -/
def State.actOut (s : State) (F : Focus) (x : Strand) (i : Instr) (n : Nat) (m : LaneSet) : State × Strand :=
  if m = 0#32 then (s, ({ x.spend n with count := bump x.count } : Strand).undefer F.lanes) else s.try_ { F with lanes := m } x i

/-- A matrix word in the window of an MWAIT places its entry at once (R417). -/
def State.placeNow (s h : State) (F : Focus) (x : Strand) (i : Instr) : State :=
  let u := F.unit
  let xi := x.viewOf F.lanes
  let r := h.try_ F xi i
  let entries (t : State) : List MItem := (t.relayOf u).elim [] fun rl => rl.mq
  let y : Strand := { r.2 with
    s := x.s, c := x.c, k := x.k, kset := x.kset, race := x.race, inflight := x.inflight,
    ops := (({ x.spend 1 with count := x.count } : Strand)).ops }
  match (entries r.1).drop (entries h).length with
  | .entry e :: _ =>
    let p := s.placeEntry u y e.op
    p.1.setStrand u p.2
  | _ => s.setStrand u y

/-- A handler's word that writes another lane, which no window of its own holds back (R465). -/
def actsAcross : Instr → Bool
  | .xwv _ => true
  | _ => false

/-- A word issues in the lanes of a focus, none of which meets a cause, some of which stand in windows: those outside
execute it now, those inside on the unit as their window leaves it. `x1` is the unit whose registers give the results of a
word that passes values between lanes, `x` the unit as it stands. -/
def State.issueGood (s : State) (F : Focus) (x x1 : Strand) (i : Instr) (n : Nat) (d : Sides) (given : LaneSet) : State :=
  let u := F.unit
  let gi := d.inside &&& F.lanes
  let go := d.outside &&& F.lanes
  let whole : Focus := { F with lanes := given }
  if setWord i || (onceWord i && executing x go (predOf i) ≠ 0#32) then
    let r := s.try_ F x i
    r.1.setStrand u r.2
  else if actsAcross i then
    let r := s.try_ F { x with s := (x.viewOf gi).s } i
    r.1.setStrand u { r.2 with s := x.s }
  else if stayWord i then
    let r := s.actOut F x i n go
    let v := x.viewOf gi
    let view : View := ⟨[], v.s, v.c, v.k, v.kset⟩
    let y := r.2.landWhere fun o => (o.lanes &&& gi) ≠ 0#32
    let z := y.mapLanes (lanesOf gi) fun _ l => { l with held := some .window }
    r.1.setStrand u (if gi = 0#32 then r.2 else (z.keep gi overNone [.word i gi view true F.handler]).tidyGroup)
  else if isMatrix i && x.inMwait gi && gi ≠ 0#32 then s.placeNow d.ahead F x i
  else if Strand.outer.passesLanes i then
    let xo := x1.outer i d.outside
    let xi := x1.viewOf d.inside
    let yo := (s.try_ whole xo i).2
    let yi := (d.ahead.try_ whole xi i).2
    let z : Strand := ({ x.spend n with
      lanes := x.lanes.map (fun e => (e.1, if go.getLsbD e.1 then yo.lane e.1 else if gi.getLsbD e.1 then yi.lane e.1 else e.2)),
      frags := if F.handler.isSome then (if go = 0#32 then yi.frags else yo.frags) else x.frags,
      s := if go = 0#32 then x.s else layOver (changed regZero xo.s yo.s) x.s,
      fpf := if go = 0#32 then x.fpf else yo.fpf, slf := if go = 0#32 then x.slf else yo.slf, count := bump x.count } : Strand).undefer F.lanes
    s.setStrand u ((if gi = 0#32 then z else z.keep gi (xi.laidOver yi) []).tidyGroup)
  else
    let r := s.actOut F x i n go
    if gi = 0#32 then r.1.setStrand u r.2
    else
      let x2 := if go = 0#32 then x else r.2.again x.count n
      let xi := x2.viewOf gi
      let inner : Focus := { F with lanes := gi }
      let y := (d.ahead.try_ inner xi i).2
      if lateWord i then
        let land (z : Strand) : Strand := z.landWhere fun o => (o.lanes &&& gi) ≠ 0#32
        let z : Strand := land { y with
          lanes := x2.lanesFrom y gi, s := x2.s, c := x2.c, k := x2.k, kset := x2.kset, fpf := x2.fpf, slf := x2.slf, fpe := x2.fpe,
          race := x2.race, inflight := x2.inflight, ops := ({ x2.spend n with count := 0 } : Strand).ops }
        r.1.setStrand u (z.keep gi overNone (lateOf i d.ahead inner (land xi)))
      else
        let e := r.1.try_ inner xi i
        let z : Strand := { y with
          lanes := x2.lanesFrom y gi, s := x2.s, c := x2.c, k := x2.k, kset := x2.kset, race := e.2.race, inflight := e.2.inflight }
        e.1.setStrand u (z.keep gi (xi.laidOver y) [])

/-- A word issues beside an open window (R84, R86): lanes that meet a cause park at once, and the others go on. -/
def State.issueIn (s : State) (F : Focus) (x : Strand) (i : Instr) (n : Nat) : State :=
  let d := s.sides F x
  let p := s.parkSides F x i d
  let good := F.lanes &&& ~~~p.2.2
  match p.1.strand F.unit with
  | none => s
  | some x0 =>
    if good = 0#32 then p.1.setStrand F.unit (({ x0.spend n with count := bump x0.count } : Strand).undefer F.lanes)
    else p.1.issueGood { F with lanes := good } x0 p.2.1 i n d F.lanes

/-! ### What happens next -/

/-- The next thing that happens: the machine as it then stands, or an instruction to execute. -/
inductive Move where
  | done (s : State)
  | run (i : Instr) (s : State)
deriving DecidableEq, Repr

/-- Issue what is offered. -/
def State.issue (s : State) (r : Offer) : Move :=
  let F := r.1
  match r.2.1 with
  | .instr i _ => .run i (s.begin_ r)
  | .bad b => .done ((s.setStrand F.unit r.2.2).fetchFault F b)
  | .wait va => .done ((s.setStrand F.unit r.2.2).askWarm F.unit va)
  | .later i _ => .done ({ s.issueIn F r.2.2 i (wordPlaces i) with focus := none })

end Sys2Proof.Machine
end

