-- ==== Sys2Proof/Machine/Pick.lean ====
section
/-! DEFINITION. What a turn does: which offered words are ready, which of the heats of a core its port takes, words that
contend within a cycle, and the next move of the machine (R64, R90 to R92, R184, R285, R380). -/

namespace Sys2Proof.Machine

/-! ### Readiness (R90) -/

/-- An offered word cannot issue yet: it waits for an operand's verification, a page, or a resource, and leaves its unit as
it was. The state is the machine with what the wait itself asks for. The issue count tells a word that waits from one
that issues, which always counts (R91). -/
def State.stalled (s : State) (r : Offer) : Option State :=
  let u := r.1.unit
  match r.2.1 with
  | .instr i _ =>
    let x0 : Strand := { r.2.2 with count := 0 }
    match exec i (s.begin_ (r.1, r.2.1, x0)) with
    | .next t =>
      match t.strand u with
      | some y =>
        if { y with waiting := x0.waiting } = x0 then
          some { t.setStrand u { r.2.2 with waiting := y.waiting } with focus := none }
        else none
      | none => none
    | _ => none
  | .wait va => some (s.askWarm u va)
  | .later i _ => s.stalledIn r.1 r.2.2 i
  | .bad _ => none

/-- The word a unit is ready to issue: the first offered that does not wait (R64). -/
def State.ready (s : State) (u : UnitRef) : Option Offer := (s.offers u).find? fun r => (s.stalled r).isNone

/-- What the words that wait ahead of a unit's ready one ask for. -/
def State.askFor (s : State) (u : UnitRef) : List Offer → State
  | [] => s
  | r :: rs =>
    match s.stalled r with
    | some t => if (t.strand u).any (fun x => x.waiting ≠ .none) then t else t.askFor u rs
    | none => s

/-! ### The heats of a core (R92) -/

/-- The heats of a core that have not issued in this cycle and are ready. -/
def State.readyHeats (s : State) (p : Nat) : List HeatOf :=
  (s.heatsOn p).filter fun h => !(s.core p).chosen.contains h.slot && (s.ready h.unit).isSome

/-- The heats that the ports of a core still free in this cycle take. -/
def State.picks (s : State) (p : Nat) : List HeatOf :=
  pickHeats (4 - (s.core p).chosen.length) (s.core p).rr (s.readyHeats p)

/-- A unit issues a word of the contest in this cycle. -/
def State.asksNow (s : State) (c : Contest) (u : UnitRef) : Bool :=
  (s.ready u).any (fun r => r.contest = some c) &&
  match s.coreOf u with
  | some p => (s.picks p).any fun h => h.unit = u
  | none => isPacer u

/-- The units of the relays that are placed. -/
def State.units (s : State) : List UnitRef :=
  s.relays.flatMap fun e =>
    if e.2.place.isNone then []
    else .pacer e.1 :: e.2.heats.map fun h => .heat e.1 (h.1 / 32) (h.1 % 32)

/-- A unit has a word of the contest to do next, the CWAIT or MWAIT in whose window it issued having completed (R86). -/
def State.dueNow (s : State) (c : Contest) (u : UnitRef) : Bool :=
  let s1 := s.settleOps u
  match s1.strand u with
  | none => false
  | some x =>
    match x.due with
    | d :: ds => d.contest = some c && ((s1.setStrand u { x with due := ds }).perform u true d).2
    | [] => false

/-- A unit asks for it in this cycle. -/
def State.asks (s : State) (c : Contest) (u : UnitRef) : Bool := s.asksNow c u || s.dueNow c u

/-- Another unit asks in the same cycle and comes before this one (R184, R285, R380). -/
def State.comesBefore (s : State) (c : Contest) (u : UnitRef) : Bool :=
  s.units.any fun v => contendIn c u v && keyBelow (s.contestKey c v) (s.contestKey c u) && s.asks c v

/-- A word gives way to one that contends with it in the same cycle and comes before it (R184, R285, R380). -/
def State.givesWay (s : State) (u : UnitRef) (r : Offer) : Bool := r.contest.any fun c => s.comesBefore c u

/-- So does one that is due. -/
def State.dueWaits (s : State) (u : UnitRef) (d : Late) : Bool := d.contest.any fun c => s.comesBefore c u

/-- A slot that a FACQ held there waits for goes to a FACQ of the same cycle that comes before it (R380). -/
def State.slotGoes (s : State) (u : UnitRef) (h : Hold) : Bool :=
  match h with
  | .facq filled k _ _ _ => s.comesBefore (.facq filled k) u
  | _ => false

/-- An event of an engine that takes a FIFO slot gives way to a FACQ of the relay in the same cycle (R380). -/
def State.engineWaits (s : State) (i : Instr) : Bool :=
  let gives (r : Nat) : Bool :=
    match exec i s with
    | .next t =>
      (find t.relays r).any fun y => (find s.relays r).any fun rl => (List.range 32).any fun k =>
        let b := rl.bank k
        let b1 := y.bank k
        s.units.any fun v => unitRelay v = some r &&
          (((b1.cons, b1.again) ≠ (b.cons, b.again) && s.asks (.facq true k) v) ||
           (b1.prod ≠ b.prod && s.asks (.facq false k) v))
    | _ => false
  match i with
  | .copyEngineTransfer r _ | .matrixEntryBegin r | .collectiveRun r _ => gives r
  | _ => false

/-! ### What completes by itself -/

/-- What stands ready in a unit completes: open windows, held lanes, what window words have still to do, a FENCE; then a
handler is entered. -/
def State.wake (s : State) (u : UnitRef) : State :=
  match s.strand u with
  | none => s
  | some x =>
    let s1 := (s.settleOps u).passHeld u fun s h => s.slotGoes u h
    let s2 := s1.performDue u (fun s d => s.dueWaits u d) (match s1.strand u with
      | some y => y.due.length
      | none => 0)
    ((((s2.modStrand u Strand.passFence).stepReleased u x).stepWaited u).modStrand u Strand.tidyGroup).enterHandler u

/-- The fetch of a word draws on a slice (R257). -/
def State.noteFetch (s : State) (u : UnitRef) (pc : Nat) : State :=
  match s.fieldOf u with
  | some f =>
    match s.codeAddr f pc with
    | .hit pa e => s.useSlice u (.dev pa e.attr)
    | _ => s
  | none => s

/-- What stands ready in a unit completes, its words are fetched, and those that wait ask for what they need. -/
def State.settleUnit (s : State) (u : UnitRef) : State :=
  let s1 := s.wake u
  let s2 := match s1.strand u with
    | some x => if s1.mayIssue u x then (x.select u).foldl (fun (s : State) (e : Focus × Word32) => s.noteFetch u e.2.toNat) s1 else s1
    | none => s1
  s2.askFor u (s2.offers u)

/-- The word of a heat can take a port. -/
def State.goes (s : State) (u : UnitRef) : Bool :=
  match s.ready u with
  | some r => !s.givesWay u r
  | none => false

/-- One issue port of a core: at most four words in a cycle (R17, R92). -/
def State.coreMove (s : State) (p : Nat) : Move :=
  let s1 := (s.heatsOn p).foldl (fun s h => s.settleUnit h.unit) s
  let co := s1.core p
  if 4 ≤ co.chosen.length then .done s1
  else
    match bestHeat co.rr ((s1.readyHeats p).filter fun h => s1.goes h.unit) with
    | none => .done s1
    | some h =>
      match s1.ready h.unit with
      | none => .done s1
      | some r => (s1.setCore p { co with rr := (h.squadSlot + 1) % 64, chosen := co.chosen ++ [h.slot] }).issue r

/-- A pacer or a warm-up issues. -/
def State.unitMove (s : State) (u : UnitRef) : Move :=
  let s1 := s.settleUnit u
  match s1.ready u with
  | some r => if s1.givesWay u r then .done s1 else s1.issue r
  | none => .done s1

/-- Take the next turn from the agenda. -/
def State.nextMove (s : State) : Move :=
  match s.agenda with
  | [] => .done s
  | t :: rest =>
    let s1 := { s with agenda := rest }
    match t with
    | .event i => if isEvent i && !s1.engineWaits i then .run i s1 else .done s1
    | .core p => s1.coreMove p
    | .cycleEnd c => .done (s1.endCycle c)
    | .pacer r => s1.unitMove (.pacer r)
    | .warm q => s1.unitMove (.warm q)

end Sys2Proof.Machine
end

