-- ==== Sys2Proof/Machine/Probe.lean ====
section
/-! DEFINITION. A program placed for the next step: a context, its page tables, a queue, a field of one relay, and the
turn of the core its one heat stands on (see the log: how a program comes to run). -/

namespace Sys2Proof.Machine

/-- A code object header of one squad of one heat with every register of R34, CODEW 2 (R324). -/
def probeHeader : List Word64 :=
  [0x000000014B395856#64, 0x0000000000000002#64, 0xFFFFFFFFFFFFFFFF#64, 0x00000110FFFFFFFF#64, 0x0000010110400100#64,
   0#64, 0#64, 0#64, 0#64, 0#64, 0#64, 0#64]

def probeField : Field :=
  { queue := 0, ctx := 0, meet := 0, packet := 0, tag := 0, mode := 0, nodet := false, priv := true, quar := false,
    epoch := 0, hdr := probeHeader, code := 0, params := [], capBase := 0, ncap := 0, dimX := 1, dimY := 1, dimZ := 1,
    compl := 0, placed := [0], retired := 0, ended := .live, used := [], suspect := false, stopped := false }

def probeCtx : Ctx :=
  { port := .p0, root := 0x10000, capRoot := 0, capN := 1, lmap := [(0, 0)], dbgEn := false, stopHeat := false,
    step := false, tensors := [], cgrps := [] }

def probeQueue : Queue :=
  { q0 := 0#64, q1 := 0#64, quar := false, widx := 0#32, ridx := 0#32, cap := mkCap 0 0x10000 true true true true,
    pending := [], resetting := false, resetDone := false, owed := [], cleared := false }

/-- Page tables that map one 64 KiB page at virtual address 0 to physical 0x40000 (R130, R131). -/
def State.probeTables (s : State) : State :=
  let s1 := (((s.writeMem 0x10000 8 0x11001).writeMem 0x11000 8 0x12001).writeMem 0x12000 8 0x20001).writeMem
    0x20000 8 0x4000B
  let host : Frame := ⟨.host .p0, 0#2, false, false⟩
  (((s1.setFrame 1 host).setFrame 2 host).setFrame 3 host).setFrame 4 ⟨.ctx 0, 0#2, false, false⟩

/-- The instruction's words at word 0 of the code object, and a heat about to issue them. -/
def State.placeWord (s : State) (w : Nat) : State :=
  let s1 := s.probeTables.writeMem 0x40100 16 w
  { s1 with
    ctxs := put s1.ctxs 0 probeCtx, queues := put s1.queues 0 probeQueue, fields := put s1.fields 0 probeField,
    relays := [(0, relayStart 0 probeField 0 0 0 [(0, squadStart 0 0 [0])] [])],
    cores := put s1.cores 0 { s1.core 0 with chosen := [] },
    agenda := .core 0 :: s1.agenda }

end Sys2Proof.Machine
end

