-- ==== Sys2Proof/Machine/Step.lean ====
section
/-! DEFINITION. One step of the machine: the next turn of the agenda (State.nextMove), and the instruction it
executes. -/

namespace Sys2Proof.Machine

/-- The end of an executed instruction's turn. -/
def finishTurn (o : Host.Outcome State Fault Refusal) : Host.Outcome State Fault Refusal :=
  match o with
  | .next t => .next t.endTurn
  | .fault f => .fault f
  | .refused r => .refused r

def step (s : State) : Host.Outcome State Fault Refusal :=
  match s.nextMove with
  | .done t => .next t.endTurn
  | .run i t => finishTurn (exec i t)

/-- The state with an instruction placed where the next step fetches (see Probe.lean). -/
def State.withFetchWord (s : State) (nbits w : Nat) : State := s.placeWord (w % 2 ^ nbits)

end Sys2Proof.Machine
end

