-- ==== Sys2Proof/Safety.lean ====
section
/-! DEFINITION. The terms in which claims are stated: the canonical form of memory, a unit that issues a word, and
what a word leaves behind that completed in every executing lane. -/

namespace Sys2Proof.Machine

/-! ### Invariants -/

/-- Memory is in canonical form: addresses strictly rising, and no listed byte equal to the unlisted one. -/
def Memory.wf (m : AMap Byte) : Bool := rising 0 m && m.all fun e => e.2 ≠ 0#8

/-- The invariant every step keeps: physical memory in canonical form. -/
def State.Inv (s : State) : Prop := Memory.wf s.mem = true

/-- A run is safe at a step when the step answers a next state. -/
def State.safeStep (s : State) : Prop := ∃ t, step s = .next t

/-! ### A unit issues a word -/

/-- The focus names a unit that exists, in some lanes, and the unit is not single-stepped (R254). -/
structure Issues (s : State) (F : Focus) (x : Strand) : Prop where
  focus : s.focus = some F
  strand : s.strand F.unit = some x
  lanes : F.lanes ≠ 0#32
  noStep : s.stepping F = false

/-- No executing lane meets a cause of the registers the word names, nor of the unit it runs on (R35, R85, R338). -/
def NamedOk (s : State) (F : Focus) (x : Strand) (runs : Runs) (n : Named) (e : LaneSet) : Prop :=
  unitCauses F.unit runs = [] ∧ ∀ i, e.getLsbD i = true → namedCauses s F.unit x i n = []

/-- The state with the unit replaced, a warm-up's word counted. -/
def State.withStrand (s : State) (u : UnitRef) (y : Strand) : State := (s.setStrand u y).countWarm u

/-! ### What a completed word leaves -/

/-- A register after a word: what the word wrote there, and the predicate's poison on every destination (R260). -/
def regAfter (old : Reg) (written : Option Reg) (dest : Bool) (t : Taint) : Reg :=
  let r := written.getD old
  if dest then { r with taint := r.taint.join t } else r

def predAfter (old : PBit) (written : Option PBit) (dest : Bool) (t : Taint) : PBit :=
  let r := written.getD old
  if dest then { r with taint := r.taint.join t } else r

/-- What a value of `cnt` registers from register `d` up leaves in register `n` (R93). -/
def regOf (d cnt v : Nat) (t : Taint) (n : Nat) : Option Reg :=
  if d ≤ n ∧ n < d + cnt then some ⟨BitVec.ofNat 32 (v / 2 ^ (32 * (n - d))), t⟩ else none

/-- What a word writes: V and P registers of each lane, S registers of the unit, and the exception flags. -/
structure Writes where
  v : Nat → Nat → Option Reg := fun _ _ => none
  p : Nat → Nat → Option PBit := fun _ _ => none
  s : Nat → Option Reg := fun _ => none
  fpf : BitVec 5 := 0#5
  slf : BitVec 4 := 0#4

/-- The unit `y` after a word that completed in every executing lane of `e`: the registers it wrote, LPC past the word
in every lane of the issuing set outside handler mode, and everything else as it was in `x`. -/
structure RanUnit (F : Focus) (x y : Strand) (info : WordInfo) (e : LaneSet) (d : Dests) (w : Writes) : Prop where
  reg : ∀ i n, i < 32 → F.lanes.getLsbD i = true → (y.lane i).reg n =
    regAfter ((x.lane i).reg n) (if e.getLsbD i then w.v i n else none) (d.v.contains n) ((x.lane i).predTaint info.pred)
  pred : ∀ i n, i < 32 → F.lanes.getLsbD i = true → (y.lane i).pred n =
    predAfter ((x.lane i).pred n) (if e.getLsbD i then w.p i n else none) (d.p.contains n)
      ((x.lane i).predTaint info.pred)
  lpc : ∀ i, i < 32 → F.lanes.getLsbD i = true →
    (y.lane i).lpc = (x.lane i).lpc + (if F.handler.isSome then 0#32 else BitVec.ofNat 32 info.size)
  lane : ∀ i, i < 32 → F.lanes.getLsbD i = true → y.lane i =
    { x.lane i with v := (y.lane i).v, p := (y.lane i).p, lpc := (y.lane i).lpc, held := (y.lane i).held }
  held : F.handler = none → ∀ i, i < 32 → F.lanes.getLsbD i = true → (y.lane i).held = (x.lane i).held
  other : ∀ i, i < 32 → F.lanes.getLsbD i = false → y.lane i = { x.lane i with ls := (y.lane i).ls }
  sreg : ∀ n, y.sreg n =
    regAfter (x.sreg n) (w.s n) (d.s.contains n) (predTaints x (lanesOf F.lanes) info.pred)
  fpf : y.fpf = ((x.spend info.places).addFlags e w.fpf w.slf).fpf
  slf : y.slf = ((x.spend info.places).addFlags e w.fpf w.slf).slf
  frags : F.handler = none → y.frags = x.frags
  rest : y = { x with lanes := y.lanes, s := y.s, fpf := y.fpf, slf := y.slf,
                      ops := ((x.spend info.places).addFlags e w.fpf w.slf).ops, count := bump x.count, frags := y.frags,
                      streak := y.streak, nextMode := y.nextMode, group := y.group }

/-- `exec` has taken state `s` to `t` by such a word, and changed nothing outside the unit. -/
def Ran (s t : State) (F : Focus) (x : Strand) (info : WordInfo) (e : LaneSet) (d : Dests) (w : Writes) : Prop :=
  ∃ y, t = s.withStrand F.unit y ∧ RanUnit F x y info e d w

/-- The unit with a word's results standing: at once where it has no lookahead, else when the instruction it leaves
outstanding lands (R84). -/
def Landed (x y : Strand) (la : Nat) (z : Strand) : Prop :=
  if la = 0 then z = y
  else ∃ op, y.ops = (x.spend 1).ops ++ [op] ∧ op.kind = .plain ∧ op.left = la ∧ z = y.land op

/-! ### Words that compute -/

/-- The destination register of a computing word. -/
def Alu.dstReg (w : Alu) (v : Nat) (t : Taint) (n : Nat) : Option Reg :=
  match w.dst with
  | some (d, c) => regOf d c v t n
  | none => none

/-- The predicate a computing word writes. -/
def Alu.dstPred (w : Alu) (b : Option Bool) (t : Taint) (n : Nat) : Option PBit :=
  match w.pdst, b with
  | some m, some b => if m = n then some ⟨b, t⟩ else none
  | _, _ => none

/-- What a computing word writes: per lane its V registers; with U once, in S registers, as its lowest executing lane
computes it (R336). -/
def Alu.writes (w : Alu) (x : Strand) (e : LaneSet) (fn : List Nat → Bool → Res) : Writes :=
  if w.u then
    match lowest e with
    | none => {}
    | some i =>
      let r := w.result x fn i
      { s := w.dstReg r.d (w.taint x i),
        p := fun _ => w.dstPred r.p (w.taint x i), fpf := r.fpf, slf := r.slf }
  else
    { v := fun i => w.dstReg (w.result x fn i).d (w.taint x i),
      p := fun i => w.dstPred (w.result x fn i).p (w.taint x i),
      fpf := (lanesOf e).foldl (fun a i => a ||| (w.result x fn i).fpf) 0#5,
      slf := (lanesOf e).foldl (fun a i => a ||| (w.result x fn i).slf) 0#4 }

/-- No executing lane meets a cause: of the registers named, of the operation, or of an exception that is enabled
(R35, R85, R101). -/
structure AluOk (s : State) (F : Focus) (x : Strand) (w : Alu) (fn : List Nat → Bool → Res) (e : LaneSet) : Prop where
  named : NamedOk s F x w.runs w.named e
  none : ∀ i, e.getLsbD i = true → (w.result x fn i).causes = []
  quiet : ∀ i, e.getLsbD i = true → trapCauses x.fpe (w.result x fn i).fpf (w.result x fn i).slf = []

/-- `exec` runs instruction `i` as a computing word: in every state in which no executing lane meets a cause it
answers the state that the word's results give, and changes nothing else. -/
def RunsAlu (i : Instr) (w : Alu) (fn : List Nat → Bool → Res) : Prop :=
  ∀ s F x, Issues s F x → w.info.la = 0 → AluOk s F x w fn (execLanes x F.lanes w.info.pred) →
    ∃ t, exec i s = .next t ∧
      Ran s t F x w.info (execLanes x F.lanes w.info.pred) w.dests
        (w.writes x (execLanes x F.lanes w.info.pred) fn)

/-! ### Pair words, branches, accesses -/

/-- What one half of a pair word leaves in register `n` of lane `i`: its result where the half executes, poison of its
predicate otherwise (R87, R341 to R344). -/
def halfAfter (h : HalfF) (x : Strand) (m : LaneSet) (i n : Nat) : Option Reg :=
  let p := Machine.halfPred h
  let t := (x.lane i).predTaint p
  if n ≠ h.d.toNat then none
  else if (execLanes x m p).getLsbD i then
    some ⟨BitVec.ofNat 32 ((halfAlu h).result x (halfFn h) i).d, ((halfAlu h).taint x i).join t⟩
  else if t = .clean then none
  else some ⟨((x.lane i).reg n).val, ((x.lane i).reg n).taint.join t⟩

/-- After a word that moves program counters: each lane of `e` stands at its target with its return stack, the other
lanes of the issuing set at the next word, and every register, flag and fragment is as it was. -/
def Went (s t : State) (F : Focus) (x : Strand) (e : LaneSet) (pc : Nat → Word32) (stack : Nat → List Word32) : Prop :=
  ∃ y, t = s.withStrand F.unit y ∧
    (∀ i, i < 32 → F.lanes.getLsbD i = true → y.lane i = { x.lane i with
      lpc := if e.getLsbD i then pc i else (x.lane i).lpc + 1#32,
      stack := if e.getLsbD i then stack i else (x.lane i).stack }) ∧
    (∀ i, i < 32 → F.lanes.getLsbD i = false → y.lane i = { x.lane i with ls := (y.lane i).ls }) ∧
    y = { x with lanes := y.lanes, ops := (x.spend 1).ops, count := bump x.count, streak := y.streak,
                 nextMode := y.nextMode, group := y.group }

/-- No predicate of the issuing set is poisoned or not yet verified (R261). -/
def PredsClean (F : Focus) (x : Strand) (p : Pred) : Prop :=
  ∀ i, F.lanes.getLsbD i = true → (x.lane i).predTaint p = .clean

/-- What a branch needs: a clean predicate in every lane of the issuing set; and in a bound heat that every group's lanes
but the exited ones issue it, and take it, to one target (R81, R261). -/
def BranchOk (F : Focus) (x : Strand) (p : Pred) (e : LaneSet) (pc : Nat → Word32) : Prop :=
  F.handler = none ∧ PredsClean F x p ∧
  (x.g = 0#3 ∨ ((∀ i, F.lanes.getLsbD i = true → e.getLsbD i = true) ∧
    (∀ i j, F.lanes.getLsbD i = true → F.lanes.getLsbD j = true → pc i = pc j) ∧
    ∀ i j, F.lanes.getLsbD i = true → i / groupSize x = j / groupSize x → (x.lane j).ls ≠ .exited →
      F.lanes.getLsbD j = true))

/-- What a memory word needs in every executing lane: its access, planned by `plan`, meets no cause and need not wait, and
`loc` is where it goes; its address register is neither poisoned nor unverified (R261). -/
def AccessOk (e : LaneSet) (plan : Nat → Plan) (taint : Nat → Taint) (loc : Nat → Loc) : Prop :=
  ∀ i, e.getLsbD i = true → (∃ v d, plan i = { fva := v, dev := d, loc := some (loc i) }) ∧ taint i = .clean

/-- The rest of the machine after a memory word: the unit aside, only what an access itself touches may differ (the write
records, tags and bytes of memory, the relay's scratch with its pages' recency, and the slices a field drew on). -/
def SameElse (s t : State) : Prop :=
  t.dev = s.dev ∧ t.clusters = s.clusters ∧ t.cores = s.cores ∧ t.slices = s.slices ∧ t.frames = s.frames ∧
    t.port0 = s.port0 ∧ t.port1 = s.port1 ∧ t.ctxs = s.ctxs ∧ t.queues = s.queues ∧ t.meets = s.meets ∧
    t.wear = s.wear ∧ t.agenda = s.agenda

/-- The unit after a memory word: its flags, S, C and K registers, and every lane's predicates and return stack are as
they were, LPC is past the word in the lanes of the issuing set. -/
def UnitKept (F : Focus) (x y : Strand) (size : Nat) : Prop :=
  y.s = x.s ∧ y.c = x.c ∧ y.k = x.k ∧ y.fpf = x.fpf ∧ y.slf = x.slf ∧ y.fpe = x.fpe ∧ y.g = x.g ∧
    (F.handler = none → y.frags = x.frags) ∧
    (∀ i n, i < 32 → ((y.lane i).pred n) = ((x.lane i).pred n)) ∧ (∀ i, i < 32 → (y.lane i).stack = (x.lane i).stack) ∧
    ∀ i, i < 32 → F.lanes.getLsbD i = true →
      (y.lane i).lpc = (x.lane i).lpc + (if F.handler.isSome then 0#32 else BitVec.ofNat 32 size)

/-- The lanes of an atomic in ascending order: each reads, and writes what its operation gives (R351, R353). -/
def atomFold (f : AtmF) (u : UnitRef) (loc : Nat → Loc) (b : Nat → Nat) : List Nat → State → State × AMap Nat
  | [], s => (s, [])
  | i :: is, s =>
    let n := sizeBytes f.size
    let w := 8 * n
    let old := s.readLoc u (loc i) n
    let s1 := match atomWrite f.aop.toNat w old (b i % 2 ^ w) (b i / 2 ^ w) with
      | some v => s.writeLoc u (loc i) n v
      | none => s
    let rest := atomFold f u loc b is s1
    (rest.1, (i, old) :: rest.2)

/-! ### Words that hold or park lanes -/

/-- The unit `y` after a word that leaves lane i of the issuing set as `g i` gives it; the other lanes, and the unit's C
and K registers, flags and fragments, are as they were. -/
def LanesAre (F : Focus) (x y : Strand) (g : Nat → Lane → Lane) : Prop :=
  (∀ i, i < 32 → F.lanes.getLsbD i = true → y.lane i = g i (x.lane i)) ∧
  (∀ i, i < 32 → F.lanes.getLsbD i = false → y.lane i = { x.lane i with ls := (y.lane i).ls }) ∧
  y.c = x.c ∧ y.k = x.k ∧ y.fpf = x.fpf ∧ y.slf = x.slf ∧ y.fpe = x.fpe ∧ y.g = x.g ∧ y.frags = x.frags

/-- A lane held at its word (R57). -/
def Lane.heldAt (l : Lane) (h : Hold) : Lane := { l with held := some h }

/-- A lane past a one-word instruction. -/
def Lane.past (l : Lane) : Lane := { l with lpc := l.lpc + 1#32 }

/-- The lanes of `e` are parked together in entry `fid`, each at its word under its own cause; the fragment's cause and
how far it has got (R67, R69, R71). -/
def Parked (t : State) (u : UnitRef) (x : Strand) (e : LaneSet) (fid cause : Nat) (phase : FragPhase) : Prop :=
  ∃ y fr, t.strand u = some y ∧ find y.frags fid = some fr ∧ fr.phase = phase ∧ fr.replay = false ∧ fr.bound = false ∧
    fr.fcause = BitVec.ofNat 7 cause ∧
    ∀ i, i < 32 → e.getLsbD i = true → y.lane i = (x.lane i).park fid cause 0

/-- The handler of fragment `fid` has ended: what it left outstanding has completed, the entry is freed, and every lane of
the fragment runs again at its word, or past it, or has exited; deferred lanes outside the issuing set run again; then what
awaited only these lanes completes, and the pacer's exit, or the matrix failure its fragment reported, has its effect (R66,
R75, R77, R195, R390, R392). -/
def Returned (s t : State) (F : Focus) (x : Strand) (fid : Nat) (how : FragEnd) : Prop :=
  ∃ (x1 y : Strand), x1 = ({ (x.landHandler F.lanes).spend 1 with count := bump x.count } : Strand).undefer F.lanes ∧
    y = { x1 with lanes := y.lanes, frags := del x.frags fid } ∧
    (∀ i, i < 32 → y.lane i =
      if (x.lane i).frag = some fid then
        { x1.lane i with
          frag := none, own := 0#7, fva := 0#57, ls := if how = .kill then .exited else .running,
          lpc := (x.lane i).lpc + if how = .skip then BitVec.ofNat 32 (s.wordSize F.unit (x.lane i).lpc) else 0#32 }
      else x1.lane i) ∧
    t = match F.unit with
      | .pacer r =>
        let s1 := s.setStrand F.unit y
        let s2 := if s.mqFragment F.unit then s1.modRelay r fun rl => rl.endMqFailure how else s1
        if how = .kill then s2.pacerExit r else s2
      | _ => (s.setStrand F.unit y).settleBars F.unit

/-! ### Host commands -/

/-- Operation `op` is submitted on port `p` and not yet performed (R295). -/
def Submitted (s : State) (p : Port) (op : Nat) : Prop :=
  (s.port p).done = false ∧ (s.port p).performed = false ∧ (s.port p).op = op

/-- The state after a host command has ended with a status (R295). -/
def State.answered (s : State) (p : Port) (status : Nat) : State :=
  s.modPort p fun ps => { ps with performed := true, status := BitVec.ofNat 8 status }

/-- The command passes what every command must pass: its fields are clean, the machine has started, the interface is not
in ERROR and the context it names is not the other port's (R295, R296). -/
def CommandOk (s : State) (p : Port) (op : Nat) (fs : List (List (Nat × Nat))) (namesCtx : Bool) : Prop :=
  Submitted s p op ∧ (s.port p).iface ≠ .error ∧ s.dev.startState = 3 ∧ (s.port p).cmdClean fs = true ∧
    (namesCtx && s.foreign p (s.port p).cmdCtx) = false

/-! ### Placement -/

/-- Of the clusters that a context's map names, that are eligible and hold the work, `c` has the highest score and, among
equals, the lowest number; `a` seats the squads there (R234, R235). -/
def State.Chooses (s : State) (f : Field) (squads : List (Nat × List Nat)) (r : Option Nat) (c : Nat)
    (a : List (Nat × Nat × List Nat)) : Prop :=
  let fits (d : Nat) : Prop := d < 104 ∧ (s.mapped f d).isSome = true ∧ s.eligible d f r = true
  fits c ∧ s.fitOn c f squads r = some a ∧
    ∀ d, fits d → (s.fitOn d f squads r).isSome = true → d ≠ c →
      s.score d f r < s.score c f r ∨ (s.score d f r = s.score c f r ∧ c < d)

end Sys2Proof.Machine
end

