-- ==== Sys2Proof/Certificates/Slice0/Obligations.lean ====
section
/-! DEFINITION. What is claimed of the machine, rule by rule of the spec: for every instruction where it completes and
what it leaves, and the promises of the whole machine. -/

open Sys2Proof Sys2Proof.Machine


/-! ### The machine's step, decoding, reset -/

/-- A step runs what stands ready: where the next turn is an event, `step` is `exec` of it, or it leaves the turn to a FACQ
of the same cycle that comes before an engine (R380); where the turn is a unit's, and after what stands ready in it has
completed (State.settleUnit) the unit is ready with a decoded instruction that gives way to none of the same cycle, `step`
is `exec` of that instruction with the focus naming the issuing lanes, or, where the word stands in the window of a CWAIT or
MWAIT with something to wait for, its issue in that window (R86, State.issueIn, which executes it on the unit as that window
leaves it); a core issues at most four words in a cycle; in every case the turn then ends. The agenda of turns is the
model's own (entry 1 of the log), as are where the squads' turn starts (entry 44) and how window words commit (entry 82). -/
def Obligations.StepRunsDecodedInstruction : Prop :=
  (∀ s i rest s1, s.agenda = .event i :: rest → isEvent i = true → s1 = ({ s with agenda := rest } : State) →
    step s = if s1.engineWaits i then .next s1.endTurn else finishTurn (exec i s1)) ∧
  (∀ s k rest s1 F i n x, ∀ row ∈ [(Turn.pacer k, UnitRef.pacer k), (.warm k, .warm k)], s.agenda = row.1 :: rest →
    s1 = ({ s with agenda := rest } : State).settleUnit row.2 → s1.ready row.2 = some (F, .instr i n, x) →
    s1.givesWay row.2 (F, .instr i n, x) = false →
    step s = finishTurn (exec i { s1.setStrand F.unit x with focus := some F })) ∧
  (∀ s k rest s1 F i n x, ∀ row ∈ [(Turn.pacer k, UnitRef.pacer k), (.warm k, .warm k)], s.agenda = row.1 :: rest →
    s1 = ({ s with agenda := rest } : State).settleUnit row.2 → s1.ready row.2 = some (F, .later i n, x) →
    s1.givesWay row.2 (F, .later i n, x) = false →
    step s = .next ({ s1.issueIn F x i (wordPlaces i) with focus := none } : State).endTurn) ∧
  (∀ s p rest s1 h F i n x, s.agenda = .core p :: rest →
    s1 = (({ s with agenda := rest } : State).heatsOn p).foldl (fun s h => s.settleUnit h.unit) { s with agenda := rest } →
    (s1.core p).chosen.length < 4 →
    bestHeat (s1.core p).rr ((s1.heatsOn p).filter fun h =>
      !(s1.core p).chosen.contains h.slot && ((s1.ready h.unit).isSome && s1.goes h.unit)) = some h →
    s1.ready h.unit = some (F, .instr i n, x) →
    step s = finishTurn (exec i
      { (s1.setCore p { s1.core p with rr := (h.squadSlot + 1) % 64, chosen := (s1.core p).chosen ++ [h.slot]
          }).setStrand F.unit x with focus := some F })) ∧
  (∀ s p rest s1 h F i n x, s.agenda = .core p :: rest →
    s1 = (({ s with agenda := rest } : State).heatsOn p).foldl (fun s h => s.settleUnit h.unit) { s with agenda := rest } →
    (s1.core p).chosen.length < 4 →
    bestHeat (s1.core p).rr ((s1.heatsOn p).filter fun h =>
      !(s1.core p).chosen.contains h.slot && ((s1.ready h.unit).isSome && s1.goes h.unit)) = some h →
    s1.ready h.unit = some (F, .later i n, x) →
    step s = .next ({ (s1.setCore p { s1.core p with
        rr := (h.squadSlot + 1) % 64, chosen := (s1.core p).chosen ++ [h.slot] }).issueIn F x i (wordPlaces i) with
        focus := none } : State).endTurn) ∧
  (∀ s p rest s1, s.agenda = .core p :: rest →
    s1 = (({ s with agenda := rest } : State).heatsOn p).foldl (fun s h => s.settleUnit h.unit) { s with agenda := rest } →
    4 ≤ (s1.core p).chosen.length → step s = .next s1.endTurn) ∧
  (∀ s, s.agenda = [] → step s = .next { s with focus := none, tick := s.tick + 1 })

/-- What is fetched at a program counter is what the decoder reads there: the word at the code address, with its second
word where the code object has one, outside the bounds of R327, where the page is not still being zeroed (R154); at an odd
word address, where neither the word nor the one before it is of the extended kind (R327). -/
def Obligations.FetchDecodesTheWord : Prop :=
  ∀ (s : State) (u : UnitRef) (f : Field) (pc pa : Nat) (e : TlbEntry) (i : Instr) (n : Nat),
    s.fieldOf u = some f → s.fetchBound u f pc = false → s.codeAddr f pc = .hit pa e → s.beingZeroed pa = false →
    (pc % 2 = 0 ∨ (s.readMem pa 8 / 2 ^ 62 ≠ 2 ∧ (s.codeWord f (pc - 1)).toNat / 2 ^ 62 ≠ 2)) →
    decodeWords (BitVec.ofNat 64 (s.readMem pa 8)) (if s.hasSecond u f pc then some (s.codeWord f (pc + 1)) else none)
      = .instr i n →
    s.fetch u pc = .instr i n

/-- Words written out from the spec's encodings decode to the instructions they stand for. -/
def Obligations.WorkedWordsDecode : Prop :=
  decodeTableWord 64 0x00700080A0C00800 =
    some (.iadd ⟨⟨12#4, false⟩, 0#4, 4#8, 5#8, 6#8, 0#8, 2#3, .rne, false, false, false, false, false, 0#3⟩) ∧
  decodeTableWord 64 0x41E080A823C20240 =
    some (.pairWord ⟨0x01#6, 7#3, 4#8, 5#8, 0x10#6⟩ ⟨0x11#6, 7#3, 8#8, 9#8, 0#6⟩) ∧
  decodeTableWord 64 0x2BB0000000000000 = some (.fretRetry ⟨⟨12#4, false⟩⟩) ∧
  decodeTableWord 64 0x3430008500000008 =
    some (.srd ⟨⟨12#4, false⟩, 0#4, 4#8, 0x28#8, 0#8, 0#8, 0#3, .rne, false, false, false, false, true, 0#3⟩) ∧
  decodeTableWord 64 0x2B30000040000003 = some (.fork ⟨⟨12#4, false⟩, 0#4, 0#8, 2#8, 3#29⟩)

/-- Encoding then decoding gives back every well-formed program instruction, with every operand; and an instruction that
decoding gives is well-formed and has just the words it was read from. -/
def Obligations.DecodeInvertsEncode : Prop :=
  (∀ i : Instr, WellFormed i = true →
    (∀ w, encode i = [w] → ∀ next, decodeWords w next = .instr i 1) ∧
    (∀ w0 w1, encode i = [w0, w1] → decodeWords w0 (some w1) = .instr i 2)) ∧
  (∀ (w : Word64) (next : Option Word64) (i : Instr) (n : Nat), decodeWords w next = .instr i n →
    WellFormed i = true ∧ encode i = (w :: next.toList).take n ∧ (n = 1 ∨ n = 2))

/-- Reset leaves physical memory in canonical form. -/
def Obligations.ResetMemoryCanonical : Prop := State.reset.Inv

/-- No step, of whatever instruction or event, takes physical memory out of canonical form. -/
def Obligations.StepKeepsMemoryCanonical : Prop := ∀ s t : State, s.Inv → step s = .next t → t.Inv

/-! ### Computing words: results and completion. `RunsAlu` (Safety.lean) says that `exec` answers a next state wherever
no executing lane meets a cause, and what that state is; the value is the second argument's. -/

/-- Integer arithmetic in register form: the exact result of the operands as values of TYPE, reduced modulo 2^width or
clamped with SAT, placed under R93 (R94, R396, R401). Integer arithmetic with an immediate, per lane and uniform: 32
bits, wrapping, the immediate sign-extended (R336, R396, R401). -/
def Obligations.IntegerArithmetic : Prop :=
  (∀ f : RegF,
     RunsAlu (.iadd f) (regAlu shAdd anyUnit f) (fun l _ =>
       { d := place f.ty (narrow f.ty f.sat (intVal f.ty (arg l 0) + intVal f.ty (arg l 1))) }) ∧
     RunsAlu (.isub f) (regAlu shAdd anyUnit f) (fun l _ =>
       { d := place f.ty (narrow f.ty f.sat (intVal f.ty (arg l 0) - intVal f.ty (arg l 1))) }) ∧
     RunsAlu (.imul f) (regAlu shAdd anyUnit f) (fun l _ =>
       { d := place f.ty (narrow f.ty f.sat (intVal f.ty (arg l 0) * intVal f.ty (arg l 1))) }) ∧
     RunsAlu (.imad f) (regAlu shMad anyUnit f) (fun l _ =>
       { d := place f.ty (narrow f.ty f.sat
           (intVal f.ty (arg l 0) * intVal f.ty (arg l 1) + intVal f.ty (arg l 2))) }) ∧
     RunsAlu (.imulhi f) (regAlu shMulhi anyUnit f) (fun l _ =>
       { d := place f.ty (narrow f.ty f.sat
           (intVal f.ty (arg l 0) * intVal f.ty (arg l 1) / ((2 ^ tyW f.ty : Nat) : Int))) }) ∧
     RunsAlu (.iabs f) (regAlu shAbs anyUnit f) (fun l _ =>
       { d := place f.ty (narrow f.ty f.sat ((intVal f.ty (arg l 0)).natAbs : Int)) }) ∧
     RunsAlu (.imin f) (regAlu shMinMax anyUnit f) (fun l _ =>
       { d := place f.ty (narrow f.ty f.sat (min (intVal f.ty (arg l 0)) (intVal f.ty (arg l 1)))) }) ∧
     RunsAlu (.imax f) (regAlu shMinMax anyUnit f) (fun l _ =>
       { d := place f.ty (narrow f.ty f.sat (max (intVal f.ty (arg l 0)) (intVal f.ty (arg l 1)))) })) ∧
  (∀ f : ImmF, ∀ row ∈ ([(Instr.iaddImm f, false, (· + ·)), (.iaddImmUniform f, true, (· + ·)),
       (.imulImm f, false, (· * ·)), (.imulImmUniform f, true, (· * ·)), (.iminImm f, false, min),
       (.iminImmUniform f, true, min), (.imaxImm f, false, max), (.imaxImmUniform f, true, max)] :
       List (Instr × Bool × (Int → Int → Int))),
     RunsAlu row.1 (immAlu row.2.1 true f) (fun l _ =>
       { d := wrap 32 (row.2.2 (signed 32 (arg l 0)) (f.imm.toInt)) }))

/-- IADDC adds, or with SUB adds the complement of B, and the carry in: the carry predicate C, or SUB's value with NCI;
the carry out goes to C (R397). The integer compares write their predicate by the condition of CC: 0 to 5 on the values
of TYPE, 6 to 9 on the bits as unsigned (R337, R398). The dot products add to C the four byte products, or the eight
4-bit products, of A and B, each signed or unsigned by OPX (R399, R431). -/
def Obligations.CarriesComparesDots : Prop :=
  (∀ f : RegF, RunsAlu (.iaddc f)
     { regAlu shAddc anyUnit f with
       psrc := if f.opx.getLsbD 1 then none else some f.c.toNat, pdst := some f.c.toNat }
     (fun l p =>
       let w := tyW f.ty
       let y := if f.opx.getLsbD 0 then 2 ^ w - 1 - arg l 1 % 2 ^ w else arg l 1 % 2 ^ w
       let cin := if f.opx.getLsbD 1 then f.opx.getLsbD 0 else p
       { d := (arg l 0 % 2 ^ w + y + boolBit cin) % 2 ^ w, p := some (bit (arg l 0 % 2 ^ w + y + boolBit cin) w) })) ∧
  ((∀ f : CmpF, RunsAlu (.icmp f) (cmpAlu shIcmp anyUnit f) (fun l _ =>
     { p := some (intCond f.cc.toNat (intVal f.ty (arg l 0)) (intVal f.ty (arg l 1)) (arg l 0) (arg l 1)) })) ∧
   (∀ f : CmpiF, ∀ row ∈ [(Instr.icmpImm f, false), (.icmpImmUniform f, true)],
     RunsAlu row.1 (cmpiAlu row.2 f) (fun l _ =>
       { p := some (intCond f.cc.toNat (signed 32 (arg l 0)) f.imm.toInt (arg l 0) (imm29 f.imm)) }))) ∧
  (∀ f : RegF,
     RunsAlu (.idot4 f) (regAlu shDot anyUnit f) (fun l _ =>
       intRes 2#3 f.sat (signed 32 (arg l 2) + dot 8 4 (f.opx.getLsbD 0) (f.opx.getLsbD 1) (arg l 0) (arg l 1))) ∧
     RunsAlu (.qdot4 f) (regAlu shDot anyUnit f) (fun l _ =>
       intRes 2#3 f.sat (signed 32 (arg l 2) + dot 4 8 (f.opx.getLsbD 0) (f.opx.getLsbD 1) (arg l 0) (arg l 1))))

/-- The bitwise instructions and moves, in register and immediate form (R349, R423, R424). -/
def Obligations.BitwiseResults : Prop :=
  (∀ f : RegF,
    RunsAlu (.and f) (regAlu shLogic anyUnit f) (fun l _ => { d := arg l 0 &&& arg l 1 }) ∧
    RunsAlu (.or f) (regAlu shLogic anyUnit f) (fun l _ => { d := arg l 0 ||| arg l 1 }) ∧
    RunsAlu (.xor f) (regAlu shLogic anyUnit f) (fun l _ => { d := arg l 0 ^^^ arg l 1 }) ∧
    RunsAlu (.not f) (regAlu shNot anyUnit f) (fun l _ =>
      { d := 2 ^ tyW f.ty - 1 - arg l 0 % 2 ^ tyW f.ty }) ∧
    RunsAlu (.mov f) (regAlu shNot anyUnit f) (fun l _ => { d := arg l 0 }) ∧
    RunsAlu (.sel f) { regAlu shSel anyUnit f with psrc := some f.c.toNat }
      (fun l p => { d := if p then arg l 0 else arg l 1 })) ∧
  (∀ f : ImmF, ∀ row ∈ ([(Instr.andImm f, false, (· &&& ·)), (.andImmUniform f, true, (· &&& ·)),
      (.orImm f, false, (· ||| ·)), (.orImmUniform f, true, (· ||| ·)), (.xorImm f, false, (· ^^^ ·)),
      (.xorImmUniform f, true, (· ^^^ ·))] : List (Instr × Bool × (Nat → Nat → Nat))),
    RunsAlu row.1 (immAlu row.2.1 true f) (fun l _ => { d := row.2.2 (arg l 0) (f.imm.signExtend 32).toNat })) ∧
  (∀ f : ImmF, ∀ row ∈ [(Instr.movi f, false), (.moviUniform f, true)],
    RunsAlu row.1 (immAlu row.2 false f) (fun _ _ => { d := (f.imm.signExtend 32).toNat })) ∧
  (∀ f : MovixF, RunsAlu (.moviExt f)
    { info := ⟨f.pred, 0, 2, 1⟩, runs := anyUnit, u := f.u, dst := some (f.d.toNat, Wd.count .byTy .int f.ty),
      srcs := [], psrc := none, pdst := none } (fun _ _ => { d := f.val.toNat }))

/-- The shifts and the rotate, by B[7:0] or by an immediate: a shift of the width or more leaves 0, an arithmetic one
the sign, and a rotate turns modulo the width (R336, R441). Bit-field extract and insert, bit reverse, leading zeros and
population count (R359, R364). -/
def Obligations.ShiftsAndBitFields : Prop :=
  ((∀ f : RegF, ∀ row ∈ ([(Instr.shl f, fun w x n => if w ≤ n then 0 else x * 2 ^ n % 2 ^ w),
       (.shr f, fun w x n => if w ≤ n then 0 else x / 2 ^ n),
       (.sar f, fun w x n => wrap w (signed w x / ((2 ^ min n w : Nat) : Int))),
       (.rotl f, fun w x n => (x * 2 ^ (n % w) + x / 2 ^ (w - n % w)) % 2 ^ w)] :
       List (Instr × (Nat → Nat → Nat → Nat))),
     RunsAlu row.1 (regAlu shShift anyUnit f) (fun l _ =>
       { d := place f.ty (intVal f.ty (row.2 (tyW f.ty) (arg l 0 % 2 ^ tyW f.ty) (arg l 1 % 256))) })) ∧
   (∀ f : ImmF, ∀ row ∈ ([(Instr.shlImm f, false, fun x n => x * 2 ^ n % 2 ^ 32),
       (.shlImmUniform f, true, fun x n => x * 2 ^ n % 2 ^ 32), (.shrImm f, false, fun x n => x / 2 ^ n),
       (.shrImmUniform f, true, fun x n => x / 2 ^ n),
       (.sarImm f, false, fun x n => wrap 32 (signed 32 x / ((2 ^ n : Nat) : Int))),
       (.sarImmUniform f, true, fun x n => wrap 32 (signed 32 x / ((2 ^ n : Nat) : Int))),
       (.rotlImm f, false, fun x n => (x * 2 ^ n + x / 2 ^ (32 - n)) % 2 ^ 32),
       (.rotlImmUniform f, true, fun x n => (x * 2 ^ n + x / 2 ^ (32 - n)) % 2 ^ 32)] :
       List (Instr × Bool × (Nat → Nat → Nat))),
     f.imm.toNat < 32 → RunsAlu row.1 (immAlu row.2.1 true f) (fun l _ => { d := row.2.2 (arg l 0) f.imm.toNat }))) ∧
  (∀ f : RegF,
     RunsAlu (.bfx f) (regAlu shBf anyUnit f) (fun l _ =>
       let p := arg l 1 % 256
       let w := min (arg l 2 % 256) (32 - p)
       { d := if 31 < p ∨ arg l 2 % 256 = 0 then 0
              else if f.ty = 2#3 then wrap 32 (signed w (arg l 0 / 2 ^ p)) else arg l 0 / 2 ^ p % 2 ^ w }) ∧
     RunsAlu (.bfi f) { regAlu shBf anyUnit f with srcs := (regAlu shBf anyUnit f).srcs ++ [(f.u, f.d.toNat, 1)] }
       (fun l _ =>
       let p := arg l 1 % 256
       let w := min (arg l 2 % 256) (32 - p)
       { d := if 31 < p ∨ arg l 2 % 256 = 0 then arg l 3
              else arg l 3 % 2 ^ p + 2 ^ p * (arg l 0 % 2 ^ w) + 2 ^ (p + w) * (arg l 3 / 2 ^ (p + w)) }) ∧
     RunsAlu (.brev f) (regAlu shBrev anyUnit f) (fun l _ => { d := brevVal (tyW f.ty) (arg l 0) }) ∧
     RunsAlu (.clz f) (regAlu shClz anyUnit f) (fun l _ => { d := clzVal (tyW f.ty) (arg l 0) }) ∧
     RunsAlu (.popc f) (regAlu shClz anyUnit f) (fun l _ => { d := popcVal (tyW f.ty) (arg l 0) }))

/-- The floating instructions: the exact result of the operands as values of the format of TYPE, rounded once by the
word's mode, with its exceptions (R98, R99, R110, R375, R382, R386, R459). FCMP: ordered conditions fail on a NaN, NE
and UNORD hold, and only a signalling NaN raises IV (R337, R384). That FEXP2 and FLOG2 round the value within the rational
bounds of fExp2 and fLog2 is the model's choice (entry 58 of the log). -/
def Obligations.FloatArithmetic : Prop :=
  (∀ f : RegF,
     (∀ row ∈ ([(Instr.fadd f, shFadd, fun F l => fAdd F f.rnd f.sat (farg l 0) (farg l 1)),
         (.fsub f, shFadd, fun F l => fAdd F f.rnd f.sat (farg l 0) (farg l 1).negate),
         (.fmul f, shFadd, fun F l => fMul F f.rnd f.sat (farg l 0) (farg l 1)),
         (.ffma f, shFfma, fun F l =>
           fFma F f.rnd f.sat (f.opx.getLsbD 0) (farg l 0) (farg l 1) (negIf (f.opx.getLsbD 1) (farg l 2))),
         (.dadd f, shDadd, fun F l => fAdd F f.rnd f.sat (farg l 0) (negIf (f.opx.getLsbD 0) (farg l 1))),
         (.dmul f, shDmul, fun F l => fMul F f.rnd f.sat (farg l 0) (farg l 1)),
         (.dfma f, shDfma, fun F l =>
           fFma F f.rnd f.sat (f.opx.getLsbD 0) (farg l 0) (farg l 1) (negIf (f.opx.getLsbD 1) (farg l 2))),
         (.fdiv f, shFdiv, fun F l => fDiv F f.rnd f.sat (farg l 0) (farg l 1)),
         (.fsqrt f, shFsqrt, fun F l => fSqrt F f.rnd f.sat (farg l 0)),
         (.frcp f, shFsfu, fun F l => fDiv F f.rnd f.sat (.fin false 1 0) (farg l 0)),
         (.frsq f, shFsfu, fun F l => fRsq F f.rnd f.sat (farg l 0)),
         (.fexp2 f, shFsfu, fun F l => fExp2 F f.rnd f.sat (farg l 0)),
         (.flog2 f, shFsfu, fun F l => fLog2 F f.rnd f.sat (farg l 0))] :
         List (Instr × Shape × (Fmt → List FVal → FRes))),
       RunsAlu row.1 (regAlu row.2.1 {} f) (fun l _ =>
         let r := row.2.2 (fmtOf f.ty.toNat) (l.map (fmtOf f.ty.toNat).val)
         { d := r.bits, fpf := r.fl })) ∧
     RunsAlu (.fmin f) (regAlu shFmin {} f) (fun l _ =>
       let r := fMinMax (fmtOf f.ty.toNat) false (arg l 0) (arg l 1)
       { d := r.bits, fpf := r.fl }) ∧
     RunsAlu (.fmax f) (regAlu shFmin {} f) (fun l _ =>
       let r := fMinMax (fmtOf f.ty.toNat) true (arg l 0) (arg l 1)
       { d := r.bits, fpf := r.fl }) ∧
     RunsAlu (.vfma2 f) (regAlu shVfma2 {} f) (fun l _ =>
       let F := fmtOf f.ty.toNat
       let half (h : Nat) : FRes :=
         let v (n : Nat) : FVal := F.val (arg l n / 2 ^ (16 * h) % 2 ^ 16)
         fFma F f.rnd f.sat (f.opx.getLsbD 0) (v 0) (v 1) (negIf (f.opx.getLsbD 1) (v 2))
       { d := (half 0).bits + 2 ^ 16 * (half 1).bits, fpf := (half 0).fl ||| (half 1).fl })) ∧
  (∀ f : CmpF, RunsAlu (.fcmp f) (cmpAlu shFcmp anyUnit f) (fun l _ =>
     let F := fmtOf f.ty.toNat
     let a := F.val (arg l 0)
     let b := F.val (arg l 1)
     { p := some (fCond f.cc.toNat (a.isNan || b.isNan) (fLess a b) (!fLess a b && !fLess b a)),
       fpf := if a.isSnan || b.isSnan then fIV else 0#5 }))

/-- CVT between scalar types: integer to integer narrows, integer and floating round once to the destination, floating
to integer rounds and saturates (R107, R108, R369, R370). CVT into an E2M1X block and out of one: with every lane of the
heat executing, lanes 0 to 3 receive eight element codes each, lane 4 the scale and the extra, the other lanes 0; and
out of a valid block lane i receives element i (R104 to R106, R371). What a writer's extra that is a NaN gives is the
model's choice (entry 73 of the log). -/
def Obligations.Conversions : Prop :=
  (∀ f : RegF, ¬(cvtDcl f = true ∧ f.ty = 6#3) → ¬(cvtScl f = true ∧ f.opx = 6#3) →
     RunsAlu (.cvt f) (cvtAlu f) (fun l _ =>
       let n := arg l 0
       if cvtDcl f then
         let D := fmtOf f.ty.toNat
         let r := if cvtScl f then cvtFF (fmtOf f.opx.toNat) D f.rnd f.sat n
           else D.finish f.rnd f.sat (intVal f.opx n < 0, (intVal f.opx n).natAbs, 0)
         { d := r.bits, fpf := r.fl }
       else if cvtScl f then
         let r := cvtFI (fmtOf f.opx.toNat) f.ty f.rnd n
         { d := place f.ty r.1, fpf := r.2 }
       else intRes f.ty f.sat (intVal f.opx n))) ∧
  ((∀ (s : State) (F : Focus) (x : Strand) (f : RegF), Issues s F x → f.la = 0#4 → cvtDcl f = true → f.ty = 6#3 →
     isPacer F.unit = false → F.lanes = allLanes → execLanes x F.lanes f.pred = allLanes →
     (x.sreg f.c.toNat).val.toNat < 256 →
     NamedOk s F x {} { cvtAlu f with srcs := (cvtAlu f).srcs ++ [(true, f.c.toNat, 1)] }.named allLanes →
     (let extra := (x.sreg f.c.toNat).val.toNat % 256
      let b := toBlock extra (laneIds.map fun i => (fmtOf f.opx.toNat).val (readOpd x i f.sa f.a.toNat 1).val)
      trapCauses x.fpe b.fl 0#4 = [] →
      ∃ t y, exec (.cvt f) s = .next t ∧ t = s.withStrand F.unit y ∧
        y.fpf = ((x.spend 1).addFlags allLanes b.fl 0#4).fpf ∧
        ∀ i, i < 32 → ((y.lane i).reg f.d.toNat).val = BitVec.ofNat 32 (blockLane b extra i))) ∧
   (∀ (s : State) (F : Focus) (x : Strand) (f : RegF), Issues s F x → f.la = 0#4 → cvtScl f = true → f.opx = 6#3 →
     ¬(cvtDcl f = true ∧ f.ty = 6#3) → isPacer F.unit = false → F.lanes = allLanes →
     execLanes x F.lanes f.pred = allLanes → NamedOk s F x {} (cvtAlu f).named allLanes →
     (let src (i : Nat) := (readOpd x i f.sa f.a.toNat 1).val
      let scale := src 4 % 256
      let extra := src 4 / 256 % 256
      let r (i : Nat) := (fmtOf f.ty.toNat).finish f.rnd false
        (blockVal scale extra (src (i / 8) / 2 ^ (4 * (i % 8)) % 16))
      blockInvalid scale extra = false → (∀ i, i < 32 → trapCauses x.fpe (r i).fl 0#4 = []) →
      ∃ t y, exec (.cvt f) s = .next t ∧ t = s.withStrand F.unit y ∧
        ∀ i, i < 32 → ((y.lane i).reg f.d.toNat).val = BitVec.ofNat 32 (r i).bits)))

/-- The symmetric-level instructions: sum, difference, product, reciprocal, compare and conversion (R109 to R121, R446). How
SLMUL's product is rounded is the model's choice (entry 75 of the log), and the rational bounds within which SLCVT and the
other values stand are too (entry 58). -/
def Obligations.LevelResults : Prop :=
  (∀ f : RegF,
    RunsAlu (.sladd f) (regAlu shSladd {} f) (fun l _ =>
      let r := sladd (slW f.ty) (f.opx.getLsbD 0) (arg l 0) (arg l 1)
      { d := r.code, slf := r.fl }) ∧
    RunsAlu (.slmul f) (regAlu shSlmul {} f) (fun l _ =>
      let r := slmul (slW f.ty) (arg l 0) (arg l 1)
      { d := r.code, slf := r.fl }) ∧
    RunsAlu (.slrcp f) (regAlu shSlrcp {} f) (fun l _ =>
      let r := slrcp (slW f.ty) (arg l 0)
      { d := r.code, slf := r.fl }) ∧
    RunsAlu (.slcvt f)
      { info := regInfo f, runs := {}, u := f.u,
        dst := some (f.d.toNat, if f.opx.getLsbD 0 && f.opx.getLsbD 1 then 2 else 1),
        srcs := [(f.u || f.sa, f.a.toNat, if !f.opx.getLsbD 0 && f.opx.getLsbD 1 then 2 else 1)], psrc := none,
        pdst := none }
      (fun l _ =>
        let F := if f.opx.getLsbD 1 then f64 else f32
        if f.opx.getLsbD 0 then
          let r := slToBin (slW f.ty) F f.rnd f.sat (arg l 0)
          { d := r.1.bits, fpf := r.1.fl, slf := r.2 }
        else
          let r := slOfBin (slW f.ty) (F.val (arg l 0))
          { d := r.code, slf := r.fl })) ∧
  (∀ f : CmpF, RunsAlu (.slcmp f) (cmpAlu shSlcmp anyUnit f) (fun l _ =>
    let w := slW f.ty
    let a := slRead w (arg l 0)
    let b := slRead w (arg l 1)
    let bad := slBad w [a, b]
    { p := some (fCond f.cc.toNat bad.isSome (slRank w a < slRank w b) (slRank w a = slRank w b)),
      slf := match bad with
        | some r => r.fl
        | none => 0#4 }))

/-- With a lookahead of n the results of a computing word wait: its lanes move past it at once, the instruction is
outstanding with n places left, and its registers hold the results when it lands (R83, R84). The model's own here: when it
lands (entry 11 of the log), and the values that FEXP2, FLOG2 and SLMUL round to (entries 58, 75). -/
def Obligations.LookaheadDefersResults : Prop :=
  ∀ f : RegF,
    let sfu (op : Fmt → List FVal → FRes) : List Nat → Bool → Res := fun l _ =>
      floatRes (op (fmtOf f.ty.toNat) (l.map (fmtOf f.ty.toNat).val))
    ∀ row ∈ ([(Instr.frcp f, regAlu shFsfu {} f, sfu fun F l => fDiv F f.rnd f.sat (.fin false 1 0) (farg l 0)),
      (.frsq f, regAlu shFsfu {} f, sfu fun F l => fRsq F f.rnd f.sat (farg l 0)),
      (.fexp2 f, regAlu shFsfu {} f, sfu fun F l => fExp2 F f.rnd f.sat (farg l 0)),
      (.flog2 f, regAlu shFsfu {} f, sfu fun F l => fLog2 F f.rnd f.sat (farg l 0)),
      (.fdiv f, regAlu shFdiv {} f, sfu fun F l => fDiv F f.rnd f.sat (farg l 0) (farg l 1)),
      (.fsqrt f, regAlu shFsqrt {} f, sfu fun F l => fSqrt F f.rnd f.sat (farg l 0)),
      (.sladd f, regAlu shSladd {} f, fun l _ => slRes (sladd (slW f.ty) (f.opx.getLsbD 0) (arg l 0) (arg l 1))),
      (.slmul f, regAlu shSlmul {} f, fun l _ => slRes (slmul (slW f.ty) (arg l 0) (arg l 1)))] :
      List (Instr × Alu × (List Nat → Bool → Res))),
    ∀ s F x, Issues s F x → f.la ≠ 0#4 →
      (let e := execLanes x F.lanes f.pred
       AluOk s F x row.2.1 row.2.2 e →
       ∃ t y op, exec row.1 s = .next t ∧ t = s.withStrand F.unit y ∧ y.ops = (x.spend 1).ops ++ [op] ∧
         op.kind = .plain ∧ op.left = f.la.toNat ∧ op.lanes = e ∧ y.fpf = x.fpf ∧ y.slf = x.slf ∧
         (∀ i n, i < 32 → ((y.lane i).reg n).val = ((x.lane i).reg n).val) ∧
         (∀ i, i < 32 → F.lanes.getLsbD i = true → (y.lane i).lpc =
           (x.lane i).lpc + (if F.handler.isSome then 0#32 else 1#32)) ∧
         (let w := row.2.1.writes x e row.2.2
          (y.land op).fpf = ((x.spend 1).addFlags e w.fpf w.slf).fpf ∧
          (y.land op).slf = ((x.spend 1).addFlags e w.fpf w.slf).slf) ∧
         (∀ n, ((y.land op).sreg n).val = (((row.2.1.writes x e row.2.2).s n).getD (x.sreg n)).val) ∧
         ∀ i n, i < 32 → (((y.land op).lane i).reg n).val =
           (if e.getLsbD i then (((row.2.1.writes x e row.2.2).v i n).getD ((x.lane i).reg n)).val
            else ((x.lane i).reg n).val))

/-! ### Pair words, words across lanes, chains -/

/-- A pair word: both halves read the registers as they stood, each writes its destination in the lanes its predicate
selects, and the word issues once (R87, R341, R344). What decode finds against either half counts in every lane in which
either predicate is true (R329). The model's own here: entry 13 of the log. -/
def Obligations.PairWords : Prop :=
  ∀ (s : State) (F : Focus) (x : Strand) (h0 h1 : HalfF), Issues s F x →
    (∀ i, F.lanes.getLsbD i = true → (halfLane h0 s F.unit x F.lanes i).causes = [] ∧
      (halfLane h1 s F.unit x F.lanes i).causes = []) →
    (execLanes x F.lanes (Machine.halfPred h0) ||| execLanes x F.lanes (Machine.halfPred h1) ≠ 0#32 →
      halfFinds h0 s F.unit = [] ∧ halfFinds h1 s F.unit = []) →
    ∃ t, exec (.pairWord h0 h1) s = .next t ∧
      Ran s t F x ⟨⟨12#4, false⟩, 0, 1, 2⟩ F.lanes ⟨[], [], []⟩
        { v := fun i n => (halfAfter h1 x F.lanes i n).or (halfAfter h0 x F.lanes i n),
          fpf := (lanesOf F.lanes).foldl (fun a i => a ||| ((halfLane h0 s F.unit x F.lanes i).fpf |||
            (halfLane h1 s F.unit x F.lanes i).fpf)) 0#5,
          slf := (lanesOf F.lanes).foldl (fun a i => a ||| ((halfLane h0 s F.unit x F.lanes i).slf |||
            (halfLane h1 s F.unit x F.lanes i).slf)) 0#4 }

/-- SHFL: each lane receives the value its source lane held before the word; the source is named by index, or counted
up, down or by exclusive or from the lane's own number, and out of range it is the lane itself (R443, R444). VOTE over
the executing lanes: BALLOT gives the mask of the lanes whose predicate is true, in a V register of each or once in an S
register; ANY, ALL and UNI give a predicate (R460, R461). REDUX gives every executing lane the reduction of the values
of the executing lanes (R437, R438). -/
def Obligations.AcrossLanes : Prop :=
  (∀ (s : State) (F : Focus) (x : Strand) (f : RegF), Issues s F x → f.la = 0#4 →
     (let e := execLanes x F.lanes f.pred
      let cnt := Wd.count .byTy .int f.ty
      let b (i : Nat) := readOpd x i f.sb f.b.toNat 1
      let j (i : Nat) := shflSource f.opx.toNat ((b i).val % 32) i
      let a (i : Nat) := readOpd x (j i) false f.a.toNat cnt
      NamedOk s F x heatOnly
        (if f.sb then ⟨span f.d.toNat cnt, [f.b.toNat], predNamed f.pred⟩
         else ⟨span f.d.toNat cnt ++ [f.b.toNat], [], predNamed f.pred⟩) e →
      beyondHeader (s.nv F.unit) (s.ns F.unit) ⟨span f.a.toNat cnt, [], []⟩ = false →
      (∀ i, e.getLsbD i = true → pendingIn x (j i) ⟨span f.a.toNat cnt, [], []⟩ = false) →
      ∃ t, exec (.shfl f) s = .next t ∧ Ran s t F x (regInfo f) e ⟨span f.d.toNat cnt, [], []⟩
        { v := fun i => regOf f.d.toNat cnt (a i).val ((a i).taint.join (b i).taint) })) ∧
  (∀ (s : State) (F : Focus) (x : Strand) (f : RegF), Issues s F x → f.la = 0#4 →
     (let e := execLanes x F.lanes f.pred
      let m := f.opx.toNat % 4
      let pin := if m = 3 ∨ f.a = 12#8 then [] else [f.a.toNat]
      let t := (lanesOf e).foldl (fun (t : Taint) i => t.join
        (if m = 3 then ((x.lane i).reg f.a.toNat).taint else voteTaint f (x.lane i))) .clean
      let mask := laneSet fun i => e.getLsbD i && voteIn f (x.lane i)
      (m = 0 → f.u = false → NamedOk s F x heatOnly ⟨[f.d.toNat], [], pin ++ predNamed f.pred⟩ e →
        ∃ t', exec (.vote f) s = .next t' ∧ Ran s t' F x (regInfo f) e ⟨[f.d.toNat], [], []⟩
          { v := fun _ n => if n = f.d.toNat then some ⟨mask, t⟩ else none }) ∧
      (m = 0 → f.u = true → e ≠ 0#32 → NamedOk s F x heatOnly ⟨[], [f.d.toNat], pin ++ predNamed f.pred⟩ e →
        ∃ t', exec (.vote f) s = .next t' ∧ Ran s t' F x (regInfo f) e ⟨[], [], [f.d.toNat]⟩
          { s := fun n => if n = f.d.toNat then some ⟨mask, t⟩ else none }) ∧
      (m ≠ 0 → NamedOk s F x heatOnly
          ⟨if m = 3 then [f.a.toNat] else [], [], f.d.toNat :: pin ++ predNamed f.pred⟩ e →
        ∃ t', exec (.vote f) s = .next t' ∧ Ran s t' F x (regInfo f) e ⟨[], [f.d.toNat], []⟩
          { p := fun _ n => if n = f.d.toNat then some ⟨voteBit f x e, t⟩ else none }))) ∧
  (∀ (s : State) (F : Focus) (x : Strand) (f : RegF), Issues s F x → f.la = 0#4 →
     (let e := execLanes x F.lanes f.pred
      let cnt := Wd.count .byTy .int f.ty
      let args := (lanesOf e).map fun i => readOpd x i f.sa f.a.toNat cnt
      NamedOk s F x heatOnly
        (if f.sa then ⟨span f.d.toNat cnt, span f.a.toNat cnt, predNamed f.pred⟩
         else ⟨span f.d.toNat cnt ++ span f.a.toNat cnt, [], predNamed f.pred⟩) e →
      ∃ t, exec (.redux f) s = .next t ∧ Ran s t F x (regInfo f) e ⟨span f.d.toNat cnt, [], []⟩
        { v := fun _ => regOf f.d.toNat cnt (reduce f (args.map fun a => a.val)) (argTaint args) }))

/-- A chain instruction works on integers of g limbs, one a lane, the lowest in the lowest lane of the group: each lane
receives its limb of the result, and the carry predicate of every lane the carry out; LCMP writes two predicates, LMAC
the high word in its top lane, and leaves that register of the other lanes as it was (R403 to R405). -/
def Obligations.ChainResults : Prop :=
  ∀ (f : ChnF), ∀ row ∈ ([(Instr.ladd f, { cin := f.opx }, laddFn), (.lsub f, { cin := f.opx }, lsubFn),
      (.lshl f, { scalarB := true }, lshlFn), (.lshr f, { scalarB := true }, lshrFn f.opx),
      (.lcmp f, { compare := true }, lcmpFn f.opx),
      (.lmac f, { scalarB := true, cin := f.opx, readsD := true, high := true }, lmacFn)] :
      List (Instr × ChainForm × ChainFn)),
    ∀ (s : State) (F : Focus) (x : Strand), Issues s F x → x.g ≠ 0#3 →
      (let e := execLanes x F.lanes f.pred
       let d := f.d.toNat
       let c := f.pc.toNat
       let gs := groupSize x
       let vdst := if row.2.1.compare then [] else if row.2.1.high then [d, d + 1] else [d]
       let pdst := if row.2.1.compare then [d, c] else [c]
       let a (i : Nat) := readOpd x i f.sa f.a.toNat 1
       let b (i : Nat) := readOpd x i f.sb f.b.toNat 1
       let g (i : Nat) := groupLanes x i
       let r (i : Nat) := row.2.2 (32 * gs) (limbs (fun j => (a j).val) (g i)) (limbs (fun j => (b j).val) (g i))
         (limbs (fun j => ((x.lane j).reg d).val.toNat) (g i)) (b ((g i).headD 0)).val
         (if row.2.1.cin && ((x.lane ((g i).headD 0)).pred c).val then 1 else 0)
       NamedOk s F x heatOnly
         ⟨vdst ++ ((if f.sa then [] else [f.a.toNat]) ++ (if f.sb then [] else [f.b.toNat])),
          (if f.sa then [f.a.toNat] else []) ++ (if f.sb then [f.b.toNat] else []), pdst ++ predNamed f.pred⟩ e →
       (∀ i, e.getLsbD i = true → ∀ j ∈ g i, e.getLsbD j = true) →
       (x.ovfe = false ∨ row.2.1.compare = true ∨ ∀ i, e.getLsbD i = true → (r i).k = false) →
       ∃ t y z, exec row.1 s = .next t ∧ t = s.withStrand F.unit y ∧ Landed x y f.la.toNat z ∧
         ∀ i, i < 32 → e.getLsbD i = true → (y.lane i).lpc = (x.lane i).lpc + (if F.handler.isSome then 0#32 else 1#32) ∧
           (row.2.1.compare = false →
             ((z.lane i).reg d).val = BitVec.ofNat 32 ((r i).r / 2 ^ (32 * (i % gs)) % 2 ^ 32) ∧
             ((z.lane i).pred c).val = (r i).k) ∧
           (row.2.1.high = true → ((z.lane i).reg (d + 1)).val =
             if i % gs + 1 = gs then BitVec.ofNat 32 (r i).h else ((x.lane i).reg (d + 1)).val) ∧
           (row.2.1.compare = true → ((z.lane i).pred c).val = (r i).k ∧ (d ≠ c → ((z.lane i).pred d).val = (r i).eq)) ∧
           (∀ n, n ∉ vdst → ((z.lane i).reg n).val = ((x.lane i).reg n).val) ∧
           (∀ n, n ∉ pdst → ((z.lane i).pred n).val = ((x.lane i).pred n).val))

/-- LBIND binds a whole heat in groups of 2, 4, 8, 16 or 32 lanes; LUNBIND, with no parked lane below it and every
non-exited lane in its issuing set, ends the binding (R62, R79, R80, R407, R414). -/
def Obligations.LaneBinding : Prop :=
  (∀ (s : State) (F : Focus) (x : Strand) (f : ImmF) (k : Nat), Issues s F x → F.handler = none →
    k ∈ [1, 2, 3, 4, 5] → f.imm.toNat = 2 ^ k → x.g = 0#3 → execLanes x F.lanes f.pred = 0xFFFFFFFF#32 →
    NamedOk s F x heatOnly ⟨[], [], predNamed f.pred⟩ 0xFFFFFFFF#32 →
    ∃ t, exec (.lbind f) s = .next t ∧
      Ran s t F { x with g := BitVec.ofNat 3 k } ⟨f.pred, 0, 1, 1⟩ 0xFFFFFFFF#32 ⟨[], [], []⟩ {}) ∧
  (∀ (s : State) (F : Focus) (x : Strand) (f : NilF), Issues s F x → F.handler = none →
    (let e := execLanes x F.lanes f.pred
     e ≠ 0#32 → x.parkedBelow (x.lane ((lowest e).getD 0)).lpc = false →
     (∀ i, i < 32 → (x.lane i).ls ≠ .exited → F.lanes.getLsbD i = true) →
     NamedOk s F x heatOnly ⟨[], [], predNamed f.pred⟩ e →
     ∃ t, exec (.lunbind f) s = .next t ∧ Ran s t F { x with g := 0#3 } ⟨f.pred, 0, 1, 1⟩ e ⟨[], [], []⟩ {}))

/-! ### Control flow -/

/-- BRA, BRX, CALL and RET set LPC in the lanes that take them: to the word's address plus the offset, to the register's
value, and to the return address; CALL pushes the next word's address, RET pops it (R362, R363, R439). The model's own
here: entry 13 of the log. -/
def Obligations.Branches : Prop :=
  (∀ (s : State) (F : Focus) (x : Strand) (f : JmpF), Issues s F x →
    (let e := execLanes x F.lanes f.pred
     let z (i : Nat) : Int := (x.lane i).lpc.toNat + f.off.toInt
     BranchOk F x f.pred e (fun i => BitVec.ofInt 32 (z i)) →
     (∀ i, e.getLsbD i = true → 0 ≤ z i ∧ z i < (s.codeW F.unit : Int)) →
     (NamedOk s F x anyUnit ⟨[], [], predNamed f.pred⟩ e →
       ∃ t, exec (.bra f) s = .next t ∧
         Went s t F x e (fun i => BitVec.ofInt 32 (z i)) (fun i => (x.lane i).stack)) ∧
     (NamedOk s F x {} ⟨[], [], predNamed f.pred⟩ e →
       (∀ i, e.getLsbD i = true → (x.lane i).stack.length < 16) →
       ∃ t, exec (.call f) s = .next t ∧
         Went s t F x e (fun i => BitVec.ofInt 32 (z i)) (fun i => ((x.lane i).lpc + 1#32) :: (x.lane i).stack)))) ∧
  (∀ (s : State) (F : Focus) (x : Strand) (f : RegF), Issues s F x → f.la = 0#4 →
    (let e := execLanes x F.lanes f.pred
     let a (i : Nat) := readOpd x i f.sa f.a.toNat 1
     BranchOk F x f.pred e (fun i => BitVec.ofNat 32 (a i).val) →
     (∀ i, e.getLsbD i = true → (a i).val < s.codeW F.unit ∧ (a i).taint = .clean) →
     NamedOk s F x {} (if f.sa then ⟨[], [f.a.toNat], predNamed f.pred⟩ else ⟨[f.a.toNat], [], predNamed f.pred⟩) e →
     ∃ t, exec (.brx f) s = .next t ∧
       Went s t F x e (fun i => BitVec.ofNat 32 (a i).val) (fun i => (x.lane i).stack))) ∧
  (∀ (s : State) (F : Focus) (x : Strand) (f : NilF), Issues s F x →
    (let e := execLanes x F.lanes f.pred
     BranchOk F x f.pred e (fun i => (x.lane i).stack.headD 0#32) →
     (∀ i, e.getLsbD i = true → (x.lane i).stack ≠ [] ∧ ((x.lane i).stack.headD 0#32).toNat < s.codeW F.unit) →
     NamedOk s F x {} ⟨[], [], predNamed f.pred⟩ e →
     ∃ t, exec (.ret f) s = .next t ∧
       Went s t F x e (fun i => (x.lane i).stack.headD 0#32) (fun i => (x.lane i).stack.tail)))

/-- NOP, PREF and FENCE move past the word and change no register, no memory and no flag; a FENCE with release order that
completes raises the unit's release count, and one with acquire order settles its race table; one that has an earlier access
to await, or stands in the window of a CWAIT or MWAIT, has the unit wait, and a unit that waits issues nothing (R388, R389,
R425, R429, R430). The model's own here: entries 15 and 82 of the log. -/
def Obligations.WordsWithoutResult : Prop :=
  (∀ (s : State) (F : Focus) (x : Strand) (f : NilF), Issues s F x →
    NamedOk s F x anyUnit ⟨[], [], predNamed f.pred⟩ (execLanes x F.lanes f.pred) →
    ∃ t, exec (.nop f) s = .next t ∧ Ran s t F x ⟨f.pred, 0, 1, 1⟩ (execLanes x F.lanes f.pred) ⟨[], [], []⟩ {}) ∧
  (∀ (s : State) (F : Focus) (x : Strand) (f : MemF), Issues s F x → f.la = 0#4 →
    (NamedOk s F x {} ((addrNamed f.a f.sa f.wide).with [] [] f.pred) (execLanes x F.lanes f.pred) →
      ∃ t, exec (.pref f) s = .next t ∧
        Ran s t F x ⟨f.pred, 0, 1, 1⟩ (execLanes x F.lanes f.pred) ⟨[], [], []⟩ {}) ∧
    (NamedOk s F x {} ⟨[], [], predNamed f.pred⟩ (execLanes x F.lanes f.pred) → execLanes x F.lanes f.pred ≠ 0#32 →
      (let o := orderOf f.ord f.scope
       let e := execLanes x F.lanes f.pred
       let r1 := if o.rel then x.race.release o.scope else x.race
       let open_ : Prop := x.openIn e = true ∨
         (o.rel = true ∧ (x.inflight ≠ 0 ∨ x.due ≠ [] ∨ ∃ op ∈ x.ops, op.late ≠ []))
       (open_ → ∃ t, exec (.fence f) s = .next t ∧
         Ran s t F { x with waiting := .fence o.rel o.acq o.scope e } ⟨f.pred, 0, 1, 1⟩ e ⟨[], [], []⟩ {}) ∧
       (¬open_ → ∃ t, exec (.fence f) s = .next t ∧
         Ran s t F { x with race := if o.acq then r1.settle else r1 } ⟨f.pred, 0, 1, 1⟩ e ⟨[], [], []⟩ {})))) ∧
  (∀ (s : State) (u : UnitRef) (x : Strand), s.strand u = some x → x.waiting ≠ .none → s.offers u = [])

/-- EXIT retires the lanes that execute it: they stand exited at the word, the others of the issuing set move past it,
and what waited only for the exited lanes completes; in the pacer it starts the draining; in a bound heat it faults under
0x40 (R45, R59, R81, R183, R377). A long-latency instruction outstanding in these lanes lands with it (entry 11 of the log).
In a warm-up codes 0 and 1 end it, with a launch or, where none was launched, with STATUS 0x05, code 2 launches and runs it
again from its first word, its S and C registers kept and SR.WREP one higher, and codes 3 and above fault under 0x04; a field
launched has the parameters of SR.WPAR and the DIMX of SR.WDIMX and belongs to the LAUNCH's meet (R220, R232). In handler
mode EXIT escalates (HandlerEscalates). The model's own here: what else a warm-up that runs again keeps (SR.WPAR and SR.WDIMX),
what begins anew (the V and P registers and the count of its words), and how the 256 fields of a meet are counted (entry
42), the epoch of a field (entry 43), and which of several ends of a LAUNCH its record gives (entry 69). -/
def Obligations.ExitRetires : Prop :=
  ∀ (s : State) (F : Focus) (x : Strand) (f : ImmF), Issues s F x → F.handler = none →
    (let e := execLanes x F.lanes f.pred
     e ≠ 0#32 → NamedOk s F x anyUnit ⟨[], [], predNamed f.pred⟩ e → s.mqCause F = [] →
     (isWarm F.unit = false → f.imm = 0#29 → (isPacer F.unit = true ∨ x.g = 0#3) →
       ∃ t y, exec (.exit f) s = .next t ∧
         t = (match F.unit with
           | .pacer r => (s.withStrand F.unit y).pacerExit r
           | u => (s.withStrand u y).settleBars u) ∧
         (let z := x.landWhere fun o => (o.lanes &&& e) ≠ 0#32
          (∀ i, i < 32 → F.lanes.getLsbD i = true → y.lane i =
            if e.getLsbD i then { z.lane i with ls := .exited }
            else { z.lane i with lpc := (x.lane i).lpc + 1#32 }) ∧
          ∀ i, i < 32 → F.lanes.getLsbD i = false → y.lane i = { z.lane i with ls := (y.lane i).ls })) ∧
     (isHeat F.unit = true → f.imm = 0#29 → x.g ≠ 0#3 →
       ∃ t y, exec (.exit f) s = .next t ∧ t.strand F.unit = some y ∧
         ∀ i, i < 32 → e.getLsbD i = true → (y.lane i).ls = .parked ∧ (y.lane i).lpc = (x.lane i).lpc ∧
           (y.lane i).own = 0x40#7) ∧
     (∀ q, F.unit = .warm q → f.imm.toNat < 3 →
       ∃ t y, exec (.exit f) s = .next t ∧ t = (s.withStrand F.unit y).exitWarm q f.imm.toNat ∧ y.s = x.s ∧ y.c = x.c) ∧
     (∀ q, F.unit = .warm q → 3 ≤ f.imm.toNat →
       ∃ t w, exec (.exit f) s = .next t ∧ find t.warms q = some w ∧ w.failed = some 0x04)) ∧
  (∀ (s : State) (q mid : Nat) (m : Meet) (p : Nat) (w : Warm), s.atPacket q = some (mid, m, p) →
    find s.warms q = some w →
    (let field : Field := { w.proto with
       params := (List.range (lNparam p)).map (fun n => ⟨getD 0#32 w.wpar n, .clean⟩), dimX := w.wdimx }
     let none_ : State := if getD 0 m.nfield m.pos = 0 then s.ownRecord mid m.pos 5 0 0 0 else s
     s.exitWarm q 0 = (s.addField mid m.pos field).passLaunch q mid m.pos ∧
     s.exitWarm q 1 = none_.passLaunch q mid m.pos ∧
     (m.crowded = true → s.exitWarm q 2 = s.exitWarm q 0) ∧
     (m.crowded = false → ∃ w', find (s.exitWarm q 2).warms q = some w' ∧ w'.strand.s = w.strand.s ∧
       w'.strand.c = w.strand.c ∧ w'.strand.lanes = [(0, laneStart w.start)] ∧ w'.words = 0 ∧ w'.wrep = w.wrep + 1 ∧
       w'.wpar = w.wpar ∧ w'.wdimx = w.wdimx ∧ (s.exitWarm q 2).fields = (s.addField mid m.pos field).fields ∧
       (s.exitWarm q 2).meets = (s.addField mid m.pos field).meets))) ∧
  (∀ (s : State) (mid i : Nat) (m : Meet) (f : Field), find s.meets mid = some m →
    (∀ q, find s.queues f.queue = some q → q.quar = false ∧ q.cleared = false) →
    (find s.queues f.queue = none → f.quar = false) →
    find (s.addField mid i f).fields s.nextId = some { f with
      meet := mid, packet := i, quar := false,
      epoch := if getD 0 m.nfield i ≠ 0 then (s.dev.epoch + 1) % 2 ^ 16 else f.epoch } ∧
    find (s.addField mid i f).meets mid = some { m with
      fields := m.fields ++ [s.nextId], nfield := put m.nfield i (getD 0 m.nfield i + 1),
      launchOpen := put m.launchOpen i (getD 0 m.launchOpen i + 1) }) ∧
  (∀ (s : State) (mid i : Nat) (m : Meet), find s.meets mid = some m → m.isDone i = false → m.grouped = false →
    pType (m.packet i) = tLaunch →
    (m.pos ≤ i → find m.fate i = none → ∀ st re ca n,
      find (s.ownRecord mid i st re ca n).meets mid = some { m with fate := put m.fate i (st, re, ca) }) ∧
    (i < m.pos → getD 0 m.launchOpen i = 0 → m.recorded = false →
      (let v := getD (1, 0, 0) m.fate i
       s.settleLaunch mid i =
         (s.modMeet mid fun m => { m with states := put m.states i .done, recorded := true }).owe m.queue mid i m.compl
           (recordBits v.1 v.2.1 v.2.2 (pTag (m.packet i)) (getD 0 m.nfield i) (m.place i)))))

/-- RECONV holds the lanes of a heat that execute it while some parked lane stands below the word, and lets them pass
otherwise; YIELD.POINT holds them, in a bound heat the whole issuing set, while a cooperative yield of the squad is pending,
SR.YREQ.PEND, which a pacer has never (R63, R240, R436, R466). YIELD moves past the word; in a heat of a concurrent field its
lanes, in a bound heat the whole issuing set, then stand aside where a candidate is left outside them, for the candidates at
the smallest counter among those; else next-group mode ends and COUNT is 0 (R66, R466). -/
def Obligations.HoldsAndYields : Prop :=
  (∀ (s : State) (F : Focus) (x : Strand) (f : NilF), Issues s F x → F.handler = none →
     NamedOk s F x {} ⟨[], [], predNamed f.pred⟩ (execLanes x F.lanes f.pred) →
     (let e := execLanes x F.lanes f.pred
      ∀ row ∈ ([(Instr.reconv f, fun i => e.getLsbD i && isHeat F.unit && x.parkedBelow (x.lane i).lpc, Hold.reconv),
         (.yieldPoint f, fun i => s.yieldPending F.unit &&
           (e.getLsbD i || (x.g ≠ 0#3 && e ≠ 0#32 && (x.lane i).candidate)), .yieldPoint)] :
         List (Instr × (Nat → Bool) × Hold)),
       ∃ t y, exec row.1 s = .next t ∧ t = s.withStrand F.unit y ∧ y.s = x.s ∧ y.c = x.c ∧
         ∀ i, i < 32 → F.lanes.getLsbD i = true → y.lane i =
           if row.2.1 i then { x.lane i with held := some row.2.2 }
           else { x.lane i with lpc := (x.lane i).lpc + 1#32 })) ∧
  (∀ (s : State) (u : UnitRef), s.yieldPending u = true ↔
    ∃ r q h rl sq, u = .heat r q h ∧ find s.relays r = some rl ∧ find rl.squads q = some sq ∧ sq.yreq = true) ∧
  (∀ (s : State) (F : Focus) (x : Strand) (f : NilF), Issues s F x → F.handler = none →
     NamedOk s F x {} ⟨[], [], predNamed f.pred⟩ (execLanes x F.lanes f.pred) →
     ∃ t y, exec (.yield f) s = .next t ∧
       RanUnit F x y ⟨f.pred, 0, 1, 1⟩ (execLanes x F.lanes f.pred) ⟨[], [], []⟩ {} ∧
       t = s.withStrand F.unit (if s.concurrent F.unit then
         y.yieldLanes x.nextMode (if x.g ≠ 0#3 ∧ execLanes x F.lanes f.pred ≠ 0#32 then lanesOf F.lanes
           else lanesOf (execLanes x F.lanes f.pred)) else y)) ∧
  (∀ (y : Strand) (was : Bool) (m : LaneSet),
    (let z := y.yieldLanes was (lanesOf m)
     let run (i : Nat) : Prop := m.getLsbD i = true ∧ (y.lane i).candidate = true
     let other (i : Nat) : Prop := i < 32 ∧ (y.lane i).candidate = true ∧ m.getLsbD i = false
     (∃ i, run i) →
     ((¬∃ i, other i) → z.nextMode = false ∧ z.streak = 0 ∧ z.group = 0#32 ∧ ∀ i, z.lane i = y.lane i) ∧
     ((∃ i, other i) → z.nextMode = true ∧ (was = true → z.streak = 0) ∧
       (∀ i, i < 32 → (run i → z.lane i = { y.lane i with ls := .deferred }) ∧ (¬run i → z.lane i = y.lane i)) ∧
       ∀ i, i < 32 → (z.group.getLsbD i = true ↔
         other i ∧ ∀ j, other j → (y.lane i).lpc.toNat ≤ (y.lane j).lpc.toNat))))

/-! ### Memory -/

/-- LD, LDS and LDK: every executing lane receives the bytes at its own address, sign-extended for the signed sizes, in
the registers from D up; no byte of memory or scratch changes (R408, R409, R411). LDU makes one access for the heat and
writes S registers (R412). The model's own here: entry 7 of the log. -/
def Obligations.LoadWords : Prop :=
  ((∀ (f : MemF), ∀ row ∈ [(Instr.ld f, false), (.lds f, true)], ∀ (s : State) (F : Focus) (x : Strand) (loc : Nat → Loc),
     Issues s F x →
     (let u := F.unit
      let e := execLanes x F.lanes f.pred
      let n := sizeBytes f.size
      let o := loadOrder u f.ord f.scope
      let cnt := sizeRegs f.size
      PredsClean F x f.pred →
      NamedOk s F x { warm := !row.2 } ((addrNamed f.a f.sa f.wide).with (span f.d.toNat cnt) [] f.pred) e →
      AccessOk e (fun i => if row.2 then s.scrPlan u x (memOff x i f) n o
        else s.devPlan u x (x.creg f.cap.toNat) (memOff x i f) n .r false o true)
        (fun i => (addrOpd x i f.a f.sa f.wide).taint) loc →
      ∃ t y z, exec row.1 s = .next t ∧ t.strand u = some y ∧ Landed x y f.la.toNat z ∧ UnitKept F x y 1 ∧
        SameElse s t ∧ t.mem = s.mem ∧ t.tags = s.tags ∧ (∀ a, t.readLoc u (.scr a) 1 = s.readLoc u (.scr a) 1) ∧
        ∀ i k, i < 32 → ((z.lane i).reg k).val =
          if e.getLsbD i then
            ((regOf f.d.toNat cnt (loadValue f.size (s.readLoc u (loc i) n)) .clean k).getD ((x.lane i).reg k)).val
          else ((x.lane i).reg k).val)) ∧
   (∀ (f : LdkF) (s : State) (F : Focus) (x : Strand) (loc : Nat → Loc), Issues s F x →
     (let u := F.unit
      let e := execLanes x F.lanes f.pred
      let n := sizeBytes f.size
      let cnt := sizeRegs f.size
      let base := s.fieldD u 0 fun fd => fd.code + hdrDataOff fd
      PredsClean F x f.pred →
      NamedOk s F x {} ((addrNamed f.a f.sa f.wide).with (span f.d.toNat cnt) [] f.pred) e →
      AccessOk e (fun i => s.devPlan u x (s.codeCap u)
        (((addrOpd x i f.a f.sa f.wide).val + f.off.toNat + base : Nat) : Int) n .r false Order.data false)
        (fun i => (addrOpd x i f.a f.sa f.wide).taint) loc →
      ∃ t y z, exec (.ldk f) s = .next t ∧ t.strand u = some y ∧ Landed x y f.la.toNat z ∧ UnitKept F x y 2 ∧
        SameElse s t ∧ t.mem = s.mem ∧ t.tags = s.tags ∧
        ∀ i k, i < 32 → ((z.lane i).reg k).val =
          if e.getLsbD i then
            ((regOf f.d.toNat cnt (loadValue f.size (s.readLoc u (loc i) n)) .clean k).getD ((x.lane i).reg k)).val
          else ((x.lane i).reg k).val))) ∧
  (∀ (f : MemF) (s : State) (F : Focus) (x : Strand) (l : Loc) (v : Nat), Issues s F x →
     (let u := F.unit
      let e := execLanes x F.lanes f.pred
      let n := sizeBytes f.size
      let o := orderOf f.ord f.scope
      let cnt := sizeRegs f.size
      let adr := addrOpd x 0 f.a true f.wide
      e ≠ 0#32 → PredsClean F x f.pred → adr.taint = .clean →
      NamedOk s F x {} ⟨[], span f.d.toNat cnt ++ span f.a.toNat (if f.wide then 2 else 1), predNamed f.pred⟩ e →
      s.devPlan u x (x.creg f.cap.toNat) (adr.val + f.imm.toInt) n .r false o true =
        { fva := v, dev := true, loc := some l } →
      ∃ t y z, exec (.ldu f) s = .next t ∧ t.strand u = some y ∧ Landed x y f.la.toNat z ∧ SameElse s t ∧
        t.mem = s.mem ∧ t.tags = s.tags ∧ y.c = x.c ∧ y.fpf = x.fpf ∧
        (∀ i k, i < 32 → (y.lane i).reg k = (x.lane i).reg k) ∧
        ∀ k, (z.sreg k).val =
          ((regOf f.d.toNat cnt (loadValue f.size (s.readLoc u l n)) .clean k).getD (x.sreg k)).val))

/-- ST and STS: every executing lane stores the registers from D up at its own address, lanes in ascending order; no
byte elsewhere changes, no register changes, and a store of device memory clears the tags of the granules it touches and
no other (R129, R453, R454). The model's own here: entry 7 of the log. -/
def Obligations.Stores : Prop :=
  ∀ (f : MemF), ∀ row ∈ [(Instr.st f, false), (.sts f, true)], ∀ (s : State) (F : Focus) (x : Strand) (loc : Nat → Loc),
    Issues s F x → f.la = 0#4 →
    (let u := F.unit
     let e := execLanes x F.lanes f.pred
     let n := sizeBytes f.size
     let o := orderOf f.ord f.scope
     let data (i : Nat) := readOpd x i false f.d.toNat (sizeRegs f.size)
     PredsClean F x f.pred →
     NamedOk s F x {} ((addrNamed f.a f.sa f.wide).with (span f.d.toNat (sizeRegs f.size)) [] f.pred) e →
     AccessOk e (fun i => if row.2 then s.scrPlan u x (memOff x i f) n o
       else s.devPlan u x (x.creg f.cap.toNat) (memOff x i f) n .w true o true)
       (fun i => (addrOpd x i f.a f.sa f.wide).taint.join (data i).taint) loc →
     ∃ t y, exec row.1 s = .next t ∧ t.strand u = some y ∧ UnitKept F x y 1 ∧ SameElse s t ∧
       (∀ i k, i < 32 → (y.lane i).reg k = (x.lane i).reg k) ∧
       y.inflight = x.inflight + (lanesOf e).length ∧
       (∀ l, t.readLoc u l 1 = ((lanesOf e).foldl (fun st i => st.writeLoc u (loc i) n (data i).val) s).readLoc u l 1) ∧
       (∀ a, (∀ i pa at_, e.getLsbD i = true → loc i = .dev pa at_ → ¬(pa ≤ a ∧ a < pa + n)) → t.byte a = s.byte a) ∧
       (∀ a, (∀ i b, e.getLsbD i = true → loc i = .scr b → ¬(b ≤ a ∧ a < b + n)) →
         t.readLoc u (.scr a) 1 = s.readLoc u (.scr a) 1) ∧
       ∀ a, t.tag a = (s.tag a && !((lanesOf e).any fun i => match loc i with
         | .dev pa _ => decide (pa / 16 ≤ a / 16 ∧ a / 16 ≤ (pa + n - 1) / 16)
         | .scr _ => false)))

/-- ATOM and ATOMS: each executing lane in ascending order reads the old value into D and stores what the operation
gives, as one access; CAS stores the swap value only where the old one equals the comparand (R350 to R354). The model's
own here: entry 7 of the log. -/
def Obligations.Atomics : Prop :=
  ∀ (f : AtmF), ∀ row ∈ [(Instr.atom f, false), (.atoms f, true)], ∀ (s : State) (F : Focus) (x : Strand)
    (loc : Nat → Loc), Issues s F x →
    (let u := F.unit
     let e := execLanes x F.lanes f.pred
     let n := sizeBytes f.size
     let cnt := sizeRegs f.size
     let o := orderOf f.ord f.scope
     let bCnt := if f.aop = 9#4 then 2 * cnt else cnt
     let b (i : Nat) := readOpd x i false f.b.toNat bCnt
     PredsClean F x f.pred →
     NamedOk s F x {} ((addrNamed f.a f.sa f.wide).with (span f.d.toNat cnt ++ span f.b.toNat bCnt) [] f.pred) e →
     AccessOk e (fun i => if row.2 then s.scrPlan u x (addrOpd x i f.a f.sa f.wide).val n o
       else s.devPlan u x (x.creg f.cap.toNat) (addrOpd x i f.a f.sa f.wide).val n .a true o true)
       (fun i => (addrOpd x i f.a f.sa f.wide).taint.join (b i).taint) loc →
     ∃ t y z, exec row.1 s = .next t ∧ t.strand u = some y ∧ Landed x y f.la.toNat z ∧ UnitKept F x y 1 ∧ SameElse s t ∧
       (∀ l, t.readLoc u l 1 = (atomFold f u loc (fun i => (b i).val) (lanesOf e) s).1.readLoc u l 1) ∧
       (∀ a, (∀ i pa at_, e.getLsbD i = true → loc i = .dev pa at_ → ¬(pa ≤ a ∧ a < pa + n)) → t.byte a = s.byte a) ∧
       ∀ i k, i < 32 → ((z.lane i).reg k).val =
         if e.getLsbD i then
           ((regOf f.d.toNat cnt (getD 0 (atomFold f u loc (fun i => (b i).val) (lanesOf e) s).2 i) .clean k).getD
             ((x.lane i).reg k)).val
         else ((x.lane i).reg k).val)

/-- LEA gives the virtual address base + offset in a register pair, LEA.S the scratch offset, without an access (R413). -/
def Obligations.AddressComputation : Prop :=
  ∀ (f : MemF) (s : State) (F : Focus) (x : Strand), Issues s F x → f.la = 0#4 →
    (let e := execLanes x F.lanes f.pred
     let c := x.creg f.cap.toNat
     let t0 (i : Nat) := (addrOpd x i f.a f.sa f.wide).taint
     (NamedOk s F x {} ((addrNamed f.a f.sa f.wide).with (span f.d.toNat 2) [] f.pred) e →
       (∀ i, e.getLsbD i = true → c.tag = true ∧ 0 ≤ memOff x i f ∧ memOff x i f + sizeBytes f.size ≤ c.len ∧
         ((c.base : Int) + memOff x i f) % (sizeBytes f.size : Int) = 0) →
       ∃ t, exec (.lea f) s = .next t ∧ Ran s t F x ⟨f.pred, 0, 1, 1⟩ e ⟨span f.d.toNat 2, [], []⟩
         { v := fun i => regOf f.d.toNat 2 (c.base + (memOff x i f).toNat) (t0 i) }) ∧
     (NamedOk s F x {} ((addrNamed f.a f.sa f.wide).with [f.d.toNat] [] f.pred) e →
       (∀ i, e.getLsbD i = true → 0 ≤ memOff x i f ∧ memOff x i f % (sizeBytes f.size : Int) = 0 ∧
         ((memOff x i f).toNat < s.fieldD F.unit 0 scratchRounded ∨
          (fifoBase ≤ (memOff x i f).toNat ∧ (memOff x i f).toNat < fifoEnd))) →
       ∃ t, exec (.leaS f) s = .next t ∧ Ran s t F x ⟨f.pred, 0, 1, 1⟩ e ⟨[f.d.toNat], [], []⟩
         { v := fun i => regOf f.d.toNat 1 (memOff x i f).toNat (t0 i) }))

/-- CLD loads a capability: the 16 bytes at the table's entry, or at an address with load-capability permission, and the
granule's tag where the page is a capability page; CNARROW narrows one: base and length within it, permissions only
removed (R124, R127, R128, R365, R366). The model's own here: a base of 2^57 with length 0 sets the reserved bit 57 and
reads BASE 0 (mkCap, entry 88 of the log). -/
def Obligations.Capabilities : Prop :=
  (∀ (f : MemF) (s : State) (F : Focus) (x : Strand) (pa v : Nat) (at_ : BitVec 2), Issues s F x → f.la = 0#4 →
    (let u := F.unit
     let e := execLanes x F.lanes f.pred
     let a := readOpd x 0 true f.a.toNat 1
     let o := loadOrder u 0#3 0#3
     let loaded (va : Nat) : Cap := ⟨BitVec.ofNat 128 (s.readMem pa 16), s.isCapPage u va && s.tag pa⟩
     e ≠ 0#32 → PredsClean F x f.pred → a.taint = .clean →
     NamedOk s F x anyUnit ⟨[], [f.a.toNat], predNamed f.pred⟩ e →
     (∀ cx, s.ctxOf u = some cx → a.val < cx.capN →
       s.vaPlan u x ((cx.capRoot + 16 * a.val) % 2 ^ 57) 16 false o true =
         { fva := v, dev := true, loc := some (.dev pa at_) } →
       ∃ t y, exec (.cld f) s = .next t ∧ t.strand u = some y ∧ t.mem = s.mem ∧ SameElse s t ∧
         ∀ k, y.creg k = if k = f.d.toNat then loaded ((cx.capRoot + 16 * a.val) % 2 ^ 57) else x.creg k) ∧
     (s.devPlan u x (x.creg f.cap.toNat) (a.val + f.imm.toInt) 16 .l false o true =
         { fva := v, dev := true, loc := some (.dev pa at_) } →
       ∃ t y, exec (.cldMemory f) s = .next t ∧ t.strand u = some y ∧ t.mem = s.mem ∧ SameElse s t ∧
         ∀ k, y.creg k = if k = f.d.toNat then loaded (capVa (x.creg f.cap.toNat) (a.val + f.imm.toInt))
           else x.creg k))) ∧
  (∀ (f : CapnF) (s : State) (F : Focus) (x : Strand), Issues s F x →
    (let e := execLanes x F.lanes f.pred
     let a := readOpd x 0 true f.a.toNat 2
     let b := readOpd x 0 true f.b.toNat 2
     let m := readOpd x 0 true f.c.toNat 1
     let c := x.creg f.cs.toNat
     e ≠ 0#32 → a.taint = .clean → b.taint = .clean → m.taint = .clean → m.val < 16 → c.tag = true →
     a.val + b.val ≤ c.len →
     NamedOk s F x {} ⟨[], span f.a.toNat 2 ++ span f.b.toNat 2 ++ [f.c.toNat], predNamed f.pred⟩ e →
     ∃ t, exec (.cnarrow f) s = .next t ∧
       Ran s t F (x.setCreg f.cd.toNat (mkCap (c.base + a.val) b.val (c.canR && bit m.val 0) (c.canW && bit m.val 1)
         (c.canA && bit m.val 2) (c.canL && bit m.val 3))) ⟨f.pred, 0, 1, 1⟩ e ⟨[], [], []⟩ {}))

/-! ### FIFO slots, bank modes, scratch pages -/

/-- FACQ takes the next slot of its end of a FIFO bank: the count falls, the slot is held, its number is in S[D], and
the unit acquires what the slot's last holder released; with none there but for acquirers that come before it its lanes
are held at the word (R149, R378 to R380). FREL gives the oldest held slot of its end back: a slot of the consumer end becomes empty, one of the producer
end filled; the unit's release count rises and the slot's next holder acquires what it releases (R149, R171, R379,
R380). The model's own here: entry 8 of the log, and that a hold keeps the poison of the predicates of its issuing set
(entry 13). -/
def Obligations.FifoSlots : Prop :=
  (∀ (f : RegF), ∀ row ∈ [(Instr.facqF f, true), (.facqE f, false)], ∀ (s : State) (F : Focus) (x : Strand) (rl : Relay)
     (r : Nat), Issues s F x → f.la = 0#4 → unitRelay F.unit = some r → find s.relays r = some rl →
     (let e := execLanes x F.lanes f.pred
      let k := f.a.toNat
      let d := f.d.toNat
      let b := rl.bank k
      let n := nslot b.slot
      let i := if row.2 then b.again.headD b.cons else b.prod
      let b1 : Bank := if row.2 then
          { b with filled := b.filled - 1, heldC := b.heldC ++ [i], again := b.again.tail,
                   cons := if b.again = [] then (b.cons + 1) % n else b.cons }
        else { b with free := b.free - 1, heldP := b.heldP ++ [i], prod := (b.prod + 1) % n }
      e ≠ 0#32 → NamedOk s F x {} ⟨[], [d], predNamed f.pred⟩ e → k < s.owned F.unit → b.mode = .fifo →
      (rl.dry row.2 k (some F.unit) = false →
        ∃ t, exec row.1 s = .next t ∧
          Ran (s.modRelay r fun rl => { rl with banks := put rl.banks k b1 }) t F
            { x with race := x.race.merge ((find b.hand i).getD []) } (regInfo f) e ⟨[], [], [d]⟩
            { s := fun m => if m = d then some ⟨BitVec.ofNat 32 i, .clean⟩ else none }) ∧
      (rl.dry row.2 k (some F.unit) = true → F.handler = none →
        ∃ t y, exec row.1 s = .next t ∧ t = s.withStrand F.unit y ∧
          LanesAre F x y (fun j l => if e.getLsbD j then
            l.heldAt (.facq row.2 k d ((lowest e).getD 0) (guardTaint x F.lanes f.pred)) else l.past)))) ∧
  (∀ (f : RegF), ∀ row ∈ [(Instr.frelF f, true), (.frelE f, false)], ∀ (s : State) (F : Focus) (x : Strand) (rl : Relay)
     (r i : Nat) (is : List Nat), Issues s F x → f.la = 0#4 → unitRelay F.unit = some r → find s.relays r = some rl →
     (let e := execLanes x F.lanes f.pred
      let k := f.a.toNat
      let b := rl.bank k
      let t1 := x.race.release 2
      let hand := put b.hand i (t1.give (s.agentOf F.unit) t1.count)
      let b1 : Bank := if row.2 then { b with heldC := is, free := b.free + 1, hand := hand }
        else { b with heldP := is, filled := b.filled + 1, hand := hand }
      e ≠ 0#32 → NamedOk s F x {} ⟨[], [], predNamed f.pred⟩ e → k < s.owned F.unit → b.mode = .fifo →
      (if row.2 then b.heldC else b.heldP) = i :: is →
      ∃ t, exec row.1 s = .next t ∧
        Ran (s.modRelay r fun rl => { rl with banks := put rl.banks k b1 }) t F { x with race := t1 } (regInfo f) e
          ⟨[], [], []⟩ {}))

/-- BANKMODE gives S[D] the bank's old configuration; asked for another one it changes the bank, empties it, makes every
slot of a FIFO free, and the unit waits for the end of the transition; the other banks stay, and a bank that leaves FIFO
mode reads zero in its window; the slices that serve the backing of the pages it moves are drawn on (R257). While a store to
the bank that a unit of the relay has issued in the window of a CWAIT or MWAIT has still to be performed, the word waits
(entry 82 of the log). BANKMODE.Q only reads (R140, R141, R355). -/
def Obligations.BankModes : Prop :=
  (∀ (f : RegF) (s : State) (F : Focus) (x : Strand) (rl : Relay) (r slot : Nat) (mode : BankMode), Issues s F x →
    f.la = 0#4 → unitRelay F.unit = some r → find s.relays r = some rl →
    (let e := execLanes x F.lanes f.pred
     let a := readOpd x 0 true f.a.toNat 1
     let b := readOpd x 0 true f.b.toNat 1
     let d := f.d.toNat
     let old := rl.bank a.val
     let w : Writes := { s := fun m => if m = d then some ⟨BitVec.ofNat 32 old.status, .clean⟩ else none }
     e ≠ 0#32 → PredsClean F x f.pred → a.taint = .clean → a.val < s.owned F.unit →
     (NamedOk s F x {} ⟨[], [d, f.a.toNat], predNamed f.pred⟩ e →
       ∃ t, exec (.bankmodeQ f) s = .next t ∧ Ran s t F x (regInfo f) e ⟨[], [], [d]⟩ w) ∧
     (b.taint = .clean → NamedOk s F x {} ⟨[], [d, f.a.toNat, f.b.toNat], predNamed f.pred⟩ e →
       bankWord b.val = some (mode, slot) → rl.modeCauses (s.fieldD F.unit 0 scratchPages) a.val mode slot = [] →
       rl.storesAhead F.unit x a.val = true → exec (.bankmode f) s = .next s) ∧
     (b.taint = .clean → NamedOk s F x {} ⟨[], [d, f.a.toNat, f.b.toNat], predNamed f.pred⟩ e →
       bankWord b.val = some (mode, slot) → ¬(old.mode = mode ∧ old.slot = slot) →
       rl.modeCauses (s.fieldD F.unit 0 scratchPages) a.val mode slot = [] → rl.storesAhead F.unit x a.val = false →
       ∃ t rl1 fl, exec (.bankmode f) s = .next t ∧
         Ran { s.modRelay r fun _ => rl1 with fields := fl } t F { x with waiting := .bank a.val } (regInfo f) e
           ⟨[], [], [d]⟩ w ∧
         (∀ k g, find s.fields k = some g → ∃ us, find fl k = some { g with used := us }) ∧
         rl1.bank a.val = { bankInit with
           mode := mode, slot := slot, free := if mode = .fifo then nslot slot else 0, busy := true } ∧
         (∀ k, k ≠ a.val → rl1.bank k = rl.bank k) ∧
         rl1 = { rl with banks := rl1.banks, pages := rl1.pages, records := rl1.records, scratch := rl1.scratch } ∧
         (old.mode ≠ .fifo → rl1.scratch = rl.scratch) ∧
         (old.mode = .fifo → ∀ o, fifoBase + a.val * bankBytes ≤ o → o < fifoBase + (a.val + 1) * bankBytes →
           rl1.readScr o 1 = 0)))) ∧
  (∀ (rl : Relay) (k : Nat), (rl.bank k).mode = .fifo →
    (rl.bank k).status =
      2 + 4 * (rl.bank k).slot + 256 * (rl.bank k).free + 2 ^ 20 * (rl.bank k).filled)

/-- PGPIN and PGUNPIN set or clear the pin of every page of their range and of no other, within the limit of R146, and
change nothing else of a page; after a PGPIN whose range is not all resident the unit waits for those pages (R143, R146,
R427, R428). -/
def Obligations.PagePins : Prop :=
  ∀ (f : RegF), ∀ row ∈ [(Instr.pgpin f, true), (.pgunpin f, false)], ∀ (s : State) (F : Focus) (x : Strand) (rl : Relay)
    (r : Nat), Issues s F x → f.la = 0#4 → unitRelay F.unit = some r → find s.relays r = some rl →
    (let e := execLanes x F.lanes f.pred
     let a := readOpd x 0 true f.a.toNat 1
     let b := readOpd x 0 true f.b.toNat 1
     let pages := s.fieldD F.unit 0 scratchPages
     let range := span a.val b.val
     let fresh := (range.filter fun n => !(rl.page n).pinned).length
     e ≠ 0#32 → PredsClean F x f.pred → a.taint = .clean → b.taint = .clean → b.val ≠ 0 → a.val + b.val ≤ pages →
     (row.2 = true → pinOk pages rl.sbanks (rl.pinned + fresh) = true) →
     NamedOk s F x {} ⟨[], [f.a.toNat, f.b.toNat], predNamed f.pred⟩ e →
     ∃ t rl1, exec row.1 s = .next t ∧
       Ran (s.modRelay r fun _ => rl1) t F
         (if row.2 = true ∧ (∃ n, n ∈ range ∧ (rl.page n).resident = false) then { x with waiting := .pins a.val b.val }
          else x) (regInfo f) e ⟨[], [], []⟩ {} ∧
       rl1 = { rl with pages := rl1.pages } ∧
       ∀ n, rl1.page n =
         { rl.page n with pinned := if a.val ≤ n ∧ n < a.val + b.val then row.2 else (rl.page n).pinned })

/-! ### Barriers, the rendezvous, FORK -/

/-- BAR and RBAR: the executing lanes arrive and are held; BARA: they arrive and go on; BARW: those that have arrived
are held, the others go on. Then whatever awaited only these lanes completes (R357, R434). RDV: the executing lanes are
held at the rendezvous under its tag, the pacer's state says that it waits there, and the rendezvous completes where
these lanes were all it awaited (R185, R435); a tag other than the one fixed faults under 0x56, also where no lane waits
there any more. -/
def Obligations.BarriersAndRendezvous : Prop :=
  ((∀ (s : State) (F : Focus) (x : Strand) (f : ImmF), Issues s F x → F.handler = none →
     (let e := execLanes x F.lanes f.pred
      let n := f.imm.toNat
      let arrive (l : Lane) : Lane := { l with arrived := l.arrived ||| (1#16 <<< n) }
      n < 16 → n < s.fieldD F.unit 0 hdrBarriers → NamedOk s F x heatOnly ⟨[], [], predNamed f.pred⟩ e →
      ∀ row ∈ ([(Instr.bar f, fun l => (arrive l).heldAt (.bar n)), (.bara f, fun l => (arrive l).past),
          (.barw f, fun l => if l.arrived.getLsbD n then l.heldAt (.barw n) else l.past)] : List (Instr × (Lane → Lane))),
        ∃ t y, exec row.1 s = .next t ∧ t = (s.withStrand F.unit y).settleBars F.unit ∧ y.s = x.s ∧
          LanesAre F x y (fun i l => if e.getLsbD i then row.2 l else l.past))) ∧
   (∀ (s : State) (F : Focus) (x : Strand) (f : NilF), Issues s F x → F.handler = none →
     (let e := execLanes x F.lanes f.pred
      NamedOk s F x heatOnly ⟨[], [], predNamed f.pred⟩ e →
      ∃ t y, exec (.rbar f) s = .next t ∧ t = (s.withStrand F.unit y).settleBars F.unit ∧ y.s = x.s ∧
        LanesAre F x y (fun i l => if e.getLsbD i then { l.heldAt .rbar with arrivedR := true } else l.past)))) ∧
  (∀ (s : State) (F : Focus) (x : Strand) (f : ImmF) (rl : Relay) (r : Nat), Issues s F x → F.handler = none →
     unitRelay F.unit = some r → find s.relays r = some rl →
     (let e := execLanes x F.lanes f.pred
      let tag := f.imm.toNat
      e ≠ 0#32 → tag ≤ 255 → NamedOk s F x {} ⟨[], [], predNamed f.pred⟩ e → s.mqCause F = [] →
      (isHeat F.unit = true → rl.pacerState ≠ .idle ∧ rl.pacerState ≠ .draining) →
      (rl.rdvTag = none ∨ rl.rdvTag = some tag) →
      ∃ t y, exec (.rdv f) s = .next t ∧ y.s = x.s ∧
        t = ((s.withStrand F.unit y).modRelay r fun rl => { rl with
          rdvTag := some tag, pacerState := if isPacer F.unit then .atRdv else rl.pacerState }).settleBars F.unit ∧
        LanesAre F x y (fun i l => if e.getLsbD i then l.heldAt (.rdv tag) else l.past))) ∧
  (∀ (s : State) (F : Focus) (x : Strand) (f : ImmF) (rl : Relay) (r tag : Nat), Issues s F x → F.handler = none →
     unitRelay F.unit = some r → find s.relays r = some rl → rl.rdvTag = some tag → tag ≠ f.imm.toNat → x.g = 0#3 →
     s.mqCause F = [] →
     (let e := execLanes x F.lanes f.pred
      e ≠ 0#32 → f.imm.toNat ≤ 255 → NamedOk s F x {} ⟨[], [], predNamed f.pred⟩ e →
      ∃ t y, exec (.rdv f) s = .next t ∧ t.strand F.unit = some y ∧
        ∀ i, i < 32 → e.getLsbD i = true → (y.lane i).ls = .parked ∧ (y.lane i).lpc = (x.lane i).lpc ∧
          (y.lane i).own = 0x56#7))

/-- A phase of a barrier completes when some lane has arrived and every lane of its heats has exited, or has arrived and is not
parked: every arrival is cleared and every lane held at it goes on past its word; until then nothing changes (R357, R434). A rendezvous
completes when the pacer and every lane that has not exited are at RDV: all go on, and the tag is free (R185). -/
def Obligations.JointCompletion : Prop :=
  (∀ (rl : Relay) (b : BarId), rl.phaseDone b = false → rl.tryBar b = rl) ∧
  (∀ (rl : Relay) (b : BarId) (k : Nat) (x : Strand), rl.phaseDone b = true → find rl.heats k = some x →
    ∃ y, find (rl.tryBar b).heats k = some y ∧
      (b.covers k = false → y = x) ∧
      (b.covers k = true → y.s = x.s ∧ y.frags = x.frags ∧ ∀ i, i < 32 → b.arrived (y.lane i) = false ∧
        y.lane i = b.clearArrived (if (x.lane i).held.any b.holds then { (x.lane i).past with held := none }
          else x.lane i))) ∧
  (∀ rl : Relay, rl.rdvDone = false → rl.tryRdv = rl) ∧
  (∀ (rl : Relay) (k : Nat) (x : Strand), rl.rdvDone = true → find rl.heats k = some x →
    rl.tryRdv.rdvTag = none ∧ rl.tryRdv.pacerState = .running ∧
    ∃ y, find rl.tryRdv.heats k = some y ∧ y.s = x.s ∧ ∀ i, i < 32 →
      y.lane i = if (x.lane i).atRdv then { (x.lane i).past with held := none } else x.lane i)

/-- FORK starts the idle pacer of the relay: its first S registers take the arguments, with their poison and that of the
word's predicate (R260), its lane runs at the pacer's entry word, and it acquires what the heat has released (R184, R391). -/
def Obligations.ForkStartsThePacer : Prop :=
  ∀ (s : State) (F : Focus) (x p : Strand) (f : ImmF) (rl : Relay) (r : Nat), Issues s F x → F.handler = none →
    unitRelay F.unit = some r → find s.relays r = some rl → rl.pacer = some p → rl.pacerState = .idle →
    (let e := execLanes x F.lanes f.pred
     let a := f.a.toNat
     let n := f.imm.toNat
     let t1 := x.race.release 2
     e ≠ 0#32 → n ≤ 8 → a + n ≤ 64 → (n = 0 → a = 0) → n ≤ s.fieldD F.unit 0 hdrPSregs →
     s.fieldD F.unit false hdrHasPacer = true → NamedOk s F x { pacer := false } ⟨[], span a n, predNamed f.pred⟩ e →
     ∃ t p1, exec (.fork f) s = .next t ∧
       Ran (s.modRelay r fun rl => { rl with pacer := some p1, pacerState := .running }) t F { x with race := t1 }
         ⟨f.pred, 0, 1, 1⟩ e ⟨[], [], []⟩ {} ∧
       (∀ i, p1.sreg i = if i < n then
         { x.sreg (a + i) with taint := (x.sreg (a + i)).taint.join (guardTaint x F.lanes f.pred) } else p.sreg i) ∧
       p1 = { p with
         s := p1.s, race := p.race.merge (t1.give (s.agentOf F.unit) t1.count),
         lanes := put p.lanes 0 { p.lane 0 with
           lpc := BitVec.ofNat 32 (s.fieldD F.unit 0 hdrPEntry), ls := .running, held := none } })

/-! ### Faults and handlers -/

/-- Taking a fault: the lanes in which a word meets a cause park at the word under the first of their causes in the order
of R68, with no result written; those of a replayable page fault share one fragment, those of a debug stop another, the
rest a third, each a fragment of its own while the core's table has entries for them; every other lane of the issuing set
completes the word (R67 to R70, R76, R248). -/
def Obligations.FaultingLanesPark : Prop :=
  ∀ (s : State) (F : Focus) (x : Strand) (info : WordInfo) (d : Dests) (e : LaneSet) (o : Nat → LaneOut)
    (sw : List (Nat × Reg)), Issues s F x → F.handler = none → isWarm F.unit = false → x.g = 0#3 → x.ops = [] →
    info.la = 0 → (∀ i, e.getLsbD i = true → F.lanes.getLsbD i = true) →
    (let cause (i : Nat) : Option Nat := if e.getLsbD i then pickCause (o i).causes else none
     let replay (i : Nat) : Bool := (o i).replay && cause i = some 0x10
     ∃ y, (s.finish F x info d e o sw).strand F.unit = some y ∧
       (∀ i c, i < 32 → cause i = some c → ∃ fid, (y.lane i).frag = some fid ∧ (find y.frags fid).isSome = true ∧
         y.lane i = (x.lane i).park fid c (if faultsOf.fvaCause (o i).dev c then (o i).fva else 0)) ∧
       (∀ i j ci cj, i < 32 → j < 32 → cause i = some ci → cause j = some cj → replay i = replay j →
         debugCause ci = debugCause cj → (y.lane i).frag = (y.lane j).frag) ∧
       (∀ r q h p, F.unit = .heat r q h → h < 32 → s.coreOf F.unit = some p →
         3 ≤ ((List.range 256).filter fun n => !(s.usedFids p).contains n).length →
         ∀ i j ci cj, i < 32 → j < 32 → cause i = some ci → cause j = some cj →
           (replay i ≠ replay j ∨ debugCause ci ≠ debugCause cj) → (y.lane i).frag ≠ (y.lane j).frag) ∧
       (∀ i, i < 32 → F.lanes.getLsbD i = true → cause i = none → (o i).hold = none →
         (y.lane i).ls = (x.lane i).ls ∧ (y.lane i).frag = (x.lane i).frag ∧
         (y.lane i).lpc = if e.getLsbD i then nextPc (x.lane i) (o i) info.size
           else (x.lane i).lpc + BitVec.ofNat 32 info.size))

/-- Outside handler mode TRAP and, with the context's DBGEN set, BKPT park their lanes in a fragment that escalates to the
front end; XRV, XWV, FRET and FKILL park theirs under 0x0C, for the handler where the code block has one, else for the
front end. With DBGEN clear BKPT only goes on (R73, R76, R246, R254, R360, R458). -/
def Obligations.TrapsAndHandlerOnly : Prop :=
  (∀ (s : State) (F : Focus) (x : Strand) (f : NilF) (g : RegF), Issues s F x → F.handler = none → x.g = 0#3 →
    x.ops = [] →
    (let fid := s.allocFid F.unit
     let e := execLanes x F.lanes f.pred
     let served : FragPhase := if (s.handlerOf F.unit).isNone then .escalated else .waiting
     fid < 0x100 → find x.frags fid = none → e ≠ 0#32 → NamedOk s F x {} ⟨[], [], predNamed f.pred⟩ e →
     (∃ t, exec (.trap f) s = .next t ∧ Parked t F.unit x e fid 0x49 .escalated) ∧
     (∀ cx, s.ctxOf F.unit = some cx → cx.dbgEn = true →
       ∃ t, exec (.bkpt f) s = .next t ∧ Parked t F.unit x e fid 0x47 .escalated) ∧
     (∀ i ∈ [Instr.fretRetry f, .fretSkip f, .fkill f],
       ∃ t, exec i s = .next t ∧ Parked t F.unit x e fid 0x0C served) ∧
     (g.pred = f.pred → g.la = 0#4 → g.opx.toNat ≤ 1 →
       NamedOk s F x {} ⟨[g.d.toNat, g.b.toNat], [g.a.toNat], predNamed f.pred⟩ e →
       ∀ i ∈ [Instr.xrv g, .xwv g], ∃ t, exec i s = .next t ∧ Parked t F.unit x e fid 0x0C served))) ∧
  (∀ (s : State) (F : Focus) (x : Strand) (f : NilF), Issues s F x →
    (∀ cx, s.ctxOf F.unit = some cx → cx.dbgEn = false) →
    NamedOk s F x {} ⟨[], [], predNamed f.pred⟩ (execLanes x F.lanes f.pred) →
    ∃ t, exec (.bkpt f) s = .next t ∧ Ran s t F x ⟨f.pred, 0, 1, 1⟩ (execLanes x F.lanes f.pred) ⟨[], [], []⟩ {})

/-- FRET.RETRY, FRET.SKIP and FKILL complete in handler mode, whatever the fragment and the unit: each ends the handler
for every lane of the fragment, each at its own word: it runs again at the word, or past it, or it exits; the entry is
freed (R75, R390, R392). That what the handler left outstanding lands in the same step, before the handler ends, is the
model's choice (entry 12 of the log), as is the pacer's state after an FKILL of a matrix failure (entry 90). -/
def Obligations.HandlerEnds : Prop :=
  ∀ (s : State) (F : Focus) (x : Strand) (f : NilF) (fid : Nat), Issues s F x → F.handler = some fid →
    execLanes x F.lanes f.pred ≠ 0#32 → NamedOk s F x {} ⟨[], [], predNamed f.pred⟩ (execLanes x F.lanes f.pred) →
    (∃ t, exec (.fretRetry f) s = .next t ∧ Returned s t F x fid .retry) ∧
    (∃ t, exec (.fretSkip f) s = .next t ∧ Returned s t F x fid .skip) ∧
    (∃ t, exec (.fkill f) s = .next t ∧ Returned s t F x fid .kill)

/-- In handler mode TRAP escalates the fragment as it is; EXIT, BAR, BARA, BARW, RBAR, RECONV, YIELD, FORK, RDV, LBIND and
LUNBIND, which a handler may not use, escalate it under 0x0C; its lanes stay parked, and no LPC moves; the barrier words then
let pass whatever stands complete (R75, R76, R458). The model's own here: entry 12 of
the log. -/
def Obligations.HandlerEscalates : Prop :=
  ∀ (s : State) (F : Focus) (x : Strand) (f : NilF) (g : ImmF) (fid : Nat) (fr : Frag), Issues s F x →
    F.handler = some fid → find x.frags fid = some fr → execLanes x F.lanes f.pred ≠ 0#32 →
    NamedOk s F x heatOnly ⟨[], [], predNamed f.pred⟩ (execLanes x F.lanes f.pred) →
    g.pred = f.pred → g.imm = 0#29 → g.a = 0#8 →
    (let escalated (t : State) (c : BitVec 7) : Prop := ∃ y, t.strand F.unit = some y ∧
       find y.frags fid = some { fr with phase := .escalated, replay := false, fcause := c } ∧
       (∀ i, i < 32 → (y.lane i).lpc = (x.lane i).lpc ∧ (y.lane i).frag = (x.lane i).frag) ∧
       ∀ i, i < 32 → (x.lane i).ls ≠ .deferred → (y.lane i).ls = (x.lane i).ls
     (∀ row ∈ [(Instr.trap f, fr.fcause), (.reconv f, 0x0C#7), (.yield f, 0x0C#7), (.yieldPoint f, 0x0C#7),
        (.lunbind f, 0x0C#7), (.exit g, 0x0C#7), (.rdv g, 0x0C#7), (.fork g, 0x0C#7), (.lbind g, 0x0C#7)],
      ∃ t, exec row.1 s = .next t ∧ escalated t row.2) ∧
     ∀ i ∈ [Instr.bar g, .bara g, .barw g, .rbar f],
      ∃ t, exec i s = .next (t.settleBars F.unit) ∧ escalated t 0x0C#7)

/-- In handler mode a word moves the handler's own counter, held in the fragment's entry; the lane's LPC stays at the
faulting word (R74). -/
def Obligations.HandlerCounter : Prop :=
  ∀ (s : State) (F : Focus) (x : Strand) (fid pl i0 : Nat) (fr : Frag) (pc : Word32), Issues s F x →
    F.handler = some fid → find x.frags fid = some fr → fr.phase = .handler pc pl → lowest F.lanes = some i0 →
    (x.lane i0).held = none →
    (∀ f : NilF, NamedOk s F x anyUnit ⟨[], [], predNamed f.pred⟩ (execLanes x F.lanes f.pred) →
      ∃ t y, exec (.nop f) s = .next t ∧ t.strand F.unit = some y ∧
        find y.frags fid = some { fr with phase := .handler (pc + 1#32) pl } ∧
        ∀ i, i < 32 → (y.lane i).lpc = (x.lane i).lpc) ∧
    (∀ f : JmpF, NamedOk s F x {} ⟨[], [], predNamed f.pred⟩ (execLanes x F.lanes f.pred) → x.g = 0#3 →
      (∀ i, F.lanes.getLsbD i = true → (x.lane i).predTaint f.pred = .clean) →
      0 ≤ (pc.toNat : Int) + f.off.toInt → (pc.toNat : Int) + f.off.toInt < s.codeW F.unit →
      ∃ t y, exec (.bra f) s = .next t ∧ t.strand F.unit = some y ∧
        (let next := if (execLanes x F.lanes f.pred).getLsbD i0 then BitVec.ofInt 32 ((pc.toNat : Int) + f.off.toInt)
           else pc + 1#32
         find y.frags fid = some { fr with phase := .handler next pl }) ∧
        ∀ i, i < 32 → (y.lane i).lpc = (x.lane i).lpc)

/-- XRV, in handler mode, reads of any lane of the heat a V register, a predicate, LPC, LSTATE, SR.FRAG or SR.FVA into
the executing lane (R463). XWV, in handler mode, writes a V register or a predicate of any lane that has not exited, and
LPC or LSTATE of a lane of the handler's own fragment; a lane it exits leaves the fragment, whose entry returns to the pool
with its last lane, and what awaited only that lane completes (R69, R464, R465). -/
def Obligations.HandlerReach : Prop :=
  (∀ (s : State) (F : Focus) (x : Strand) (f : RegF), Issues s F x → F.handler.isSome = true → f.la = 0#4 →
     (let e := execLanes x F.lanes f.pred
      let l := (x.sreg f.a.toNat).val.toNat
      let sel := f.opx.toNat
      let cnt := if sel = 5 then 2 else 1
      let ln := x.lane l
      let v : Nat × Taint := if sel = 0 then ((ln.reg f.b.toNat).val.toNat, (ln.reg f.b.toNat).taint)
        else if sel = 1 then (boolBit (ln.pred f.b.toNat).val, (ln.pred f.b.toNat).taint)
        else if sel = 2 then (ln.lpc.toNat, .clean)
        else if sel = 3 then
          ((match ln.ls with
            | .running => 0
            | .parked => 1
            | .exited => 2
            | .deferred => 3), .clean)
        else if sel = 4 then (s.srFrag F.unit x l, .clean)
        else (ln.fva.toNat, .clean)
      laneCauses F l = [] → sel ≤ 5 → (∀ o ∈ x.ops, o.opens (1#32 <<< l) = true → o.handler = F.handler) →
      namedCauses s F.unit x l ⟨if sel = 0 then [f.b.toNat] else [], [], if sel = 1 then [f.b.toNat] else []⟩ = [] →
      NamedOk s F x {} ⟨span f.d.toNat cnt, [f.a.toNat], predNamed f.pred⟩ e →
      ∃ t, exec (.xrv f) s = .next t ∧ Ran s t F x (regInfo f) e ⟨span f.d.toNat cnt, [], []⟩
        { v := fun _ => regOf f.d.toNat cnt v.1 (v.2.join (x.sreg f.a.toNat).taint) })) ∧
  (∀ (s : State) (F : Focus) (x : Strand) (f : RegF) (fid i0 : Nat), Issues s F x → F.handler = some fid → f.la = 0#4 →
     (let e := execLanes x F.lanes f.pred
      let l := (x.sreg f.a.toNat).val.toNat
      let sel := f.opx.toNat
      let d := f.d.toNat
      let ln := x.lane l
      let src := (x.lane i0).reg f.b.toNat
      let t0 := (src.taint.join (x.sreg f.a.toNat).taint).join ((x.lane i0).predTaint f.pred)
      let ln1 : Lane := if sel = 0 then ln.setReg d ⟨src.val, t0⟩
        else if sel = 1 then ln.setPred d ⟨src.val.getLsbD 0, t0⟩
        else if sel = 2 then { ln with lpc := src.val }
        else if src.val.toNat % 4 = 2 then { ln with ls := .exited, frag := none, own := 0#7, fva := 0#57 } else ln
      let x1 := (x.setLane l ln1).dropEmpty
      lanesOf e = [i0] → x.openIn (1#32 <<< l) = false → laneCauses F l = [] → NamedOk s F x {} ⟨[f.b.toNat], [f.a.toNat], predNamed f.pred⟩ e →
      namedCauses s F.unit x l ⟨if sel = 0 then [d] else [], [], if sel = 1 then [d] else []⟩ = [] →
      ((sel ≤ 1 ∧ ln.ls ≠ .exited) ∨ (sel = 2 ∧ ln.frag = some fid ∧ t0 = .clean) ∨
        (sel = 3 ∧ ln.frag = some fid ∧ t0 = .clean ∧ (src.val.toNat % 4 = 1 ∨
          (src.val.toNat % 4 = 2 ∧ ∀ fr, find x.frags fid = some fr → fr.bound = false)))) →
      ∃ t y, exec (.xwv f) s = .next t ∧ RanUnit F x1 y (regInfo f) e ⟨[], [], []⟩ {} ∧
        t = if ln1.ls = .exited then
            match F.unit with
            | .pacer r => (s.withStrand F.unit y).pacerExit r
            | u => (s.withStrand u y).settleBars u
          else s.withStrand F.unit y))

/-! ### Commands, counters, guards -/

/-- CQW writes one command slot, 64 bits from two S registers or from the word itself; the first CQW of a unit clears
the other slots. Poison of the predicates goes with it (R199, R260, R368). The model's own here: entry 13 of the log. -/
def Obligations.SlotWrites : Prop :=
  (∀ (s : State) (F : Focus) (x : Strand) (f : RegF), Issues s F x → f.la = 0#4 →
    (let e := execLanes x F.lanes f.pred
     let a := readOpd x 0 true f.a.toNat 2
     e ≠ 0#32 → a.taint = .clean → f.d.toNat < 4 → NamedOk s F x {} ⟨[], span f.a.toNat 2, predNamed f.pred⟩ e →
     ∃ t, exec (.cqw f) s = .next t ∧
       Ran s t F { x with
         k := put (if x.kset then x.k else []) f.d.toNat
           ⟨BitVec.ofNat 64 ((x.sreg f.a.toNat).val.toNat + 2 ^ 32 * (x.sreg (f.a.toNat + 1)).val.toNat),
            predTaints x (lanesOf F.lanes) f.pred⟩,
         kset := true } (regInfo f) e ⟨[], [], []⟩ {})) ∧
  (∀ (s : State) (F : Focus) (x : Strand) (f : CqwxF), Issues s F x →
    (let e := execLanes x F.lanes f.pred
     e ≠ 0#32 → f.slot.toNat < 4 → NamedOk s F x {} ⟨[], [], predNamed f.pred⟩ e →
     ∃ t, exec (.cqwExt f) s = .next t ∧
       Ran s t F { x with
         k := put (if x.kset then x.k else []) f.slot.toNat ⟨f.val, predTaints x (lanesOf F.lanes) f.pred⟩,
         kset := true } ⟨f.pred, 0, 2, 1⟩ e ⟨[], [], []⟩ {}))

/-- CQGO captures the four slots as one command at the tail of the queue it names: its sides, rows and row bytes, counter
and guard; the unit's release count rises and the queue acquires what it released. It waits while the 1024 commands of the
core or the 4096 of the cluster are taken (R200 to R204, R367). The model's own here: entries 8 and 76 of the log. -/
def Obligations.CommandPlacement : Prop :=
  ∀ (s : State) (F : Focus) (x : Strand) (f : ImmF) (r : Nat), Issues s F x → unitRelay F.unit = some r →
    (let u := F.unit
     let e := execLanes x F.lanes f.pred
     let q := bits f.imm.toNat 3 0
     let kv (i : Nat) : Nat := (x.kslot i).val.toNat
     let rows := if bits (kv 2) 63 52 = 0 then 4096 else bits (kv 2) 63 52
     let rb := if bits (kv 2) 51 36 = 0 then 65536 else bits (kv 2) 51 36
     let src := s.side u x (kv 0) rows rb (16 * bits (kv 2) 35 18) (bits (kv 3) 5 3) true (q = 8)
     let dst := s.side u x (kv 1) rows rb (16 * bits (kv 2) 17 0) (bits (kv 3) 5 3) false false
     let aux := bits (kv 3) 63 40
     let t1 := x.race.release 2
     e ≠ 0#32 → NamedOk s F x {} ⟨[], [], predNamed f.pred⟩ e → cqgoReserved f.imm.toNat = false → x.kset = true →
     PredsClean F x f.pred → q ≤ 9 → (∀ i, i < 4 → (x.kslot i).taint = .clean) →
     (∀ b, dst.place = .bstore b → q < 8) → rb % 16 = 0 → bits (kv 3) 39 16 = 0 → bits (kv 3) 1 0 = 0 →
     (q ≠ 9 → bit (kv 3) 2 = false) → (q < 8 → aux = 0) → (8 ≤ q → bits (kv 0) 63 60 ≠ 2) →
     (q = 8 → aux % 8 = 0 ∧ aux / 2 + 4 * rows ≤ s.fieldD u 0 scratchRounded) → src.causes = [] → dst.causes = [] →
     (s.commandRoom u = false → exec (.cqgo f) s = .next s) ∧
     (s.commandRoom u = true →
       ∃ t c, exec (.cqgo f) s = .next t ∧
         Ran (s.modRelay r fun rl => rl.setQueue q { rl.queue q with
             items := (rl.queue q).items ++ [.command c],
             race := (rl.queue q).race.merge (t1.give (s.agentOf u) t1.count) }) t F { x with race := t1 }
           ⟨f.pred, 0, 1, 1⟩ e ⟨[], [], []⟩ {} ∧
         c.src = src.place ∧ c.dst = dst.place ∧ c.sstride = src.stride ∧ c.dstride = dst.stride ∧ c.rows = rows ∧
         c.rowBytes = rb ∧ c.done = 0 ∧ c.result = none ∧ c.squad = (if isHeat u then some (unitSquadHeat u).1 else none) ∧
         c.aborted = none ∧ c.ruled = none ∧ c.idxOff = aux / 2 ∧ c.cgrp = bits aux 23 8 ∧ c.cop = bits aux 7 4 ∧ c.cfmt = bits aux 3 0 ∧
         c.group = (if q = 9 then s.groupOf u (bits aux 23 8) else []) ∧
         c.cnt = (if bit (kv 3) 11 then some (bits (kv 3) 15 12) else none) ∧
         c.guard = (if bit f.imm.toNat 4 then some (bits f.imm.toNat 8 5)
           else if bit (kv 3) 6 then some (bits (kv 3) 10 7) else none)))

/-- CWAIT goes on once its counter has reached the target, where the counter holds no error, and acquires what the commands
it counts have released; else its lanes are held at the word, or, with a lookahead, go on in its window, which keeps the
lanes as they stood (R83 to R86, R208, R372, R373). MWAIT likewise, once at most n groups are incomplete (R198, R417). What
the two acquire, as what the counted commands and the complete groups gave (Relay.countedGives, Relay.groupHand), is the
model's choice (entry 8 of the log), as is how a window is kept (entry 82). -/
def Obligations.CounterWaits : Prop :=
  (∀ (s : State) (F : Focus) (x : Strand) (f : RegF) (rl : Relay) (r : Nat), Issues s F x → unitRelay F.unit = some r →
    find s.relays r = some rl →
    (let e := execLanes x F.lanes f.pred
     let target := readOpd x 0 true f.b.toNat 2
     let n := f.a.toNat
     let w := rl.counter n
     e ≠ 0#32 → n < 16 → target.val < 2 ^ 48 → NamedOk s F x {} ⟨[], span f.b.toNat 2, predNamed f.pred⟩ e →
     (target.val ≤ bits w.toNat 47 0 → bit w.toNat 63 = false →
       ∃ t, exec (.cwait f) s = .next t ∧
         Ran s t F { x with race := x.race.merge (rl.countedGives n) } ⟨f.pred, 0, 1, 1⟩ e ⟨[], [], []⟩ {}) ∧
     (¬ target.val ≤ bits w.toNat 47 0 → f.la = 0#4 → F.handler = none →
       ∃ t y, exec (.cwait f) s = .next t ∧ t = s.withStrand F.unit y ∧ y.s = x.s ∧
         LanesAre F x y (fun i l =>
           if e.getLsbD i then l.heldAt (.cwait n target.val ((lowest e).getD 0)) else l.past)) ∧
     (¬ target.val ≤ bits w.toNat 47 0 → f.la ≠ 0#4 → F.handler = none →
       ∃ t y l op, exec (.cwait f) s = .next t ∧ t = s.withStrand F.unit y ∧ y.s = x.s ∧ y.ops = l ++ [op] ∧
         l.length = x.ops.length ∧ op.kind = .cwait n target.val ∧ op.lanes = e ∧ op.left = f.la.toNat ∧ op.writes = [] ∧ op.late = [] ∧
         op.save = (lanesOf e).map (fun i => (i, x.lane i)) ∧ op.handler = none ∧ LanesAre F x y (fun _ l => l.past)))) ∧
  (∀ (s : State) (F : Focus) (x : Strand) (f : ImmF) (rl : Relay) (r : Nat), Issues s F x → unitRelay F.unit = some r →
    find s.relays r = some rl →
    (let e := execLanes x F.lanes f.pred
     let n := f.imm.toNat
     e ≠ 0#32 → n < 64 → s.mqCause F = [] → NamedOk s F x pacerOnly ⟨[], [], predNamed f.pred⟩ e →
     (rl.groups.length ≤ n →
       ∃ t, exec (.mwait f) s = .next t ∧
         Ran s t F { x with race := (x.race.merge rl.groupHand).release 2 } ⟨f.pred, 0, 1, 1⟩ e ⟨[], [], []⟩ {}) ∧
     (n < rl.groups.length → f.la = 0#4 → F.handler = none →
       ∃ t y, exec (.mwait f) s = .next t ∧ t = s.withStrand F.unit y ∧ y.s = x.s ∧
         LanesAre F x y (fun i l => if e.getLsbD i then l.heldAt (.mwait n) else l.past)) ∧
     (¬ rl.groups.length ≤ n → f.la ≠ 0#4 → F.handler = none →
       ∃ t y l op, exec (.mwait f) s = .next t ∧ t = s.withStrand F.unit y ∧ y.s = x.s ∧ y.ops = l ++ [op] ∧
         l.length = x.ops.length ∧ op.kind = .mwait n ∧ op.lanes = e ∧ op.left = f.la.toNat ∧ op.writes = [] ∧ op.late = [] ∧
         op.save = (lanesOf e).map (fun i => (i, x.lane i)) ∧ op.handler = none ∧ LanesAre F x y (fun _ l => l.past))))

/-- GSET resolves the guard named in an S register to no, yes or unresolved, and hands it what the unit releases (R209,
R394); a command at a queue's head to which the guard had spoken keeps what it said. That what the unit releases stands with
the guard (Relay.guardHand) until a command takes it is the model's choice (entry 8 of the log). QFENCE puts one marker at
the tail of every queue it names; where a named queue has work, the markers stand behind it, and where none has, they are
gone at once (R433). -/
def Obligations.GuardsAndFences : Prop :=
  (∀ (s : State) (F : Focus) (x : Strand) (f : ImmF) (r : Nat), Issues s F x → unitRelay F.unit = some r →
    (let e := execLanes x F.lanes f.pred
     let g := (x.sreg f.a.toNat).val.toNat
     let t1 := x.race.release 2
     let v : Guard := if f.imm = 1#29 then .yes else if f.imm = 0#29 then .no else .unresolved
     e ≠ 0#32 → PredsClean F x f.pred → (x.sreg f.a.toNat).taint = .clean → f.imm.toNat ≤ 2 → g ≤ 15 →
     NamedOk s F x {} ⟨[], [f.a.toNat], predNamed f.pred⟩ e →
     ∃ t, exec (.gset f) s = .next t ∧
       Ran (s.modRelay r fun rl => { rl.ruleHeads g with
           guards := put rl.guards g v, guardHand := put rl.guardHand g (t1.give (s.agentOf F.unit) t1.count) }) t F
         { x with race := t1 } ⟨f.pred, 0, 1, 1⟩ e ⟨[], [], []⟩ {})) ∧
  (∀ (s : State) (F : Focus) (x : Strand) (f : ImmF) (rl : Relay) (r : Nat), Issues s F x → unitRelay F.unit = some r →
    find s.relays r = some rl →
    (let e := execLanes x F.lanes f.pred
     let m := f.imm.toNat
     e ≠ 0#32 → m < 2048 → NamedOk s F x {} ⟨[], [], predNamed f.pred⟩ e →
     (∀ k q it, (k, q) ∈ rl.queues → it ∈ q.items → ∃ c, it = QItem.command c) →
     (∀ it, it ∈ rl.mq → ∃ n, it = MItem.entry n) →
     (let busy : Bool := (List.range 10).any (fun q => bit m q && !(rl.queue q).items.isEmpty) || (bit m 10 && !rl.mq.isEmpty)
      ∃ t rl1, exec (.qfence f) s = .next t ∧
        Ran (s.modRelay r fun _ => rl1) t F x ⟨f.pred, 0, 1, 1⟩ e ⟨[], [], []⟩ {} ∧
        (∀ q, q < 10 → (rl1.queue q).items =
          (rl.queue q).items ++ (if busy && bit m q then [QItem.marker rl.nextMarker] else [])) ∧
        rl1.mq = rl.mq ++ (if busy && bit m 10 then [MItem.marker rl.nextMarker] else []))))

/-! ### The matrix queue, tensors -/

/-- MZERO, MLDA, MMA and MSTORE capture their tensors and place one entry at the tail of queue 10, in the open group,
where fewer than 64 entries are placed; with 64 the word waits (R191, R192, R418, R419, R422). MCOMMIT closes the open
entries as the next group and gives its number, modulo 2^32, in S[D]; an empty group is complete at once. With 64 groups
incomplete its lanes are held (R198, R415, R416). The model's own here: what the queue acquires from the placing unit
(entry 8 of the log), that a held MCOMMIT keeps the poison of its predicates (entry 13), and that an MWAIT in whose window
an entry is placed remembers it (entry 82). -/
def Obligations.MatrixWords : Prop :=
  (∀ (f : RegF) (s : State) (F : Focus) (x : Strand) (rl : Relay) (r : Nat), Issues s F x → f.la = 0#4 →
     unitRelay F.unit = some r → find s.relays r = some rl → s.mqCause F = [] →
     (let e := execLanes x F.lanes f.pred
      let ta := s.tensor F.unit f.a.toNat
      let tb := s.tensor F.unit f.b.toNat
      let td := s.tensor F.unit f.d.toNat
      let k := (x.sreg f.c.toNat).val.toNat
      let t1 := x.race.release 2
      e ≠ 0#32 → PredsClean F x f.pred →
      ∀ row ∈ [(Instr.mzero f, f.d.toNat, [], MOp.mzero f.d.toNat, []),
          (.mlda f, f.d.toNat, mldaCauses ta, .mlda f.d.toNat ta, []),
          (.mma f, f.d.toNat, mmaCauses ta tb k, .mma f.d.toNat ta tb k, [f.c.toNat]),
          (.mstore f, f.a.toNat, mstoreCauses td, .mstore td f.a.toNat (f.opx.getLsbD 0), [])],
        NamedOk s F x pacerOnly ⟨[], row.2.2.2.2, predNamed f.pred⟩ e →
        row.2.1 < 32 →
        (64 ≤ mentries rl → exec row.1 s = .next s) ∧
        ((row.2.2.2.2 = [] ∨ (x.sreg f.c.toNat).taint = .clean) → row.2.2.1 = [] → mentries rl < 64 → ∃ t, exec row.1 s = .next t ∧
          Ran (s.modRelay r fun rl => { rl with
              mq := rl.mq ++ [.entry ⟨row.2.2.2.1, none, rl.openSeq, 0, false, [], []⟩], openSeq := rl.openSeq + 1,
              mqRace := rl.mqRace.merge (t1.give (s.agentOf F.unit) t1.count) }) t F
            { x with race := t1, ops := modLast (fun o => o.opens 1#32) (fun o => { o with placed := o.placed + 1 }) x.ops }
            (regInfo f) e ⟨[], [], []⟩ {}))) ∧
  (∀ (f : RegF) (s : State) (F : Focus) (x : Strand) (rl : Relay) (r : Nat), Issues s F x → f.la = 0#4 →
     unitRelay F.unit = some r → find s.relays r = some rl → s.mqCause F = [] →
     (let e := execLanes x F.lanes f.pred
      let d := f.d.toNat
      let g := (rl.groupNo + 1) % 2 ^ 32
      let n := (rl.mq.filter fun it => match it with
        | .entry m => m.group.isNone
        | .marker _ => false).length
      e ≠ 0#32 → NamedOk s F x pacerOnly ⟨[], [d], predNamed f.pred⟩ e →
      (rl.groups.length < 64 →
        ∃ t rl1, exec (.mcommit f) s = .next t ∧
          Ran (s.modRelay r fun _ => rl1) t F x (regInfo f) e ⟨[], [], [d]⟩
            { s := fun m => if m = d then some ⟨BitVec.ofNat 32 g, .clean⟩ else none } ∧
          rl1 = { rl with
            groupNo := g, openSeq := 0, mq := rl1.mq, groups := if n = 0 then rl.groups else put rl.groups g n,
            groupHand := if n = 0 ∧ rl.groups = [] then rl.queueGives 10 else rl.groupHand } ∧
          rl1.mq.length = rl.mq.length ∧
          ∀ (i : Nat) (m : MEntry), rl.mq[i]? = some (MItem.entry m) →
            rl1.mq[i]? = some (MItem.entry (if m.group = none then { m with group := some g } else m))) ∧
      (64 ≤ rl.groups.length → F.handler = none →
        ∃ t y, exec (.mcommit f) s = .next t ∧ t = s.withStrand F.unit y ∧
          LanesAre F x y (fun i l =>
            if e.getLsbD i then l.heldAt (.mcommit d (predTaints x (lanesOf F.lanes) f.pred)) else l.past))))

/-- TDESC writes an entry of the context's tensor table, with VALID set, and beside it the capability it names where the
tensor lies in device memory; TINV clears VALID. No other entry, and nothing else of the context, changes (R186, R455,
R456). -/
def Obligations.TensorTable : Prop :=
  (∀ (s : State) (F : Focus) (x : Strand) (f : TdescF) (fd : Field), Issues s F x → s.fieldOf F.unit = some fd →
    (let e := execLanes x F.lanes f.pred
     let w (k : Nat) : Nat := (x.sreg (f.a.toNat + k)).val.toNat
     let b := w 4 + 2 ^ 32 * w 5 + 2 ^ 64 * w 2 + 2 ^ 96 * w 3 + 2 ^ 128 * w 0 + 2 ^ 160 * w 1 + 2 ^ 192 * f.hi.toNat
     let t : Tensor := ⟨BitVec.ofNat 256 (b + 2 ^ 207), if bits b 197 196 = 0 then x.creg (bits b 203 200) else capNull⟩
     e ≠ 0#32 → bit b 207 = false → (∀ k, k < 6 → (x.sreg (f.a.toNat + k)).taint = .clean) → PredsClean F x f.pred → t.writeCauses = [] →
     NamedOk s F x {} ⟨[], span f.a.toNat 6, predNamed f.pred⟩ e →
     ∃ s', exec (.tdesc f) s = .next s' ∧
       Ran { s with ctxs := modify s.ctxs fd.ctx fun c => { c with tensors := put c.tensors f.t.toNat t } } s' F x
         ⟨f.pred, 0, 2, 1⟩ e ⟨[], [], []⟩ {})) ∧
  (∀ (s : State) (F : Focus) (x : Strand) (f : RegF) (fd : Field), Issues s F x → s.fieldOf F.unit = some fd →
    f.la = 0#4 →
    (let e := execLanes x F.lanes f.pred
     let old := s.tensor F.unit f.d.toNat
     let off : Tensor := ⟨old.bits &&& ~~~(1#256 <<< 207), old.cap⟩
     e ≠ 0#32 → PredsClean F x f.pred → NamedOk s F x {} ⟨[], [], predNamed f.pred⟩ e →
     ∃ s', exec (.tinv f) s = .next s' ∧
       Ran { s with ctxs := modify s.ctxs fd.ctx fun c => { c with tensors := put c.tensors f.d.toNat off } } s' F x (regInfo f) e ⟨[], [], []⟩ {}))

/-! ### Special registers -/

/-- SRD gives each executing lane, or once an S register, the value the register has for it; SR.PLACE needs a privileged
launch, and a warm-up's own registers exist for it alone (R28, R231, R449, R450). SWR: written ones keep FPF and SLF
bits and zeros clear them, FPE is replaced, OVFE is bit 8 of SR.LBC (R78), CQERR and the counters clear as their fields say,
MRETRY takes its limit from a pacer alone; every other register is as it was (R100, R206, R207, R194, R231, R449, R450). Of
SR.WDIMX bit 31 is ignored (R231, R451). That what a warm-up may not write faults under 0x25, and SR.WREP under 0x04, is the
model's choice (entry 15 of the log). -/
def Obligations.SpecialRegisters : Prop :=
  ((∀ (s : State) (F : Focus) (x : Strand) (f : RegF), Issues s F x → f.la = 0#4 →
     (let e := execLanes x F.lanes f.pred
      let n := f.a.toNat
      let cnt := if srWide n then 2 else 1
      let d := f.d.toNat
      (flagSr n = true → x.ops = []) → e ≠ 0#32 → s.srCauses F.unit n = [] →
      (f.u = false → NamedOk s F x anyUnit ⟨span d cnt, [], predNamed f.pred⟩ e →
        ∃ t, exec (.srd f) s = .next t ∧ Ran s t F x (regInfo f) e ⟨span d cnt, [], []⟩
          { v := fun i => regOf d cnt (s.sr F.unit x i n) .clean }) ∧
      (f.u = true → NamedOk s F x anyUnit ⟨[], span d cnt, predNamed f.pred⟩ e →
        ∃ t i, exec (.srd f) s = .next t ∧ lowest e = some i ∧ Ran s t F x (regInfo f) e ⟨[], [], span d cnt⟩
          { s := regOf d cnt (s.sr F.unit x i n) .clean }))) ∧
   (∀ (s : State) (x : Strand) (r q h i : Nat) (rl : Relay) (f : Field), find s.relays r = some rl →
     find s.fields rl.field = some f →
     (let u : UnitRef := .heat r q h
      s.sr u x i 0x00 = i ∧ s.sr u x i 0x01 = h ∧ s.sr u x i 0x02 = q ∧ s.sr u x i 0x08 = rl.x ∧
      s.sr u x i 0x0B = f.dimX ∧ s.sr u x i 0x10 = x.fpf.toNat ∧ s.sr u x i 0x11 = x.fpe.toNat ∧
      s.sr u x i 0x12 = x.slf.toNat ∧ s.sr u x i 0x17 = (x.lane i).fva.toNat ∧ s.sr u x i 0x22 = rl.cqerr.toNat ∧
      s.sr u x i 0x24 = rl.mqerr.toNat ∧ s.sr u x i 0x29 = s.dev.lifeh ∧
      (∀ c, c < 16 → s.sr u x i (0x30 + c) = (rl.counter c).toNat) ∧
      ((s.srCauses u 0x06 = []) ↔ f.priv = true)))) ∧
  ((∀ (s : State) (F : Focus) (x : Strand) (f : RegF) (r : Nat), Issues s F x → f.la = 0#4 → unitRelay F.unit = some r →
     (let e := execLanes x F.lanes f.pred
      let n := f.d.toNat
      let a := readOpd x 0 true f.a.toNat (if srWide n then 2 else 1)
      (0x10 ≤ n → n ≤ 0x12 → x.ops = []) → e ≠ 0#32 → a.taint = .clean → PredsClean F x f.pred →
      ((0x10 ≤ n ∧ n ≤ 0x13) ∨ n = 0x22 ∨ n = 0x23 ∨ (0x30 ≤ n ∧ n ≤ 0x3F)) →
      (n = 0x23 → isHeat F.unit = false) →
      NamedOk s F x {} ⟨[], span f.a.toNat (if srWide n then 2 else 1), predNamed f.pred⟩ e →
      ∃ t, exec (.swr f) s = .next t ∧
        Ran (s.modRelay r fun rl =>
            if n = 0x22 then { rl with cqerr := if bit a.val 31 then rl.cqerr else 0#32 }
            else if n = 0x23 then
              let v := a.val % 8 + (if bits a.val 15 8 = 0 then 0 else 256 * bits rl.mretry.toNat 15 8)
              { rl with mretry := BitVec.ofNat 32 v }
            else if 0x30 ≤ n then
              let old := (rl.counter (n - 0x30)).toNat
              let v := a.val % 2 ^ 48 + (if bits a.val 55 48 = 0 then 0 else 2 ^ 48 * bits old 55 48) +
                (if bit a.val 63 then 2 ^ 56 * bits old 62 56 + 2 ^ 63 * boolBit (bit old 63) else 0)
              { rl with counters := put rl.counters (n - 0x30) (BitVec.ofNat 64 v) }
            else rl) t F
          { x with
            fpf := if n = 0x10 then x.fpf &&& BitVec.ofNat 5 a.val else x.fpf,
            fpe := if n = 0x11 then BitVec.ofNat 7 a.val else x.fpe,
            slf := if n = 0x12 then x.slf &&& BitVec.ofNat 4 a.val else x.slf,
            ovfe := if n = 0x13 then bit a.val 8 else x.ovfe } (regInfo f) e ⟨[], [], []⟩ {})) ∧
   (∀ (s : State) (F : Focus) (x : Strand) (f : RegF) (q : Nat) (w : Warm), Issues s F x → f.la = 0#4 →
     F.unit = .warm q → find s.warms q = some w →
     (let e := execLanes x F.lanes f.pred
      let n := f.d.toNat
      let v := (x.sreg f.a.toNat).val
      let dim := v.toNat % 2 ^ 31
      e ≠ 0#32 → (x.sreg f.a.toNat).taint = .clean → PredsClean F x f.pred →
      NamedOk s F x { warm := true } ⟨[], [f.a.toNat], predNamed f.pred⟩ e →
      ((0x40 ≤ n ∧ n < 0x80) ∨ (n = 0x80 ∧ dim ≠ 0 ∧ dim ≤ w.proto.dimX)) →
      ∃ t, exec (.swr f) s = .next t ∧
        Ran { s with warms := put s.warms q { w with
            wdimx := if n = 0x80 then dim else w.wdimx,
            wpar := if n = 0x80 then w.wpar else put w.wpar (n - 0x40) v } } t F x (regInfo f) e ⟨[], [], []⟩ {})) ∧
   (∀ (s : State) (q n v : Nat), (find s.warms q).isSome = true → (n < 0x40 ∨ 0x81 ≤ n) →
     s.swrCauses (.warm q) n v = if n = 0x81 then [0x04] else [0x25]))

/-! ### Power, reset, start -/

/-- BOOST decides in the order of R282 and gives the status in S[D]: refused in quarantine, cancelled at level 0,
refused while a grant runs, without a life target, or above the temperature; granted where the cord pays; BOOST.SPARE
otherwise exchanges the cluster for a spare; integrations of the same cycle come before the decision (R291). THERM
reads a temperature, WRD a quadword of a wear record, another unit's only in a privileged launch (R281 to R289, R361,
R457, R462). The model's own here: entries 1, 14 and 47 of the log, and that a temperature carries the poison of its
selector (R260, entry 13). -/
def Obligations.PowerWords : Prop :=
  (∀ (f : RegF), ∀ row ∈ [(Instr.boost f, false), (.boostSpare f, true)], ∀ (s : State) (F : Focus) (x : Strand),
    Issues s F x → f.la = 0#4 →
    (let u := F.unit
     let e := execLanes x F.lanes f.pred
     let d := f.d.toNat
     let level := (x.sreg f.a.toNat).val.toNat
     let cycles := (x.sreg f.b.toNat).val.toNat
     let c := (s.clusterOf u).getD 0
     let cl := s.cluster c
     let n := (cycles + 2 ^ 20 - 1) / 2 ^ 20
     let cost := s.boostCost c n level
     let status := if s.quarClass u then 2 else if row.2 = true ∧ s.crossing u = true then 4 else if level = 0 then 0 else if s.boosted .pacer c then 4
       else if s.dev.lifeh = 0 then 7 else if bits (s.srTallow (c / 26)) 7 0 < 5 * level then 3
       else if (cost : Int) ≤ s.dev.bal then 0 else if row.2 = false ∨ s.dev.bal < 0 then 1
       else if s.clustersWith .spare = 0 then 6 else 5
     let g : Grant := ⟨level, n, none, s.fieldD u 0 fun f => f.ctx⟩
     let paid : State := { s with dev := { s.dev with bal := s.dev.bal - cost } }
     let granted : State := paid.setCluster c { cl with grant := some g }
     let s0 : State := if status ≠ 0 then s
       else if level = 0 then s.setCluster c { cl with grant := none, mhz := min cl.mhz 2700 } else granted
     let s1 : State := s0.setCluster c { s0.cluster c with decided := true }
     e ≠ 0#32 → PredsClean F x f.pred → (x.sreg f.a.toNat).taint = .clean → (x.sreg f.b.toNat).taint = .clean → level ≤ 4 →
     (level ≠ 0 → cycles ≠ 0) → (row.2 = true → level ≠ 0) →
     NamedOk s F x {} ⟨[], [d, f.a.toNat, f.b.toNat], predNamed f.pred⟩ e →
     ∃ t t1 : State, exec row.1 s = .next t ∧
       Ran s1 t1 F x (regInfo f) e ⟨[], [], [d]⟩
         { s := fun m => if m = d then some ⟨BitVec.ofNat 32 status, .clean⟩ else none } ∧
       t = if status = 5 then t1.exchange c else t1)) ∧
  (∀ (s : State) (F : Focus) (x : Strand) (f : RegF), Issues s F x → f.la = 0#4 →
    (let e := execLanes x F.lanes f.pred
     let d := f.d.toNat
     let a := x.sreg f.a.toNat
     e ≠ 0#32 → a.val.toNat ≤ 3 → NamedOk s F x {} ⟨[], [d, f.a.toNat], predNamed f.pred⟩ e →
     ∃ t : State, exec (.therm f) s = .next t ∧ Ran s t F x (regInfo f) e ⟨[], [], [d]⟩
       { s := fun m => if m = d then some ⟨BitVec.ofInt 32 (s.thermValue F.unit a.val.toNat), a.taint⟩ else none })) ∧
  (∀ (s : State) (F : Focus) (x : Strand) (f : RegF) (k : WearKind) (i : Nat), Issues s F x → f.la = 0#4 →
    (let e := execLanes x F.lanes f.pred
     let d := f.d.toNat
     let sel := (x.sreg f.a.toNat).val.toNat
     let n := (x.sreg f.b.toNat).val.toNat
     let c := (s.clusterOf F.unit).getD 0
     e ≠ 0#32 → PredsClean F x f.pred → (x.sreg f.a.toNat).taint = .clean → (x.sreg f.b.toNat).taint = .clean → n ≤ 7 →
     ((sel < 4 ∧ k = .core ∧ i = 4 * c + sel) ∨ (sel = 4 ∧ k = .pacer ∧ i = c) ∨ (sel = 5 ∧ k = .array ∧ i = c) ∨
       (sel = 2 ^ 31 + 2 ^ 24 * kindNum k + i ∧ i < kindCount k ∧ s.fieldD F.unit false (fun f => f.priv) = true)) →
     NamedOk s F x {} ⟨[], span d 2 ++ [f.a.toNat, f.b.toNat], predNamed f.pred⟩ e →
     ∃ t : State, exec (.wrd f) s = .next t ∧
       Ran s t F x (regInfo f) e ⟨[], [], span d 2⟩ { s := regOf d 2 ((s.wearShown k i).quad k i n) .clean }))

/-- A reset clears everything but what the magnetoresistive memory keeps and the quarantine of frames (R266); a loss of power in the middle of a wear
record's write breaks the copy written last, so that the other one is read. VX_START runs a start once: the machine is
then ready, or after its last failed attempt in the failed state (R270, R278, R304, R308 to R311). The model's own here:
entries 18, 36 and 37 of the log. -/
def Obligations.ResetAndStart : Prop :=
  (∀ s : State, ∃ t : State, exec .deviceReset s = .next t ∧ t.dev.startState = 0 ∧ t.mem = [] ∧ t.tags = [] ∧
    (∀ e ∈ t.frames, e.2.owner = .none ∧ e.2.attr = 0#2 ∧ (e.2.quarantined = true ∨ e.2.dead = true) ∧
      ∃ f, (e.1, f) ∈ s.frames ∧ f.quarantined = e.2.quarantined ∧ f.dead = e.2.dead) ∧
    (∀ e ∈ s.frames, e.2.quarantined = true → ∃ f, (e.1, f) ∈ t.frames ∧ f.quarantined = true ∧ f.dead = e.2.dead) ∧
    t.ctxs = [] ∧ t.queues = [] ∧ t.relays = [] ∧ t.port0 = portInit ∧ t.port1 = portInit ∧ t.wear = s.wear ∧
    t.dev.lifeh = s.dev.lifeh ∧ t.dev.capwu = s.dev.capwu ∧ t.dev.bal = s.dev.bal ∧ t.dev.calib = s.dev.calib ∧
    t.dev.trained = s.dev.trained) ∧
  (∀ (s : State) (k : WearKind) (i : Nat), exec (.powerLoss k i false) s = exec .deviceReset s) ∧
  (∀ (s : State) (k : WearKind) (i : Nat) (p : WearPair), i < kindCount k → find s.wear (wearKey k i) = some p →
    p.a.checks k i = true → p.b.checks k i = true →
    ∃ t q, exec (.powerLoss k i true) s = .next t ∧ t.mem = [] ∧ t.dev.startState = 0 ∧ t.dev.bal = s.dev.bal ∧
      find t.wear (wearKey k i) = some q ∧ (∀ j, j ≠ wearKey k i → find t.wear j = find s.wear j) ∧
      q.load k i = some (if seqBefore p.a.seq p.b.seq then p.a else p.b)) ∧
  (∀ (s : State) (p : Port) (v : Word64), (s.dev.startState ≠ 0 ∨ bits v.toNat 31 3 ≠ 0) →
    exec (.vxStart p v) s = .next s) ∧
  (∀ (s : State) (p : Port) (v : Word64), s.dev.startState = 0 → bits v.toNat 31 3 = 0 →
    ∃ t : State, exec (.vxStart p v) s = .next t ∧
      ((t.dev.startState = 3 ∧ t.dev.startStep = 9 ∧ t.dev.startFails = 0) ∨ t.dev.startState = 4))

/-! ### Queues and host commands -/

/-- A doorbell of a port's own queue moves its write index, or quarantines the queue, and its fields with it, where the index
runs past the ring or a reserved bit is set; the queue that has the quarantine partition keeps its turn (State.holdTurn),
and where no relay is resident that is all, else those of the queue leave for the partition, where they can (R225,
State.demote); VX_QCTL clears the quarantine or starts a reset, in which the queue's relays, warm-up and
pending meets go and its fields end; the reset is reported once every record owed is written (R216, R226, R242, R299).
The model's own here: entries 24, 79 and 84 of the log, and that the bit by which a reset is reported is cleared when a new one
starts (entry 29). -/
def Obligations.QueueControl : Prop :=
  (∀ (s : State) (p : Port) (v : Word64) (q : Queue),
    (let n := bits v.toNat 14 0
     let w := BitVec.ofNat 32 (bits v.toNat 63 32)
     let fits : Prop := bits v.toNat 31 15 = 0 ∧ (w - q.ridx).toNat ≤ 2 ^ (bits q.q0.toNat 61 57 - 6)
     queuePort n = p → find s.queues n = some q → (s.port p).iface ≠ .error →
     (fits → exec (.vxDoorbell p v) s = .next { s with queues := put s.queues n { q with widx := w } }) ∧
     (¬fits → exec (.vxDoorbell p v) s = .next (s.demote n) ∧
       ((∀ e ∈ s.relays, e.2.place = none) → s.demote n = { s.holdTurn with
         queues := put s.queues n { q with quar := true },
         fields := s.fields.map fun e => (e.1, if e.2.queue = n then { e.2 with quar := true } else e.2) })))) ∧
  (∀ (s : State) (p : Port) (v : Word64), (queuePort (bits v.toNat 14 0) ≠ p ∨ (s.port p).iface = .error) →
    exec (.vxDoorbell p v) s = .next s) ∧
  (∀ (s : State) (p : Port) (v : Word32) (q : Queue),
    (let n := bits v.toNat 14 0
     queuePort n = p → find s.queues n = some q → bits v.toNat 31 30 = 0 →
     (bits v.toNat 29 28 = 1 →
       exec (.clearQuar p v) s =
         .next { s with queues := put s.queues n { q with quar := false, cleared := q.cleared || q.quar } }) ∧
     (bits v.toNat 29 28 = 2 →
       ∃ t : State, exec (.queueReset p v) s = .next t ∧
         find t.queues n = some { q with resetting := true, resetDone := false, pending := [] } ∧ find t.warms n = none ∧
         (∀ e ∈ t.relays, ∀ f, find s.fields e.2.field = some f → f.queue ≠ n) ∧
         ∀ e ∈ t.fields, e.2.queue = n → e.2.ended ≠ .live))) ∧
  (∀ (s : State) (n : Nat) (q : Queue), find s.queues n = some q → q.resetting = true →
    ∃ t : State, exec (.queueResetReport n) s = .next t ∧ ∀ q1, find t.queues n = some q1 → q1.owed ≠ [] ∨
      (q1.ridx = q1.widx ∧ q1.resetting = false ∧ q1.resetDone = true ∧
        (t.port (queuePort n)).qstat = BitVec.ofNat 64 (2 ^ 63 + n)))

/-- A host command of a port in ERROR, or before the machine has started, is refused with nothing else changed;
CTX_CREATE and CTX_END make and end a context, Q_CREATE and Q_DESTROY a queue, CGRP_SET and CAP_SET a group's list and a
table entry, TLB_INVAL drops translations; DONE returns once the command has had its effect (R126, R134, R215, R295 to
R298); a page that is still being zeroed is waited for (R154). The model's own here: that Q_DESTROY drops the queue's
fields (entry 29 of the log), that PKCAP is captured at Q_CREATE (entry 39), and entries 25 and 27. -/
def Obligations.HostCommands : Prop :=
  (∀ (s : State) (p : Port), ∀ row ∈ [(Instr.ctxCreate p, 1), (.ctxEnd p, 2), (.qCreate p, 3), (.qDestroy p, 4),
      (.frameAssign p, 5), (.frameRelease p, 6), (.frameScrub p, 7), (.capSet p, 8), (.tlbInval p, 9), (.cgrpSet p, 10)],
    Submitted s p row.2 →
    ((s.port p).iface = .error → exec row.1 s = .next (s.answered p 4)) ∧
    ((s.port p).iface ≠ .error → s.dev.startState ≠ 3 → exec row.1 s = .next (s.answered p 1))) ∧
  (∀ (s : State) (p : Port), CommandOk s p 1 [[(47, 12)], [(56, 0)], [(15, 0)]] true →
    (let ps := s.port p
     let c := ps.cmdCtx
     find s.ctxs c = none → c ≠ 0x7FFF → (s.frame (ps.cmd 1 / 65536)).owner = .host p → ps.cmd 2 % 16 = 0 →
     ps.cmd 3 ≠ 0 →
     let made (x : Ctx) : State := { s with ctxs := put s.ctxs c x }
     ∃ x : Ctx, exec (.ctxCreate p) s = .next ((made x).answered p 0) ∧ x.port = p ∧
       x.root = ps.cmd 1 ∧ x.capRoot = ps.cmd 2 ∧ x.capN = ps.cmd 3 ∧ x.tensors = [] ∧ x.cgrps = [] ∧
       x.dbgEn = false ∧ x.lmap = indexed s.actives)) ∧
  (∀ (s : State) (p : Port), CommandOk s p 2 [] true → (find s.ctxs (s.port p).cmdCtx).isSome = true →
    (s.queuesOf (s.port p).cmdCtx ≠ [] → exec (.ctxEnd p) s = .next (s.answered p 1)) ∧
    (s.queuesOf (s.port p).cmdCtx = [] → ∃ t : State, exec (.ctxEnd p) s = .next (t.answered p 0) ∧
      find t.ctxs (s.port p).cmdCtx = none ∧
      (∀ n, (s.frame n).owner = .ctx (s.port p).cmdCtx → (t.frame n).owner = .none) ∧
      ∀ a, (s.frame (a / 65536)).owner = .ctx (s.port p).cmdCtx → t.byte a = 0#8)) ∧
  (∀ (s : State) (p : Port) (cx : Ctx), CommandOk s p 3 [[(63, 0)], [(63, 0)], [(14, 0)]] false →
    (let q0 := (s.port p).cmd 1
     let q1 := (s.port p).cmd 2
     let n := (s.port p).cmd 3
     let c := bits q1 14 0
     let cap := s.entryNow c (bits q1 47 32)
     let q : Queue := { q0 := BitVec.ofNat 64 q0, q1 := BitVec.ofNat 64 q1, quar := false, widx := 0#32,
                        ridx := 0#32, cap := cap, pending := [], resetting := false, resetDone := false, owed := [],
                        cleared := false }
     let made : State := { s with queues := put s.queues n q }
     queuePort n = p → (bit q1 21 = true ↔ p = .p1) → find s.ctxs c = some cx → cx.port = p → queueOk q0 q1 = true →
     bits q1 47 32 < cx.capN → s.entryBusy c (bits q1 47 32) = false → find s.queues n = none → frontCauses cap (bits q0 56 0) (2 ^ bits q0 61 57) [.r, .w] = [] →
     exec (.qCreate p) s = .next (made.answered p 0))) ∧
  (∀ (s : State) (p : Port) (q : Queue), CommandOk s p 4 [[(14, 0)]] false →
    queuePort ((s.port p).cmd 1) = p → find s.queues ((s.port p).cmd 1) = some q → q.resetDone = true →
    q.resetting = false →
    ∃ t : State, exec (.qDestroy p) s = .next (t.answered p 0) ∧ find t.queues ((s.port p).cmd 1) = none ∧
      ∀ e ∈ t.fields, e.2.queue ≠ (s.port p).cmd 1) ∧
  (∀ (s : State) (p : Port) (cx : Ctx) (e : TlbEntry), CommandOk s p 8 [[(15, 0)], [(63, 0)], [(63, 0)]] true →
    (let ps := s.port p
     let va := (cx.capRoot + 16 * ps.cmd 1) % 2 ^ 57
     let pa := e.pa + (va - e.vbase)
     let d := BitVec.ofNat 128 (ps.cmd 2 + 2 ^ 64 * ps.cmd 3)
     find s.ctxs ps.cmdCtx = some cx → ps.cmd 1 < cx.capN → s.walk ps.cmdCtx cx va = .leaf e → s.beingZeroed pa = false →
     ∃ t : State, exec (.capSet p) s = .next (t.answered p 0) ∧ t.readMem pa 16 = d.toNat ∧
       t.tag pa = (e.cap && capTaggable d) ∧ ∀ a, ¬(pa ≤ a ∧ a < pa + 16) → t.byte a = s.byte a)) ∧
  (∀ (s : State) (p : Port), CommandOk s p 9 [[(56, 0)], [(56, 0)]] true →
    (find s.ctxs (s.port p).cmdCtx).isSome = true →
    ∃ t : State, exec (.tlbInval p) s = .next (t.answered p 0) ∧ ∀ k e, e ∈ (t.core k).tlb ∨ e ∈ (t.cluster k).tlb →
      ¬(e.ctx = (s.port p).cmdCtx ∧ e.vbase < (s.port p).cmd 1 + (s.port p).cmd 2 ∧
        (s.port p).cmd 1 < e.vbase + e.size)) ∧
  (∀ (s : State) (p : Port) (cx : Ctx), CommandOk s p 10 [[(15, 0), (28, 16)], [(47, 0)]] true →
    (let ps := s.port p
     let g := bits (ps.cmd 1) 15 0
     let n := bits (ps.cmd 1) 28 16
     let l := (List.range n).map fun i => s.readMem (ps.cmd 2 + 8 * i) 8
     let cx1 : Ctx := { cx with cgrps := if n = 0 then del cx.cgrps g else put cx.cgrps g l }
     let made : State := { s with ctxs := put s.ctxs ps.cmdCtx cx1 }
     find s.ctxs ps.cmdCtx = some cx → n ≤ 4096 → (n ≠ 0 → ps.cmd 2 % 8 = 0 ∧ listOk l = true ∧
       ∀ i, i < n → (s.frame ((ps.cmd 2 + 8 * i) / 65536)).owner = .host p ∧ s.beingZeroed (ps.cmd 2 + 8 * i) = false) →
     exec (.cgrpSet p) s = .next (made.answered p 0))) ∧
  (∀ (s : State) (p : Port), (s.port p).done = false → (s.port p).performed = true →
    ¬((s.port p).op = 9 ∧ (s.port p).status = 0#8 ∧ s.inflightOf (s.port p).cmdCtx = true) →
    exec (.hostCommandDone p) s = .next (s.modPort p fun ps => { ps with done := true }))

/-- FRAME_ASSIGN gives unassigned frames their owner and attribute, FRAME_RELEASE takes them back, FRAME_SCRUB ends a
quarantine but of a frame whose scrub has failed; each zeroes the frames it names and no other byte (R137, R138, R153,
R154, R266, R297). The model's own here: entry 26 of the log. -/
def Obligations.FrameCommands : Prop :=
  (∀ (s : State) (p : Port), CommandOk s p 5 [[(47, 16)], [(33, 0)]] true →
    (let ps := s.port p
     let c := ps.cmdCtx
     let attr := bits (ps.cmd 2) 33 32
     (c = 0x7FFF ∨ (find s.ctxs c).isSome = true) → attr ≠ 3 → s.framesNamed ps = true →
     (∀ n ∈ ps.frameList, (s.frame n).owner = .none ∧ (s.frame n).quarantined = false ∧
       (attr = 2 → s.tierHasCarve n = true)) →
     ∃ t : State, exec (.frameAssign p) s = .next (t.answered p 0) ∧
       (∀ n, t.frame n = if n ∈ ps.frameList then ⟨ownerOf p c, BitVec.ofNat 2 attr, false, false⟩ else s.frame n) ∧
       ∀ a, t.byte a = if a / 65536 ∈ ps.frameList then 0#8 else s.byte a)) ∧
  (∀ (s : State) (p : Port), CommandOk s p 6 [[(47, 16)], [(31, 0)]] true →
    (let ps := s.port p
     s.framesNamed ps = true →
     (∀ n ∈ ps.frameList, (s.frame n).owner = ownerOf p ps.cmdCtx ∧ (s.frame n).quarantined = false) →
     ∃ t : State, exec (.frameRelease p) s = .next (t.answered p 0) ∧
       (∀ n, t.frame n = if n ∈ ps.frameList then frameInit else s.frame n) ∧
       ∀ a, t.byte a = if a / 65536 ∈ ps.frameList then 0#8 else s.byte a)) ∧
  (∀ (s : State) (p : Port), CommandOk s p 7 [[(47, 16)], [(31, 0)]] true →
    (let ps := s.port p
     s.framesNamed ps = true → (∀ n ∈ ps.frameList, (s.frame n).quarantined = true) →
     ∃ t : State, exec (.frameScrub p) s = .next (t.answered p 0) ∧
       (∀ n, n ∈ ps.frameList → (t.frame n).quarantined = (s.frame n).dead ∧ (t.frame n).owner = (s.frame n).owner) ∧
       (∀ n, n ∉ ps.frameList → t.frame n = s.frame n) ∧
       ∀ a, t.byte a = if a / 65536 ∈ ps.frameList then 0#8 else s.byte a))

/-! ### Host registers, interfaces, attestation -/

/-- VX_LIFE sets the life target and its cap and clamps the cord; VX_SCHED and VX_DOMAIN set their register while no
interface is frozen, VX_FLOG the port's log; on a frozen interface each is not performed and the interface drops to
ERROR, its queues being reset. VX_DBGCTL sets a context's debug bits, whatever its reserved bit 15; the remaining registers take the value written, and the
function's configuration space and BARs are frozen like those (R8, R9, R233, R250, R253, R265, R278, R295, R299, R301, R302,
R306). The model's own here: entry 28 of the log. -/
def Obligations.HostRegisters : Prop :=
  (∀ (s : State) (p : Port) (v : Word64),
    (let n := v.toNat
     let d : Device := { s.dev with
       lifeh := bits n 19 0, capwu := bits n 48 32, bal := clampBal s.dev.bal (bits n 48 32) }
     exec (.vxLife p v) s = .next (if bits n 63 49 = 0 ∧ bits n 31 20 = 0 then { s with dev := d } else s))) ∧
  (∀ (s : State) (p : Port) (v : Word32) (w : Word64), (s.port p).frozen = false →
    (let other := (s.port (otherPort p)).frozen
     let n := bits v.toNat 4 0
     exec (.vxSched p v) s = .next (if other = false ∧ n ≤ 16 then { s with dev := { s.dev with rtres := n } } else s) ∧
     exec (.vxDomain p w) s =
       .next (if other = false ∧ w.toNat ≤ 143 then { s with dev := { s.dev with domain := w.toNat } } else s) ∧
     exec (.vxFlog p w) s = .next (if s.flogOk p w.toNat then s.modPort p fun ps => { ps with flog := w } else s))) ∧
  (∀ (s : State) (p : Port) (v : Word32) (w : Word64), (s.port p).frozen = true →
    ∀ i ∈ [Instr.vxSched p v, .vxDomain p w, .vxFlog p w], ∃ t : State, exec i s = .next t ∧ (t.port p).iface = .error ∧
      t.dev = { s.dev with lostPte := t.dev.lostPte } ∧ (t.port p).flog = (s.port p).flog ∧
      ∀ n q, queuePort n = p → find t.queues n = some q → q.resetting = true) ∧
  (∀ (s : State) (p : Port) (v : Word32) (x : Ctx),
    (let n := v.toNat
     let c := bits n 14 0
     let y : Ctx := { x with dbgEn := bit n 16, stopHeat := bit n 17, step := bit n 18 }
     bits n 31 19 = 0 → find s.ctxs c = some x →
     (∃ q ∈ s.queuesOf c, queuePort q = p) → exec (.vxDbgctl p v) s = .next { s with ctxs := put s.ctxs c y })) ∧
  (∀ (s : State) (p : Port) (r : HostReg) (v : Word64), lockFreezes r = true → (s.port p).frozen = true →
    ∃ t : State, exec (.registerWrite p r v) s = .next t ∧ (t.port p).iface = .error ∧
      (t.port p).config = (s.port p).config ∧ (t.port p).bar0 = (s.port p).bar0 ∧ (t.port p).bar2 = (s.port p).bar2 ∧
      ∀ n q, queuePort n = p → find t.queues n = some q → q.resetting = true) ∧
  (∀ (s : State) (p : Port) (r : HostReg) (v : Word64), (lockFreezes r = true → (s.port p).frozen = false) →
    ∃ ps : PortState, exec (.registerWrite p r v) s = .next (s.setPort p ps) ∧
    (∀ i, r = .config i → find ps.config i.val = some (v.truncate 32)) ∧
    (r = .bar true → ps.bar2 = v ∧ ps.bar0 = (s.port p).bar0) ∧ (r = .bar false → ps.bar0 = v ∧ ps.bar2 = (s.port p).bar2) ∧
    (∀ i, r = .hcmd i → (s.port p).done = true → ps.cmd i.val = v.toNat ∧ (∀ j, j ≠ i.val → ps.cmd j = (s.port p).cmd j) ∧
      (i.val = 7 → ps.done = false ∧ ps.performed = false) ∧ (i.val ≠ 7 → ps.done = true)) ∧
    (∀ i, r = .hcmd i → (s.port p).done = false → ps = s.port p) ∧
    (r = .flogw → ps.flogOvf = ((s.port p).flogOvf && !v.getLsbD 63)) ∧
    (r = .flogr → ps.flogR = v.truncate 32) ∧
    (r = .qstat → ps.qstat.getLsbD 63 = ((s.port p).qstat.getLsbD 63 && !v.getLsbD 63)) ∧
    (r = .tdstat → ps.tdstat.getLsbD 63 = ((s.port p).tdstat.getLsbD 63 && !v.getLsbD 63)) ∧
    (r = .hres ∨ r = .sstat → ps = s.port p))

/-- In a secure session of the port an interface goes from unlocked to locked, which fixes its report, to run; a request
that does not suit the state gets an error response; a stop unlocks it, and from RUN or ERROR ends every context of the
port first; a link's security error drops a locked or running interface to ERROR. BAR2 serves the port's own memory, reads
of anything else give ones and writes are dropped; a peer's write reaches memory outside carve-outs and quarantine. SPDM
requests are answered on their port (R155, R290, R292, R294, R300 to R303, R306). The model's own here: requests without a
session change nothing (entry 28 of the log), what a peer's access does (entry 32), the bytes a signature covers (entry
33), BAR2 is served byte by byte (entry 60), and a link key's generation is newer less than 2^15 above the one held (entry
78). -/
def Obligations.InterfacesAndAttestation : Prop :=
  (∀ (s : State) (p : Port), (s.port p).sessions = 0 →
    ∀ i ∈ [Instr.lockInterface p, .startInterface p, .stopInterface p], exec i s = .next s) ∧
  (∀ (s : State) (p : Port), (s.port p).sessions ≠ 0 →
    exec (.lockInterface p) s = .next (if (s.port p).iface = .unlocked then
      s.modPort p fun ps => { ps with iface := .locked, report := s.interfaceReport p } else s.answer p .error) ∧
    exec (.startInterface p) s = .next (if (s.port p).iface = .locked then
      s.modPort p fun ps => { ps with iface := .run } else s.answer p .error)) ∧
  (∀ (s : State) (p : Port), (s.port p).sessions ≠ 0 →
    ∃ t : State, exec (.stopInterface p) s = .next t ∧ (t.port p).iface = .unlocked ∧ (t.port p).report = [] ∧
    (((s.port p).iface = .error ∨ (s.port p).iface = .run) → ∀ c x, find t.ctxs c = some x → x.port ≠ p) ∧
    ∀ c, c ∉ s.ctxsOf p → find t.ctxs c = find s.ctxs c) ∧
  (∀ (s : State) (p : Port), ∃ t : State, exec (.linkSecurityError p) s = .next t ∧
    (((s.port p).iface = .locked ∨ (s.port p).iface = .run) → (t.port p).iface = .error ∧
      ∀ n q, queuePort n = p → find t.queues n = some q → q.resetting = true) ∧
    (((s.port p).iface = .unlocked ∨ (s.port p).iface = .error) → t = s)) ∧
  (∀ (s : State) (p : Port) (tee : Bool) (a n : Nat), (∀ i, i < n → s.beingZeroed (a + i) = false) →
    exec (.bar2Access p tee a n none) s = .next (s.modPort p fun ps => { ps with
      readData := (List.range n).map fun i => if s.served p tee (a + i) then s.byte (a + i) else 0xFF#8 })) ∧
  (∀ (s : State) (p : Port) (tee : Bool) (a n : Nat) (l : List Byte),
    (∀ i, i < l.length → s.beingZeroed (a + i) = false) →
    ∃ t : State, exec (.bar2Access p tee a n (some l)) s = .next t ∧ t.frames = s.frames ∧ t.relays = s.relays ∧
      ∀ b, (t.byte b = if a ≤ b ∧ b < a + l.length ∧ s.served p tee b = true then l.getD (b - a) 0#8 else s.byte b) ∧
        (a ≤ b → b < a + l.length → s.served p tee b = true → t.tag b = false)) ∧
  (∀ (s : State) (k a n : Nat) (op : PeerOp), exec (.peerDeviceAccess ⟨k, .read a n⟩) s = .next s ∧
    (s.linkUp k = false → exec (.peerDeviceAccess ⟨k, op⟩) s = .next s)) ∧
  (∀ (s : State) (k a : Nat) (l : List Byte), s.linkUp k = true →
    (∀ i, i < l.length → s.beingZeroed (a + i) = false) →
    ∃ t : State, exec (.peerDeviceAccess ⟨k, .write a l⟩) s = .next t ∧ t.frames = s.frames ∧ t.relays = s.relays ∧
      ∀ b, (t.byte b = if a ≤ b ∧ b < a + l.length ∧ s.peerReaches b = true then l.getD (b - a) 0#8 else s.byte b) ∧
        (a ≤ b → b < a + l.length → s.peerReaches b = true → t.tag b = false)) ∧
  (∀ (s : State) (p : Port) (n : Nat) (i : Byte) (k : Option (BitVec 16)), ∃ text, ∃ t : State,
    exec (.getCertificate p) s = .next (s.answer p (.certificate Config.certificate)) ∧
    exec (.challenge p n) s = .next (s.answer p (.signature text (Config.sign text n).toNat)) ∧
    exec (.keyExchange p ⟨n, k⟩) s = .next t ∧ (k = none → t.dev = s.dev) ∧
    (∀ g, k = some g → t.dev.linkGen = match s.dev.linkGen with
      | some m => if (g - BitVec.ofNat 16 m).toNat < 2 ^ 15 then some g.toNat else some m
      | none => some g.toNat) ∧ (t.port p).sessions = (s.port p).sessions + 1 ∧
    (t.port p).spdm = (s.port p).spdm ++
      [.signature text (Config.sign text n).toNat, .session ((s.port p).sessions + 1)] ∧
    exec (.getMeasurements p i n) s = .next (match s.measurement p i.toNat n with
      | some b => s.answer p (.measurement i.toNat b (Config.sign b n).toNat)
      | none => s))

/-! ### The front end -/

/-- A batch that passes validation becomes a meet at the end of its queue's list and RIDX passes it; a malformed one
quarantines the queue, a refused one only gets its record. The head meet is dispatched in order: LAUNCH gives a field or
starts a warm-up, WAIT holds while its condition fails, SIGNAL writes or adds once due and vouched for, COPY moves its
bytes; a packet whose access waits for a page holds those behind it (R222 to R232, R480). The model's own here: entries 38
to 42 of the log, and the launch epochs that an accepted batch and a warm-up's further fields take (entry 43). -/
def Obligations.FrontEnd : Prop :=
  (∀ (s0 s1 s2 : State) (n : Nat) (q : Queue) (b : Batch) (v : Verdict),
    (let s := s0.flushOwed n
     let c := b.commit.getD (b.packets.getD 0 0)
     let r := q.ridx + BitVec.ofNat 32 b.length
     find s.queues n = some q → q.resetting = false → s.heldBefore n s.nextId 0 = false →
     (∀ e ∈ s.walks, e.2.who ≠ .warm n) → s.readBatch n q = (s1, .ok b) →
     s1.checkBatch n q b = (s2, v) →
     (∀ l, v = .accepted l → ∃ t m, exec (.batchValidation n) s0 = .next t ∧ find t.meets s2.nextId = some m ∧
       m.queue = n ∧ m.packets = b.packets ∧ t.dev.epoch = (s2.dev.epoch + l.length) % 65536 ∧
       m.protos = l.zipIdx.map (fun e => (e.1.1, { e.1.2 with epoch := (s2.dev.epoch + 1 + e.2) % 65536 })) ∧ m.pos = 0 ∧ m.begun = false ∧ m.tag = pTag c ∧
       find t.queues n = some { q with ridx := r, pending := q.pending ++ [s2.nextId] }) ∧
     (∀ i tag, v = .malformed i tag → (∀ e ∈ s2.relays, e.2.place = none) → ∃ t x, exec (.batchValidation n) s0 = .next t ∧ find t.queues n = some x ∧
       x.quar = true ∧ x.ridx = r ∧ x.pending = q.pending ∧ t.meets = s.meets ∧
       t.mem = (s2.owe n s2.nextId i (b.compl q.cap) (recordBits 3 0 0 tag 0 i)).mem) ∧
     (∀ i tag, v = .malformed i tag →
       (let s3 := (s2.owe n s2.nextId i (b.compl q.cap) (recordBits 3 0 0 tag 0 i)).useId
        exec (.batchValidation n) s0 = .next ((s3.demote n).modQueue n fun q =>
          { q with ridx := q.ridx + BitVec.ofNat 32 b.length }))) ∧
     (∀ i tag reason, v = .refused i tag reason → ∃ t x, exec (.batchValidation n) s0 = .next t ∧
       find t.queues n = some x ∧ x.quar = q.quar ∧ x.ridx = r ∧ x.pending = q.pending ∧ t.meets = s.meets ∧
       t.mem = (s2.owe n s2.nextId i (b.compl q.cap) (recordBits 2 reason 0 tag 0 i)).mem))) ∧
  (∀ (s : State) (n mid : Nat) (q : Queue) (m : Meet) (ks : List Nat), find s.queues n = some q → q.pending = mid :: ks →
    q.resetting = false → find s.meets mid = some m → m.begun = false → s.heldBefore n mid 0 = false →
    ∃ t : State, exec (.meetDispatch n) s = .next t ∧ t.fields = s.fields ∧ t.relays = s.relays ∧
      ∀ m1, find t.meets mid = some m1 → m1.begun = true ∧ m.pos ≤ m1.pos ∧
        (∀ i, m.pos ≤ i → i < m1.pos → pType (m.packet i) = tNop ∨ pType (m.packet i) = tSignal) ∧
        (m1.pos < m.packets.length → pType (m.packet m1.pos) ≠ tNop ∧ pType (m.packet m1.pos) ≠ tSignal)) ∧
  (∀ (s : State) (n mid p : Nat) (m : Meet) (f : Field), s.atFree n = some (mid, m, p) → find m.protos m.pos = some f →
    find s.warms n = none →
    (lWoff p = noWarm → exec (.launch n) s = .next ((s.addField mid m.pos f).passLaunch n mid m.pos) ∧
      ∀ q, find s.queues f.queue = some q → q.quar = false → q.cleared = false → ∃ t : State, exec (.launch n) s = .next t ∧
        find t.fields s.nextId = some { f with
          meet := mid, packet := m.pos, quar := false,
          epoch := if getD 0 m.nfield m.pos = 0 then f.epoch else (s.dev.epoch + 1) % 65536 } ∧
        ∀ k, k ≠ s.nextId → find t.fields k = find s.fields k) ∧
    (∀ (s1 s2 : State) l caps, lWoff p ≠ noWarm → s.readParams n p = (s1, .ok l) →
      s1.launchCaps (.front n) f.ctx f.capBase f.ncap = (s2, some caps) →
      (let t : State := { s2 with warms := put s2.warms n (warmStart f p l caps) }
       exec (.launch n) s = .next (t.setPState mid m.pos .idle)))) ∧
  (∀ (s s1 : State) (n mid p v : Nat) (m : Meet), s.atFree n = some (mid, m, p) → pType p = tWait →
    s.frontRead n (bits (pq p 1) 56 0) 8 = (s1, .val v) →
    (let x := pq p 2
     let holds : Bool := if bits p 9 8 = 0 then x ≤ v else if bits p 9 8 = 1 then v = x else v ≠ x
     (holds = false → exec (.wait n) s = .next (s1.setPState mid m.pos .idle)) ∧
     (holds = true → ∃ t : State, exec (.wait n) s = .next t ∧ t.fields = s.fields ∧
       ∀ m1, find t.meets mid = some m1 → m.pos < m1.pos))) ∧
  (∀ (s : State) (mid i : Nat) (m : Meet), find s.meets mid = some m → pType (m.packet i) = tSignal → s.underWay mid i m = true →
    s.signalDue mid m (m.packet i) = true →
    (let p := m.packet i
     let off := bits (pq p 1) 56 0
     let vouch := bit p 10
     let fs := s.signalled mid m
     (vouch = true → (∃ e ∈ fs, e.2.suspect = true) →
       exec (.signal mid i) s = .next ((s.ownRecord mid i 9 0 0 0).settleMeet mid)) ∧
     (vouch = true → (∀ e ∈ fs, e.2.suspect = false) → (∃ e ∈ fs, e.2.used ≠ []) → exec (.signal mid i) s = .next s) ∧
     ((vouch = true → ∀ e ∈ fs, e.2.suspect = false ∧ e.2.used = []) → ∀ (s1 s2 : State) old,
       s.frontRead m.queue off 8 = (s1, .val old) →
       s1.frontWrite m.queue off 8 (if bit p 8 then (old + pq p 2) % 2 ^ 64 else pq p 2) = (s2, .val 0) →
       exec (.signal mid i) s = .next ((s2.ownRecord mid i 1 0 0 0).settleMeet mid)))) ∧
  (∀ (s : State) (mid i : Nat) (m : Meet), find s.meets mid = some m → m.begun = true → m.pos = i → i < m.packets.length →
    pType (m.packet i) = tCopy → (m.grouped = true ∨ ∀ e ∈ s.earlier m.queue mid, e.2.ended ≠ .live) →
    (∀ q, find s.queues m.queue = some q → q.resetting = false) → s.heldBefore m.queue mid i = false →
    ∃ t m1, exec (.copy mid i) s = .next t ∧ find t.meets mid = some m1 ∧ i < m1.pos ∧ m1.state i = .armed) ∧
  (∀ (s s1 : State) (mid i k : Nat) (m : Meet) (v : FrontVal), find s.meets mid = some m → pType (m.packet i) = tCopy →
    s.underWay mid i m = true →
    (let q := fun n => pq (m.packet i) n
     let k0 := getD 0 m.copied i
     let ended (status cause : Nat) : State := ((s1.modMeet mid fun m => { m with copied := put m.copied i k }).ownRecord
       mid i status 0 cause 0).settleMeet mid
     s.copyUnits m.queue (bits (q 1) 56 0) (bits (q 2) 56 0) (bits (q 3) 31 0 / 16 - k0) k0 = (s1, k, v) →
     (∀ x, v = .val x → exec (.copyDone mid i) s = .next (ended 1 0)) ∧
     (∀ c, v = .cause c → exec (.copyDone mid i) s = .next (ended 8 c)) ∧
     (v = .wait → exec (.copyDone mid i) s =
       .next ((s1.modMeet mid fun m => { m with copied := put m.copied i k }).setPState mid i .waiting))))

/-! ### Host fault control -/

/-- A write of VX_FCTL that names the entry of an escalated fragment acts on it: its lanes run again at their word, run past
it, or exit, and the fragment is gone; a fragment that has been reused since is left alone. The fourth operation tears the
context down (R252, R264, R265). -/
def Obligations.FaultControl : Prop :=
  (∀ (s : State) (p : Port) (v : Word64), ∀ row ∈ [(Instr.fctlRetry p v, 1), (.fctlSkip p v, 2), (.fctlKill p v, 3)],
    ∀ (r : LogRef) (u : UnitRef) (x : Strand) (fr : Frag), s.fctl p v.toNat = some (row.2, r) → r.kind = 1 →
    r.unit = some u → s.strand u = some x → find x.frags (x.fidOf r.fid) = some fr → fr.phase = .escalated →
    (let fid := x.fidOf r.fid
     (fr.gen ≠ r.gen → exec row.1 s = .next s) ∧
     (fr.gen = r.gen → s.unitLost u = false → (∀ i, (x.fragLanes fid).getLsbD i = true → (x.lane i).held = none) → ∃ (t : State) (y : Strand), exec row.1 s = .next t ∧ t.strand u = some y ∧
       (s.stepping ⟨u, 0#32, none⟩ = false → row.2 ≠ 3 → find y.frags fid = none) ∧
       ∀ i, (x.fragLanes fid).getLsbD i = true → (y.lane i).frag = none ∧
         (y.lane i).ls = (if row.2 = 3 then .exited else .running) ∧
         (row.2 ≠ 3 → (y.lane i).lpc = (x.lane i).lpc +
           (if row.2 = 2 then BitVec.ofNat 32 (s.wordSize u (x.lane i).lpc) else 0#32)) ∧
         (y.lane i).v = (x.lane i).v ∧ (y.lane i).p = (x.lane i).p))) ∧
  (∀ (s : State) (p : Port) (v : Word64) (r : LogRef), s.fctl p v.toNat = some (4, r) →
    (find s.ctxs r.ctx).isSome = true →
    ∃ t : State, exec (.hostTeardown p v) s = .next t ∧ find t.ctxs r.ctx = none ∧
      (∀ n q, find t.queues n = some q → q.context ≠ r.ctx) ∧
      (∀ e ∈ t.relays, ∀ f, find s.fields e.2.field = some f → f.ctx ≠ r.ctx) ∧
      ∀ n, (s.frame n).owner = .ctx r.ctx → (t.frame n).owner = .none)

/-! ### The distributor -/

/-- A relay is placed, or returns, on the best of the clusters that may hold it; a quiet relay retires and with the last
one its field; a concurrent field that no longer fits is lost. Relays migrate, their squads' slices expire, and they are
asked to leave and leave where work of a higher claim waits (R45, R46, R49 to R51, R142, R229, R234 to R240, R243). A relay
placed has its backing and save area in frames that were nobody's, zeroed. The model's own here: which core takes which
squad (entry 20 of the log), a relay waits until memory holds its regions and the 0x5C of a save area lost (entry 30), whose
turn the partition has after a slice (entries 61 and 79), which evicted relay of a parallel field returns first (entry 70),
how a concurrent field is found to fit no more (entry 71), why a relay migrates and that no room is asked for where
migration makes it (entry 80), and the class of a field whose queue is demoted (entry 84). -/
def Obligations.Placement : Prop :=
  (∀ (s s1 : State) (fid lin c : Nat) (f : Field) (a : List (Nat × Nat × List Nat)) (caps : List Cap),
    find s.fields fid = some f → (s.evicted fid).find? (fun e => decide (e.2.linear = lin)) = none →
    s.mayPlace fid f lin = true → s.Chooses f ((List.range (hdrRelay f)).map fun q => (q, [])) none c a →
    s.launchCaps (.place fid) f.ctx f.capBase f.ncap = (s1, some caps) →
    (let lc := (s.mapped f c).getD 0
     s1.holdsRegions f (relayStart fid f lin lc c (listed a lc) caps) = true →
     ∃ (t : State) (rl : Relay) (g : Field), exec (.relayPlacement fid lin) s = .next t ∧
       find t.relays s1.nextId = some rl ∧ rl.field = fid ∧ rl.linear = lin ∧ rl.place = some c ∧
       s.mapped f c = some rl.lcluster ∧ (∀ q k l, find rl.squads q = some k → a.find? (fun e => decide (e.1 = q)) = some l →
         k.core = l.2.1 ∧ k.slots = l.2.2) ∧
       find t.fields fid = some g ∧ g.placed = f.placed ++ [lin] ∧ g.quar = f.quar ∧
       (∀ k ∈ rl.backing.frames ++ rl.save.frames, s1.frame k = frameInit ∧ (t.frame k).owner = .area f.ctx) ∧
       ∀ b, (b / 65536 ∈ rl.backing.frames ++ rl.save.frames → t.byte b = 0#8 ∧ t.tag b = false) ∧
         (b / 65536 ∉ rl.backing.frames ++ rl.save.frames → t.byte b = s1.byte b ∧ t.tag b = s1.tag b))) ∧
  (∀ (s : State) (fid lin r c : Nat) (f : Field) (rl : Relay) (a : List (Nat × Nat × List Nat)),
    find s.fields fid = some f → (s.evicted fid).find? (fun e => decide (e.2.linear = lin)) = some (r, rl) →
    s.mayReturn fid f rl = true → f.mode ≠ 2 → s.Chooses f rl.toSeat (some r) c a → find s.relays r = some rl →
    (rl.save.bad = false → ∃ (t : State) (y : Relay), exec (.relayPlacement fid lin) s = .next t ∧
      find t.relays r = some y ∧ y.place = some c) ∧
    (rl.save.bad = true → find s.fields rl.field = some f →
      exec (.relayPlacement fid lin) s = .next ((s.teardown f.ctx 0x5C rl.save.frames).modRelay r Relay.renewed))) ∧
  (∀ (s : State) (fid lin r : Nat) (f : Field) (rl : Relay), find s.fields fid = some f →
    (s.evicted fid).find? (fun e => decide (e.2.linear = lin)) = some (r, rl) → s.mayReturn fid f rl = true → f.mode = 2 →
    (s.returnAll f (s.evicted fid) = none → exec (.relayPlacement fid lin) s = .next s) ∧
    (∀ t, s.returnAll f (s.evicted fid) = some t → exec (.relayPlacement fid lin) s = .next t ∧
      ((∀ e ∈ s.evicted fid, find s.relays e.1 = some e.2 ∧ e.2.save.bad = false) →
        ∀ e ∈ s.evicted fid, ∃ y, find t.relays e.1 = some y ∧ y.place.isSome = true))) ∧
  (∀ (s : State) (r : Nat) (rl : Relay) (f : Field), find s.relays r = some rl → rl.quiet = true → rl.stopped = false →
    rl.place.isSome = true → find s.fields rl.field = some f →
    ∃ t : State, exec (.relayRetirement r) s = .next t ∧ find t.relays r = none ∧
      ∀ g, find t.fields rl.field = some g → g.retired = f.retired + 1 ∧
        ((g.retired = f.total → g.ended ≠ .live) ∧ (g.retired ≠ f.total → g.ended = f.ended))) ∧
  (∀ (s : State) (fid : Nat) (f : Field), find s.fields fid = some f → f.mode = 2 → f.ended = .live →
    (let room := ((s.partition f).filter fun c => (s.mapped f c).isSome).length
     (f.total ≤ capOf f 3 * room ∨ f.stopped = true → exec (.concurrencyLost fid) s = .next s) ∧
     (capOf f 3 * room < f.total → f.stopped = false → ∃ t : State, exec (.concurrencyLost fid) s = .next t ∧
       (∀ e ∈ t.relays, e.2.field ≠ fid) ∧ ∀ g, find t.fields fid = some g → g.ended = .lost))) ∧
  (∀ (s : State) (r c : Nat) (rl : Relay) (f : Field) (a : List (Nat × Nat × List Nat)), find s.relays r = some rl →
    find s.fields rl.field = some f → rl.place.isSome = true → rl.place ≠ some c → rl.stopped = false →
    (∀ d, rl.place = some d → s.mustMove rl f d = true) → s.eligible c f (some r) = true →
    (s.mapped f c).isSome = true → s.fitOn c f rl.toSeat (some r) = some a → rl.save.bad = false →
    ∃ (t : State) (y : Relay), exec (.migration r c) s = .next t ∧ find t.relays r = some y ∧ y.place = some c ∧
      y.linear = rl.linear ∧ y.field = rl.field ∧ y.scratch = rl.scratch ∧ t.mem = s.mem ∧
      ∀ n, n ≠ r → find t.relays n = find s.relays n) ∧
  (∀ (s : State) (r c : Nat) (rl : Relay) (f : Field), find s.relays r = some rl → find s.fields rl.field = some f →
    (∀ d, rl.place = some d → d ≠ c → s.mustMove rl f d = false → exec (.migration r c) s = .next s) ∧
    (rl.place = some c → rl.stopped = false → (∀ e ∈ s.relays, find s.relays e.1 = some e.2) →
      ∃ t : State, exec (.migration r c) s = .next t ∧ t.mem = s.mem ∧
      ∀ n x, find s.relays n = some x → ∃ y, find t.relays n = some y ∧ y.place = x.place ∧ y.scratch = x.scratch)) ∧
  (∀ (s : State) (r q : Nat) (rl : Relay) (k : Squad), find s.relays r = some rl → rl.place.isSome = true →
    rl.squadRetired q = false → find rl.squads q = some k → k.expired = none →
    (let k1 : Squad := { k with expired := some s.tick }
     let s1 : State := s.modRelay r fun rl => { rl with squads := put rl.squads q k1 }
     exec (.sliceExpiry r q) s =
       .next (if s.relayQuar rl = true ∧ s.quarTurn = some (s.relayQueue rl) then s1.passTurn else s1))) ∧
  (∀ (s : State) (fid lin : Nat) (f : Field), find s.fields fid = some f →
    (let back := (s.evicted fid).find? fun e => decide (e.2.linear = lin)
     let wants := match back with
       | some e => s.mayReturn fid f e.2
       | none => s.mayPlace fid f lin
     let squads := match back with
       | some e => e.2.toSeat
       | none => (List.range (hdrRelay f)).map fun q => (q, [])
     let r := back.map fun e => e.1
     let fits := (s.best f squads r fun c => (s.mapped f c).isSome).isSome
     ((wants = false ∨ fits = true ∨ s.migrationHelps (f, squads, r) = true) → exec (.preemption fid lin) s = .next s) ∧
     (wants = true → fits = false → s.migrationHelps (f, squads, r) = false → ∃ t : State, exec (.preemption fid lin) s = .next t ∧
       ∀ k ∈ s.makeRoom f squads r, ∀ y, find t.relays k = some y →
        y.place = none ∨ ∀ e ∈ y.squads, y.squadRetired e.1 = false → e.2.yreq = true ∧ e.2.evicting = true))) ∧
  (∀ (s : State) (r q : Nat) (rl : Relay) (k : Squad), find s.relays r = some rl → find rl.squads q = some k →
    k.evicting = true → ∃ t : State, exec (.yieldDeadline r q) s = .next t ∧
      ∀ y, find t.relays r = some y → y.place = none ∨ ∃ k1, find y.squads q = some k1 ∧ k1.deadline = true)

/-! ### Wear, rotation, clocks, sensors -/

/-- An active unit's record takes the stress of an interval and the cord what the target allows less what it cost; a
unit that crosses takes its cluster out of service. Rotation passes on once a core holds no squad; a scan that fails
makes every field that drew on the unit suspect. A boost's level raises the clock until its cycles are spent or the core
is hot; sensors and droops set what they name (R19, R21, R256 to R258, R271 to R276, R280, R283, R286, R287). The
model's own here: entries 1, 17, 18, 46 and 47 of the log, and ACTIVE counts modulo 2^48 (entry 66). -/
def Obligations.WearAndClocks : Prop :=
  (∀ (s : State) (k : WearKind) (i mv act : Nat) (mon : BitVec 16), i < kindCount k → (s.wearRec k i).state = 0 →
    s.resting k i = false → s.justExchanged k i = false → s.justDecided k i = false →
    (let r := (s.ungate k i).wearRec k i
     let d := incs k (supplyIndex mv) (tempIndex (s.unitTemp k i)) (min act 256)
     let n := r.integrate d mon.toNat
     (n.crosses k = false → ∃ t : State, exec (.wearIntegration k i mv act mon) s = .next t ∧
       (let z := t.wearRec k i
        z.bti = min (r.bti + d.1) (2 ^ 48 - 1) ∧ z.hci = min (r.hci + d.2.1) (2 ^ 48 - 1) ∧
        z.em = min (r.em + d.2.2) (2 ^ 48 - 1) ∧ z.since = min (r.since + d.1) (2 ^ 48 - 1) ∧
        z.active = (r.active + 1) % 2 ^ 48 ∧ z.mon = mon.toNat ∧ z.state = 0 ∧ z.rest = r.rest ∧ z.seq = r.seq + 1#32) ∧
       (unitCluster k i = none → t.dev.bal = s.dev.bal) ∧
       (unitCluster k i ≠ none → s.boosted k i = false → t.dev.bal =
         clampBal (s.dev.bal + allow k s.dev.lifeh - (d.1 + d.2.1 + d.2.2 : Nat)) s.dev.capwu)) ∧
     (n.crosses k = true → ∃ t : State, exec (.wearIntegration k i mv act mon) s = .next t ∧
       ∀ c, unitCluster k i = some c → (t.cluster c).status = .retired))) ∧
  (∀ (s : State) (k : WearKind) (i mv act : Nat) (mon : BitVec 16),
    (((s.wearRec k i).state ≠ 0 ∧ s.justExchanged k i = false) ∨ s.resting k i = true ∨
      (s.justDecided k i = true ∧ s.justExchanged k i = false)) →
    exec (.wearIntegration k i mv act mon) s = .next s) ∧
  (∀ (s : State) (g p : Nat) (G : RotGroup) (pass : Bool), find s.rot g = some G → G.scanning = true → G.current = p →
    p ∈ G.members → ∃ t : State, exec (.rotationScanDone g pass) s = .next t ∧
      (pass = true → find t.rot g = some { G with scanning := false }) ∧
      (pass = true → G.slices = false → (t.core p).passes = (s.core p).passes + 1) ∧
      (pass = true → G.slices = true →
        ((find t.slices p).getD sliceInit).passes = ((find s.slices p).getD sliceInit).passes + 1) ∧
      (pass = false → G.slices = false → (t.cluster (p / 4)).status = .retired) ∧
      (pass = false → G.slices = true → ((find t.slices p).getD sliceInit).present = false) ∧
      (pass = false → ∀ fid f f1, find s.fields fid = some f →
        (∃ e ∈ f.used, e.1 = if G.slices then .slice p else .core p) → find t.fields fid = some f1 → f1.suspect = true)) ∧
  (∀ (s : State) (g n : Nat) (G : RotGroup) (l r : List Nat), find s.rot g = some G → G.scanning = false →
    G.members = l ++ G.current :: r → G.current ∉ l → (r ++ l ++ [G.current]).head? = some n →
    (if G.slices = false ∧ n ≠ G.current ∧ (s.coreUse none n).slots ≠ [] then exec (.rotationSlotEnd g) s = .next s
     else ∃ t : State, exec (.rotationSlotEnd g) s = .next t ∧
       find t.rot g = some { G with current := n, scanning := true } ∧ t.relays = s.relays)) ∧
  (∀ (s : State) (c : Nat) (pass : Bool), (s.cluster c).arrayDue = false → exec (.tileArrayScan c pass) s = .next s) ∧
  (∀ (s : State) (c : Nat) (pass : Bool), (s.cluster c).status = .active → c < 104 → (s.cluster c).arrayDue = true →
    (∀ e ∈ s.residents c none, e.2.pacer = none) → ∃ t : State, exec (.tileArrayScan c pass) s = .next t ∧
      (pass = true → t.cluster c = { s.cluster c with
        arrayPasses := (s.cluster c).arrayPasses + 1, arrayPass := (s.cluster c).cyc.toNat }) ∧
      (pass = false → (t.cluster c).status = .retired)) ∧
  (∀ (s : State) (c : Nat) (g : Grant), (s.cluster c).grant = some g →
    (let cl := s.cluster c
     let g1 : Grant := { g with since := some cl.cyc.toNat }
     let on : Cluster := { cl with grant := some g1, mhz := 2700 + 100 * g.level }
     let off : Cluster := { cl with grant := none, mhz := min cl.mhz 2700 }
     exec (.boostLevelReached c) s = .next (if g.since = none then s.setCluster c on else s) ∧
     exec (.boostGrantEnd c) s = .next (if cl.grantSpent g = true then s.setCluster c off else s))) ∧
  (∀ (s : State) (n : Nat) (v : Int), ∃ t u w x y : State,
    exec (.sensorSample (.core n) v) s = .next t ∧ exec (.sensorSample (.pacer n) v) s = .next u ∧
    exec (.sensorSample (.array n) v) s = .next w ∧ exec (.sensorSample (.slice n) v) s = .next x ∧
    exec (.sensorSample (.link n) v) s = .next y ∧
    (n < 416 → t.unitTemp .core n = v ∧ (95 ≤ v → (t.cluster (n / 4)).grant = none) ∧
      (v < 95 → (t.cluster (n / 4)).grant = (s.cluster (n / 4)).grant)) ∧
    (n < 104 → u.unitTemp .pacer n = v ∧ w.unitTemp .array n = v) ∧ (n < 256 → x.unitTemp .slice n = v) ∧
    (n < 18 → y.unitTemp .link n = v)) ∧
  (∀ (s : State) (n i : Nat) (v : Int), n < 4 → i < 3 → ∃ z : State, exec (.sensorSample (.stack n i) v) s = .next z ∧
      (let d := (find z.dies n).getD dieInit
       getD 0 d.stackT i = v ∧ (85 < v → getD false d.refx2 i = true) ∧ (v ≤ 82 → getD false d.refx2 i = false) ∧
       (82 < v → v ≤ 85 → getD false d.refx2 i = getD false ((find s.dies n).getD dieInit).refx2 i))) ∧
  (∀ (s : State) (c mhz : Nat), c < 104 → (s.cluster c).status = .active →
    exec (.supplyDroop c mhz) s =
      .next (s.setCluster c { s.cluster c with mhz := max 2200 (min mhz (s.cluster c).fullMhz) }))

/-! ### Memory events -/

/-- A walk ends in a translation, in a request to the host, or in a cause for the lanes that asked; once every page is
mapped the fragment's lanes run again. A page that a unit waits for comes into a free frame, or into that of the page evicted for it, and units that wait for it or
for a bank go on when it is there; a zeroed frame may be accessed, and takes the log entries owed to it; a sector that leaves
the cache loses its record, but for what its marked writes hand on (entry 8 of the log); verified data loses its mark (R72, R73, R132, R133, R141, R143, R154, R180, R261, R389). The model's own here: an access performed
only lowers the count of those in flight (entry 7 of the log), and entries 31 and 81. -/
def Obligations.MemoryEvents : Prop :=
  (∀ (s : State) (n fid : Nat) (w : Walk) (u : UnitRef) (x : Strand) (fr : Frag), find s.walks n = some w →
    w.who = .fragment u fid → s.strand u = some x → find x.frags fid = some fr →
    (let denied (t : State) (c : Nat) : Prop := ∃ (y : Strand) (g : Frag), t.strand u = some y ∧
       find y.frags fid = some g ∧ g.replay = false ∧
       ∀ i, (x.fragLanes fid).getLsbD i = true → (x.lane i).fva.toNat / 65536 = w.va / 65536 → (x.lane i).own = 0x10#7 →
         (y.lane i).own = BitVec.ofNat 7 c ∧ (y.lane i).ls = (x.lane i).ls ∧ (y.lane i).lpc = (x.lane i).lpc
     (w.asked = false → ∀ e, s.walkNow w = .leaf e →
       ∃ t : State, exec (.translationWalkDone n) s = .next t ∧ t.walks = del s.walks n ∧ t.relays = s.relays) ∧
     (w.asked = false → s.walkNow w = .ask →
       exec (.translationWalkDone n) s = .next { s with walks := put s.walks n { w with asked := true } }) ∧
     (w.asked = false → ∀ c, s.walkNow w = .cause c →
       ∃ t : State, exec (.translationWalkDone n) s = .next t ∧ denied t c) ∧
     (w.asked = true → ∃ t : State, exec (.mappingDeclined n) s = .next t ∧ denied t 0x10))) ∧
  (∀ (s : State) (u : UnitRef) (fid : Nat) (x : Strand) (fr : Frag), s.strand u = some x → find x.frags fid = some fr →
    fr.replay = true → fr.phase = .waiting →
    (∀ e ∈ s.walks, e.2.who = .fragment u fid → e.2.asked = true ∧ ∃ l, s.walkNow e.2 = .leaf l) →
    ∃ (s1 : State) (y : Strand), exec (.fragmentReplay u fid) s = .next (s1.settleBars u) ∧ s1.strand u = some y ∧
      find y.frags fid = none ∧ (∀ e ∈ s1.walks, e.2.who ≠ .fragment u fid) ∧
      ∀ i, (x.fragLanes fid).getLsbD i = true →
        y.lane i = { x.lane i with ls := .running, frag := none, own := 0#7, fva := 0#57 }) ∧
  (∀ (s : State) (r n : Nat) (rl : Relay), find s.relays r = some rl →
    (rl.place.isSome = true → ∃ (t : State) (y : Relay), exec (.scratchRefill r n) s = .next t ∧ find t.relays r = some y ∧
      ((rl.page n).resident = true → (y.page n).resident = true) ∧
      (∀ f, find s.fields rl.field = some f → rl.pageWanted n = true → n < scratchPages f →
        (rl.freeFrames ≠ [] ∨ ∃ v, rl.victim (fun _ _ => true) = some v ∧ (rl.pageOut v).freeFrames ≠ []) →
        (y.page n).resident = true) ∧
      ((y.page n).resident = true → (∀ e ∈ y.heats, e.2.waiting ≠ .page n) ∧ ∀ x, y.pacer = some x → x.waiting ≠ .page n) ∧
      ∀ a m, a ≤ n → n < a + m → (∀ k, a ≤ k → k < a + m → (y.page k).resident = true) →
        (∀ e ∈ y.heats, e.2.waiting ≠ .pins a m) ∧ ∀ x, y.pacer = some x → x.waiting ≠ .pins a m) ∧
    (∃ (t : State) (y : Relay), exec (.bankmodeTransitionDone r n) s = .next t ∧ find t.relays r = some y ∧
      (y.bank n).busy = false ∧ (∀ e ∈ y.heats, e.2.waiting ≠ .bank n) ∧ ∀ x, y.pacer = some x → x.waiting ≠ .bank n)) ∧
  (∀ (s : State) (n : Nat), ∃ t u : State, exec (.zeroingComplete n) s = .next t ∧
    ((∀ p, ∀ e ∈ (s.port p).logOwed, e.1 / 65536 ≠ n) → t.mem = s.mem) ∧
    (∀ p a v, (s.port p).logOwed = [(a, v)] → (s.port (otherPort p)).logOwed = [] → a / 65536 = n →
      t.readMem a 32 = v % 2 ^ 256) ∧
    (∀ p, (t.port p).logOwed = (s.port p).logOwed.filter fun e => e.1 / 65536 ≠ n) ∧
    (∀ a, t.beingZeroed a = (s.beingZeroed a && !decide (a / 65536 = n))) ∧
    exec (.cacheSectorEviction n) s = .next u ∧
    (∀ x, find u.records n = some x → x = { recNone with chain := x.chain }) ∧
    (∀ k, k ≠ n → find u.records k = find s.records k) ∧ u.mem = s.mem ∧ u.relays = s.relays) ∧
  (∀ (s : State) (u : UnitRef) (x : Strand) (k : Nat), s.strand u = some x → ∃ (t v : State) (y : Strand),
    exec (.dataVerified ⟨u, k⟩) s = .next t ∧ t.strand u = some y ∧
    (∀ i n, ((y.lane i).reg n) = ⟨((x.lane i).reg n).val, ((x.lane i).reg n).taint.resolve k true⟩ ∧
      ((y.lane i).pred n) = ⟨((x.lane i).pred n).val, ((x.lane i).pred n).taint.resolve k true⟩) ∧
    (∀ n, y.sreg n = ⟨(x.sreg n).val, (x.sreg n).taint.resolve k true⟩) ∧
    exec (.accessPerformed u) s = .next v ∧ v.strand u = some { x with inflight := x.inflight - 1 })

/-! ### Engines, the tile array, handlers -/

/-- A copy engine moves the next 16 bytes of the command at the head of its queue; a command ends with its last unit or
a false guard, and its counter counts it. A matrix entry that passes commits its result, an MMA whose residue fails is
replayed up to the limit. An MSTORE entry writes the converted rows of its accumulator through its tensor. An outstanding instruction's results land; a
waiting fragment's lowest lane enters the handler (R74, R84, R86, R109, R191 to R194, R197, R204 to R209, R421). The model's
own here: results land at their completion (entry 11 of the log), the rows of a FIFO side (entry 65), entries 45 and 68, what
a window gives back (entry 82), slots that stand for released ones (entry 83), and the records a write sets (entry 89). -/
def Obligations.Engines : Prop :=
  (∀ (s s1 s2 : State) (r q : Nat) (rl : Relay) (c : Command) (rest : List QItem) (f : Field) (ls ld : Loc),
    find s.relays r = some rl → (rl.queue q).items = .command c :: rest → find s.fields rl.field = some f → q < 9 →
    rl.active = true → c.done < c.units → rl.guardOf c = .yes →
    (let upr := c.rowBytes / 16
     let row := (s.takeHand r q).sourceRow r q c (c.done / upr) (16 * (c.done % upr))
     row.1.srcUnit r q f.ctx (scratchRounded f) c row.2 (16 * (c.done % upr)) = (s1, .at ls) →
     (s1.useSlice (.pacer r) ls).dstUnit r q f.ctx c (c.done / upr) (16 * (c.done % upr)) = (s2, .at ld) →
     ∃ (t s3 : State) (y : Relay) (c1 : Command) (rest1 : List QItem), exec (.copyEngineTransfer r q) s = .next t ∧
       t = s3.passHead r q (fun c1 => { c1 with done := c.done + 1, row := row.2 }) ∧
       s3.readLoc (.pacer r) ld 16 = s1.readLoc (.pacer r) ls 16 ∧
       ((∀ k, c.dst ≠ .fifo k) → t.readLoc (.pacer r) ld 16 = s1.readLoc (.pacer r) ls 16) ∧ find t.relays r = some y ∧
       (y.queue q).items = .command c1 :: rest1 ∧ c1.done = c.done + 1 ∧ c1.rows = c.rows ∧ c1.cnt = c.cnt)) ∧
  (∀ (s : State) (r q : Nat) (rl : Relay) (c : Command) (rest : List QItem), find s.relays r = some rl →
    (rl.queue q).items = .command c :: rest → rl.active = true →
    (rl.guardOf c = .no ∨ (rl.guardOf c = .yes ∧ q < 9 ∧ c.units ≤ c.done)) →
    ∃ (t : State) (y : Relay), exec (.commandCompletion r q) s = .next t ∧ find t.relays r = some y ∧
      (∀ d, QItem.command d ∈ (y.queue q).items ↔ QItem.command d ∈ rest) ∧
      ∀ n, y.counter n = if c.cnt = some n then countUp (rl.counter n) none none else rl.counter n) ∧
  (∀ (s : State) (r : Nat) (rl rl1 : Relay) (e : MEntry) (rest : List MItem) (f : Field), find s.relays r = some rl →
    rl.mq = .entry e :: rest → find s.fields rl.field = some f → rl.active = true → rl.mqerr.getLsbD 31 = false →
    (e.begun = false → rl.beginEntry e (scratchRounded f) (ownedBanks f) (s.freeNat 4) = .begun rl1 →
      ∃ t : State, exec (.matrixEntryBegin r) s = .next t ∧ find t.relays r = some rl1 ∧ t.mem = s.mem ∧
      (∀ k, k ≠ r → find t.relays k = find s.relays k) ∧
      ∃ e1, rl1.mq = .entry e1 :: rest ∧ e1.begun = true ∧ e1.op = e.op) ∧
    (e.begun = true → ∀ residue,
      (∀ n, e.op = .mzero n → ∃ (t : State) (y : Relay), exec (.matrixEntryComplete r residue) s = .next t ∧
        find t.relays r = some y ∧ (∀ i j, i < 128 → j < 128 → y.cell n i j = 0#32) ∧
        ∀ m i j, m ≠ n → i < 128 → j < 128 → y.cell m i j = rl.cell m i j) ∧
      (∀ n tt, e.op = .mlda n tt → ∃ (t : State) (y : Relay), exec (.matrixEntryComplete r residue) s = .next t ∧
        find t.relays r = some y ∧ (∀ i j, i < 128 → j < 128 →
          y.cell n i j = BitVec.ofNat 32 (rl.readScr (tt.base + phys tt.swzCode tt.stride i (4 * j)) 4)) ∧
        ∀ m i j, m ≠ n → i < 128 → j < 128 → y.cell m i j = rl.cell m i j) ∧
      (∀ n a b k, e.op = .mma n a b k → rl.mmaInvalid a b e.slots k = false → residue = true →
        ∃ (t : State) (y : Relay), exec (.matrixEntryComplete r residue) s = .next t ∧ find t.relays r = some y ∧
        (∀ i j, i < 128 → j < 128 → y.cell n i j = BitVec.ofNat 32 (rl.mmaResult n a b e.slots k i j)) ∧
        ∀ m i j, m ≠ n → i < 128 → j < 128 → y.cell m i j = rl.cell m i j) ∧
      (∀ n a b k, e.op = .mma n a b k → rl.mmaInvalid a b e.slots k = false → residue = false →
        e.replays < bits rl.mretry.toNat 2 0 →
        ∃ (t : State) (y : Relay), exec (.matrixEntryComplete r residue) s = .next t ∧ find t.relays r = some y ∧
        y.mq = .entry { e with replays := e.replays + 1 } :: rest ∧ y.acc = rl.acc ∧
        bits y.mretry.toNat 15 8 = min 255 (bits rl.mretry.toNat 15 8 + 1)))) ∧
  (∀ (s : State) (r n : Nat) (rl : Relay) (e : MEntry) (rest : List MItem) (f : Field) (tt : Tensor) (sat residue : Bool)
    (place : Nat → Nat), find s.relays r = some rl → rl.mq = .entry e :: rest → find s.fields rl.field = some f →
    rl.active = true → rl.mqerr.getLsbD 31 = false → e.begun = true → e.op = .mstore tt n sat → tt.captureOk = true →
    storeCapCause tt = none →
    (let row := fun i => storeRow tt.format sat fun j => (rl.cell n i j).toNat
     let units := (List.range 128).flatMap fun i => (List.range (tt.rowBytes / 16)).map fun c =>
       (tt.base + phys tt.swzCode tt.stride i (16 * c), 16, ((row i).1.drop (16 * c)).take 16)
     let pairs := (List.range 128).flatMap fun i => (List.range ((row i).2.length / 2)).map fun b =>
       (tt.scale + 2 * (4 * i + b), 2, ((row i).2.drop (2 * b)).take 2)
     (tt.loc = 0 → (∀ cx, find s.ctxs f.ctx = some cx → cx.root % 4096 = 0) ∧
       ∀ x ∈ tt.storeOffs, s.beingZeroed (place x) = false ∧
         ∃ leaf, s.translateCtx f.ctx (capVa tt.cap x) true = .hit (place x) leaf) →
     (tt.loc ≠ 0 → ∀ x ∈ tt.storeOffs, place x = x ∧ x < fifoBase ∧ (rl.page (x / 4096)).resident = true ∧
       rl.inTransition x = false) →
     (units ++ pairs).Pairwise (fun a b => place a.1 + a.2.1 ≤ place b.1 ∨ place b.1 + b.2.1 ≤ place a.1) →
     ∃ (t : State) (y : Relay), exec (.matrixEntryComplete r residue) s = .next t ∧ find t.relays r = some y ∧
       (tt.loc ≠ 0 → t.mem = s.mem) ∧ (tt.loc = 0 → y.scratch = rl.scratch) ∧
       ∀ w ∈ units ++ pairs, (if tt.loc = 0 then t.readMem (place w.1) w.2.1 else y.readScr w.1 w.2.1) =
         listNum w.2.2 % 256 ^ w.2.1)) ∧
  (∀ (s : State) (u : UnitRef) (x : Strand) (o : LongOp) (i : Nat), s.strand u = some x → x.ops[i]? = some o →
    o.kind = .plain →
    (let x1 : Strand := { x with ops := x.ops.eraseIdx i }
     exec (.longLatencyCompletion u i) s = .next (s.setStrand u (x.landAt i)) ∧
     ((∀ p ∈ x.ops, p.kind = .plain) → x.landAt i = x1.land o))) ∧
  (∀ (s : State) (u : UnitRef) (x : Strand) (h fid lane : Nat) (fr : Frag), s.strand u = some x → s.handlerOf u = some h →
    x.inHandler = none → x.nextFrag = some (fid, fr) → lowest (x.fragLanes fid) = some lane →
    (let fr1 : Frag := { fr with phase := .handler (BitVec.ofNat 32 h) lane }
     exec (.handlerEntry u) s = .next (s.setStrand u { x with frags := put x.frags fid fr1 })))

/-! ### Collectives and storage errors -/

/-- A collective runs once every participant is there: it ends at each participant with one status, and where that is 0
element k of the result combines element k of every contribution in the order of the list; a relay outside its own
group's list gets status 2, an unreachable peer status 4. An uncorrectable error is contained by what holds the data: a
register's value is poisoned, a command fails, a heat, squad or field stops, a queue is reset, a context is torn down
and its frame quarantined, for a command to the B store the frame of the device memory it was reading (R211 to R213, R259,
R260, R263, R264, R266). The model's own here: the lowest status where several apply and what aborts a collective (entry 23
of the log), that a command whose collective was aborted ends with the kept status in its turn (entry 24), the bytes an
all-gather leaves (entry 21), entry 30, and a forwarded read that fails poisons all that came from it (entry 81). -/
def Obligations.CollectivesAndErrors : Prop :=
  (∀ (s s1 : State) (r : Nat) (peers : List Contribution) (rl : Relay) (c : Command) (rest : List QItem) (f : Field)
    (ps : List Party) (locals : List Nat), find s.relays r = some rl → (rl.queue 9).items = .command c :: rest →
    find s.fields rl.field = some f → rl.active = true → rl.guardOf c = .yes → c.result = none →
    (∀ k, c.aborted = some k → exec (.collectiveRun r peers) s = .next (s.endCollective r c k)) ∧
    (let here := c.group.any fun n =>
       entryDevice n = s.dev.domain && entryCtx n = f.ctx && entryLin n = rl.linear
     let qs := ps.map fun q => match q.relay with
       | some (_, d) => { q with agrees := decide (d.group = c.group) }
       | none => q
     let status := collectStatus qs (s.confidential f.ctx)
     let out := if status = 0 then collect c.cop c.cfmt c.total (qs.map fun q => q.bytes)
       (fun i => s.freeNat (4000 + i) % 256) else []
     let remote := c.group.filter fun n => decide (entryDevice n ≠ s.dev.domain)
     (c.aborted = none → here = false → exec (.collectiveRun r peers) s = .next (s.endCollective r c 2)) ∧
     (c.aborted = none → here = true → remote ≠ [] → s.anyLink = false → exec (.collectiveRun r peers) s = .next s) ∧
     (c.aborted = none → here = true → (remote = [] ∨ s.anyLink = true) → s.present c.cgrp c.group = some locals → s.readParties locals = (s1, true) →
       s1.parties c.cgrp c.group peers = some ps →
       remote.length ≤ peers.length →
       exec (.collectiveRun r peers) s = .next (qs.foldl (State.deliver status (out.map fun b => BitVec.ofNat 8 b)) s1)) ∧
     ((∃ n ∈ c.group, entryDevice n ≠ s.dev.domain) → exec (.peerUnreachable r) s =
       .next (c.group.foldl (fun s n => match s.participant c.cgrp n with
         | some (r, _, d) => s.endCollective r d 4
         | none => s) s)))) ∧
  (∀ (cop cfmt n : Nat) (ls : List (List Nat)) (free : Nat → Nat), cop < 3 → cfmt < 6 →
    (let eb := cfmtBytes cfmt
     let es := fun (l : List Nat) => elements eb (n / eb) l
     es (collect cop cfmt n ls free) = (List.range (n / eb)).map fun k =>
       combine cop cfmt (ls.map fun l => (es l).getD k 0) % 2 ^ (8 * eb))) ∧
  (∀ (s : State) (u : UnitRef) (x : Strand) (i n : Nat) (l : Lane), s.strand u = some x → find x.lanes i = some l →
    ∃ (t v w : State) (y z a : Strand), exec (.storageError (.vreg u i n)) s = .next t ∧ t.strand u = some y ∧
      (∀ j m, ((y.lane j).reg m) =
        if j = i ∧ m = n then ⟨((x.lane i).reg n).val, .poisoned⟩ else ((x.lane j).reg m)) ∧
      exec (.storageError (.preg u i n)) s = .next v ∧ v.strand u = some z ∧
      (∀ j m, ((z.lane j).pred m) =
        if j = i ∧ m = n then ⟨((x.lane i).pred n).val, .poisoned⟩ else ((x.lane j).pred m)) ∧
      exec (.storageError (.sreg u n)) s = .next w ∧ w.strand u = some a ∧
      ∀ m, a.sreg m = if m = n then ⟨(x.sreg n).val, .poisoned⟩ else x.sreg m) ∧
  (∀ (s : State) (r q : Nat) (rl : Relay) (c : Command) (rest : List QItem), find s.relays r = some rl →
    (rl.queue q).items = .command c :: rest →
    (∀ b, c.dst = .bstore b → ∀ k, s.relayCtx r = some k →
      exec (.storageError (.command r q)) s = .next (s.teardown k 0x5D (s.sourceFrames r q))) ∧
    (∀ f, find s.fields rl.field = some f →
      (let upr := c.rowBytes / 16
       let row := s.sourceRow r q c (c.done / upr) (16 * (c.done % upr))
       ∀ l, (row.1.srcUnit r q f.ctx (scratchRounded f) c row.2 (16 * (c.done % upr))).2 = .at l →
         s.sourceFrames r q = match l with
           | .dev pa _ => [pa / 65536]
           | .scr _ => [])) ∧
    ((∀ b, c.dst ≠ .bstore b) → ∃ (t : State) (y : Relay), exec (.storageError (.command r q)) s = .next t ∧ find t.relays r = some y ∧
      ∀ n, y.counter n = if c.cnt = some n then countUp (rl.counter n) (some 0x16) none else rl.counter n)) ∧
  (∀ (s : State) (u : UnitRef) (x : Strand) (k : Nat), s.strand u = some x → ∃ (t : State) (y : Strand),
    exec (.storageError (.forwarded u k)) s = .next t ∧ t.strand u = some y ∧
    (∀ i n l, (x.lane i).reg n = ⟨((x.lane i).reg n).val, .unverified l⟩ → k ∈ l →
      (y.lane i).reg n = ⟨((x.lane i).reg n).val, .poisoned⟩) ∧
    (∀ n l, (x.sreg n).taint = .unverified l → k ∈ l → y.sreg n = ⟨(x.sreg n).val, .poisoned⟩)) ∧
  (∀ (s : State) (r : Nat) (rl : Relay), find s.relays r = some rl →
    ∃ t : State, exec (.storageError (.saveArea r)) s = .next t ∧
      find t.relays r = some { rl with save := { rl.save with bad := true } }) ∧
  (∀ (s : State) (r q h : Nat) (x : Strand), s.strand (.heat r q h) = some x → x.stopped ≠ .lost →
    ∃ (t : State) (y : Strand), exec (.storageError (.heatState r q h)) s = .next t ∧
      t.strand (.heat r q h) = some y ∧ y.stopped = .lost ∧
      ∀ i, i < 32 → (x.lane i).ls ≠ .exited → (y.lane i).ls = .parked ∧ (y.lane i).own = 0x5A#7) ∧
  (∀ (s : State) (n : Nat) (q : Queue), find s.queues n = some q → ∃ (t : State) (y : Queue),
    exec (.storageError (.queueState n)) s = .next t ∧ find t.queues n = some y ∧ y.resetting = true ∧ y.pending = []) ∧
  (∀ (s : State) (c n : Nat) (x : Ctx), find s.ctxs c = some x →
    ∀ site ∈ [ErrorSite.contextState c n, .codeFetch c n], ∃ t : State, exec (.storageError site) s = .next t ∧
      find t.ctxs c = none ∧ (t.frame n).quarantined = true) ∧
  (∀ s : State, exec (.storageError .correctable) s = .next s)
end

