-- ==== Sys2Proof/Laws/Map.lean ====
section
/-! SUPPORT. What the operations on sparse maps do: reads after writes, and the canonical form they keep. -/

namespace Sys2Proof.Machine

theorem find_put_self {α : Type} (m : AMap α) (k : Nat) (a : α) : find (put m k a) k = some a := by
  induction m with
  | nil => simp [put, find]
  | cons e m ih =>
    obtain ⟨j, x⟩ := e
    by_cases h : k = j
    · subst h; simp [put, find]
    · by_cases h2 : k < j <;> simp [put, find, h, h2, ih]

theorem find_put_other {α : Type} (m : AMap α) {k j : Nat} (a : α) (h : j ≠ k) : find (put m k a) j = find m j := by
  induction m with
  | nil => simp [put, find, h]
  | cons e m ih =>
    obtain ⟨i, x⟩ := e
    by_cases h1 : k = i
    · subst h1; simp [put, find, h]
    · by_cases h2 : k < i
      · simp [put, find, h, h1, h2]
      · simp only [put, h1, h2, if_false, find, ih]

theorem find_put {α : Type} (m : AMap α) (k j : Nat) (a : α) :
    find (put m k a) j = if j = k then some a else find m j := by
  by_cases h : j = k
  · subst h; simp [find_put_self]
  · simp [h, find_put_other]

theorem put_put {α : Type} (m : AMap α) (k : Nat) (a b : α) : put (put m k a) k b = put m k b := by
  induction m with
  | nil => simp [put]
  | cons e m ih =>
    obtain ⟨j, x⟩ := e
    by_cases h : k = j
    · subst h; simp [put]
    · by_cases h2 : k < j
      · simp [put, h, h2]
      · simp [put, h, h2, ih]

theorem find_del {α : Type} (m : AMap α) (k j : Nat) : find (del m k) j = if j = k then none else find m j := by
  induction m with
  | nil => simp [del, find]
  | cons e m ih =>
    obtain ⟨i, x⟩ := e
    simp only [del] at ih ⊢
    by_cases h1 : i = k
    · subst h1
      by_cases h : j = i <;> simp_all [find]
    · by_cases h : j = i
      · subst h; simp [h1, find]
      · by_cases h2 : j = k <;> simp_all [find]

theorem getD_setD {α : Type} [DecidableEq α] (d : α) (m : AMap α) (k j : Nat) (a : α) :
    getD d (setD d m k a) j = if j = k then a else getD d m j := by
  unfold getD setD
  by_cases ha : a = d
  · by_cases h : j = k <;> simp [ha, h, find_del]
  · by_cases h : j = k <;> simp [ha, h, find_put]

theorem modify_find {α : Type} {m : AMap α} {k : Nat} {x : α} (f : α → α) (h : find m k = some x) :
    modify m k f = put m k (f x) := by
  simp [modify, h]

theorem rising_mono {α : Type} {m : AMap α} {a b : Nat} (h : a ≤ b) (hr : rising b m = true) : rising a m = true := by
  cases m with
  | nil => rfl
  | cons e m =>
    simp only [rising, Bool.and_eq_true, decide_eq_true_eq] at hr ⊢
    exact ⟨by omega, hr.2⟩

theorem rising_put {α : Type} {m : AMap α} {lo k : Nat} (a : α) (hr : rising lo m = true) (hk : lo ≤ k) :
    rising lo (put m k a) = true := by
  induction m generalizing lo with
  | nil => simp [put, rising, hk]
  | cons e m ih =>
    obtain ⟨j, x⟩ := e
    simp only [rising, Bool.and_eq_true, decide_eq_true_eq] at hr
    by_cases h : k = j
    · subst h; simp [put, rising, hr]
    · by_cases h2 : k < j
      · simp only [put, h, h2, if_false, if_true, rising, Bool.and_eq_true, decide_eq_true_eq]
        exact ⟨hk, by omega, hr.2⟩
      · simp only [put, h, h2, if_false, rising, Bool.and_eq_true, decide_eq_true_eq]
        exact ⟨hr.1, ih hr.2 (by omega)⟩

theorem rising_filter {α : Type} {m : AMap α} {lo : Nat} (p : Nat × α → Bool) (hr : rising lo m = true) :
    rising lo (m.filter p) = true := by
  induction m generalizing lo with
  | nil => rfl
  | cons e m ih =>
    obtain ⟨j, x⟩ := e
    simp only [rising, Bool.and_eq_true, decide_eq_true_eq] at hr
    by_cases h : p (j, x) = true
    · simp only [List.filter_cons, h, if_true, rising, Bool.and_eq_true, decide_eq_true_eq]
      exact ⟨hr.1, ih hr.2⟩
    · simp only [List.filter_cons, h]
      exact rising_mono (by omega) (ih hr.2)

theorem mem_put {α : Type} {m : AMap α} {k : Nat} {a : α} {e : Nat × α} (h : e ∈ put m k a) : e = (k, a) ∨ e ∈ m := by
  induction m with
  | nil => simpa [put] using h
  | cons f m ih =>
    obtain ⟨j, x⟩ := f
    by_cases h1 : k = j
    · simp only [put, h1, if_true, List.mem_cons] at h
      subst h1; rcases h with h | h <;> simp [h]
    · by_cases h2 : k < j
      · simpa [put, h1, h2, or_assoc] using h
      · simp only [put, h1, h2, if_false, List.mem_cons] at h
        rcases h with h | h
        · simp [h]
        · rcases ih h with h | h <;> simp [h]

end Sys2Proof.Machine
end

