-- ==== Sys2Proof/Laws/Unit.lean ====
section
/-! SUPPORT. Units: reading a unit after it is replaced, lanes after a change of lanes, and what the end of a word
leaves behind. -/

namespace Sys2Proof.Machine

/-! ### Units in the state -/

theorem strand_setStrand {s : State} {u : UnitRef} {x : Strand} (y : Strand) (h : s.strand u = some x) :
    (s.setStrand u y).strand u = some y := by
  cases u with
  | heat r q k =>
    simp only [State.strand, State.setStrand] at h ⊢
    cases hr : find s.relays r with
    | none => simp [hr] at h
    | some rl => simp [modify, hr, find_put_self]
  | pacer r =>
    simp only [State.strand, State.setStrand] at h ⊢
    cases hr : find s.relays r with
    | none => simp [hr] at h
    | some rl => simp [modify, hr, find_put_self]
  | warm q =>
    simp only [State.strand, State.setStrand] at h ⊢
    cases hr : find s.warms q with
    | none => simp [hr] at h
    | some w => simp [modify, hr, find_put_self]

theorem setStrand_setStrand (s : State) (u : UnitRef) (y z : Strand) :
    (s.setStrand u y).setStrand u z = s.setStrand u z := by
  cases u with
  | heat r q k =>
    simp only [State.setStrand, modify]
    cases hr : find s.relays r with
    | none => simp [hr]
    | some rl => simp [find_put_self, put_put]
  | pacer r =>
    simp only [State.setStrand, modify]
    cases hr : find s.relays r with
    | none => simp [hr]
    | some rl => simp [find_put_self, put_put]
  | warm q =>
    simp only [State.setStrand, modify]
    cases hr : find s.warms q with
    | none => simp [hr]
    | some w => simp [find_put_self, put_put]

/-! ### Lanes -/

theorem lane_setLane (x : Strand) (i j : Nat) (l : Lane) : (x.setLane i l).lane j = if j = i then l else x.lane j := by
  unfold Strand.lane Strand.setLane
  by_cases h : j = i <;> simp [find_put, h]

theorem lane_mapLanes (m : List Nat) (hm : m.Nodup) (f : Nat → Lane → Lane) (x : Strand) (j : Nat) :
    (x.mapLanes m f).lane j = if j ∈ m then f j (x.lane j) else x.lane j := by
  unfold Strand.mapLanes
  induction m generalizing x with
  | nil => simp
  | cons a m ih =>
    have ha := (List.nodup_cons.mp hm).1
    rw [List.foldl_cons, ih (List.nodup_cons.mp hm).2, lane_setLane]
    by_cases h : j = a
    · subst h; simp [ha]
    · simp [h]

/-- A change of lanes leaves every other field of the unit. -/
theorem mapLanes_rest (m : List Nat) (f : Nat → Lane → Lane) (x : Strand) :
    x.mapLanes m f = { x with lanes := (x.mapLanes m f).lanes } := by
  unfold Strand.mapLanes
  induction m generalizing x with
  | nil => rfl
  | cons a m ih => rw [List.foldl_cons, ih]; rfl

theorem mem_lanesOf {m : LaneSet} {i : Nat} : i ∈ lanesOf m ↔ i < 32 ∧ m.getLsbD i = true := by
  simp [lanesOf, laneIds]

theorem nodup_lanesOf (m : LaneSet) : (lanesOf m).Nodup := List.nodup_range.filter _

theorem lowest_some {m : LaneSet} (h : m ≠ 0#32) : ∃ i, lowest m = some i ∧ i < 32 ∧ m.getLsbD i = true := by
  unfold lowest
  cases hl : lanesOf m with
  | nil =>
    exfalso; apply h
    apply BitVec.eq_of_getLsbD_eq
    intro i hi
    by_cases hc : m.getLsbD i = true
    · have : i ∈ lanesOf m := mem_lanesOf.mpr ⟨hi, hc⟩
      simp [hl] at this
    · simpa using hc
  | cons a l =>
    have : a ∈ lanesOf m := by simp [hl]
    exact ⟨a, rfl, mem_lanesOf.mp this⟩

/-! ### Register writes -/

theorem reg_setReg (l : Lane) (n k : Nat) (r : Reg) : (l.setReg n r).reg k = if k = n then r else l.reg k := by
  unfold Lane.reg Lane.setReg getD
  by_cases h : k = n <;> simp [find_put, h]

theorem pred_setPred (l : Lane) (n k : Nat) (b : PBit) : (l.setPred n b).pred k = if k = n then b else l.pred k := by
  unfold Lane.pred Lane.setPred getD
  by_cases h : k = n <;> simp [find_put, h]

/-- The last entry of a list of writes for a key. -/
def lastFor {α : Type} (l : List (Nat × α)) (n : Nat) : Option α :=
  l.foldl (fun r e => if e.1 = n then some e.2 else r) none

theorem foldl_last {α : Type} (l : List (Nat × α)) (n : Nat) (r : Option α) :
    l.foldl (fun r e => if e.1 = n then some e.2 else r) r = (lastFor l n).or r := by
  unfold lastFor
  induction l generalizing r with
  | nil => simp
  | cons e l ih =>
    simp only [List.foldl_cons]
    rw [ih, ih (if e.1 = n then some e.2 else none)]
    by_cases h : e.1 = n
    · simp [h]
    · simp [h]

theorem lastFor_cons {α : Type} (e : Nat × α) (l : List (Nat × α)) (n : Nat) :
    lastFor (e :: l) n = (lastFor l n).or (if e.1 = n then some e.2 else none) := by
  unfold lastFor; rw [List.foldl_cons, foldl_last]; rfl

theorem getD_or {α : Type} (a b : Option α) (c : α) : (a.or b).getD c = a.getD (b.getD c) := by
  cases a <;> rfl

theorem reg_foldl (v : List (Nat × Reg)) (l : Lane) (n : Nat) :
    (v.foldl (fun (l : Lane) e => l.setReg e.1 e.2) l).reg n = (lastFor v n).getD (l.reg n) := by
  induction v generalizing l with
  | nil => rfl
  | cons e v ih =>
    rw [List.foldl_cons, ih, lastFor_cons, getD_or, reg_setReg]
    by_cases h : n = e.1
    · simp [h]
    · simp [h, Ne.symm h]

theorem foldl_setReg_rest (v : List (Nat × Reg)) (l : Lane) :
    v.foldl (fun (l : Lane) e => l.setReg e.1 e.2) l =
      { l with v := (v.foldl (fun (l : Lane) e => l.setReg e.1 e.2) l).v } := by
  induction v generalizing l with
  | nil => rfl
  | cons e v ih => rw [List.foldl_cons, ih]; rfl

theorem pred_foldl (v : List (Nat × PBit)) (l : Lane) (n : Nat) :
    (v.foldl (fun (l : Lane) e => l.setPred e.1 e.2) l).pred n = (lastFor v n).getD (l.pred n) := by
  induction v generalizing l with
  | nil => rfl
  | cons e v ih =>
    rw [List.foldl_cons, ih, lastFor_cons, getD_or, pred_setPred]
    by_cases h : n = e.1
    · simp [h]
    · simp [h, Ne.symm h]

theorem foldl_setPred_rest (v : List (Nat × PBit)) (l : Lane) :
    v.foldl (fun (l : Lane) e => l.setPred e.1 e.2) l =
      { l with p := (v.foldl (fun (l : Lane) e => l.setPred e.1 e.2) l).p } := by
  induction v generalizing l with
  | nil => rfl
  | cons e v ih => rw [List.foldl_cons, ih]; rfl

theorem write_rest (l : Lane) (v : List (Nat × Reg)) (p : List (Nat × PBit)) :
    l.write v p = { l with v := (l.write v p).v, p := (l.write v p).p } := by
  unfold Lane.write
  rw [foldl_setPred_rest, foldl_setReg_rest]

theorem write_reg (l : Lane) (v : List (Nat × Reg)) (p : List (Nat × PBit)) (n : Nat) :
    (l.write v p).reg n = (lastFor v n).getD (l.reg n) := by
  unfold Lane.write
  dsimp only
  rw [foldl_setPred_rest]
  exact reg_foldl v l n

theorem write_pred (l : Lane) (v : List (Nat × Reg)) (p : List (Nat × PBit)) (n : Nat) :
    (l.write v p).pred n = (lastFor p n).getD (l.pred n) := by
  unfold Lane.write
  dsimp only
  rw [pred_foldl, foldl_setReg_rest]
  rfl

/-! ### Poison -/

theorem Taint.join_clean (t : Taint) : t.join .clean = t := by cases t <;> rfl
theorem Taint.join_join_self (a t : Taint) : (a.join t).join t = a.join t := by
  have drop : ∀ l m : List Nat, (∀ n ∈ m, n ∈ l) → l ++ m.filter (fun r => !l.contains r) = l := by
    intro l m h
    rw [List.filter_eq_nil_iff.mpr, List.append_nil]
    intro n hn
    simp [h n hn]
  cases a with
  | poisoned => cases t <;> rfl
  | clean =>
    cases t with
    | unverified b => simpa only [Taint.join] using congrArg Taint.unverified (drop b b fun _ h => h)
    | _ => rfl
  | unverified a =>
    cases t with
    | unverified b =>
      simp only [Taint.join]
      refine congrArg Taint.unverified (drop _ b ?_)
      intro n hn
      simp only [List.mem_append, List.mem_filter]
      by_cases h : n ∈ a <;> simp [h, hn]
    | _ => rfl

theorem taintReg_foldl (d : List Nat) (t : Taint) (l : Lane) (n : Nat) :
    (d.foldl (fun (l : Lane) n => l.setReg n ⟨(l.reg n).val, (l.reg n).taint.join t⟩) l).reg n =
      if d.contains n then { l.reg n with taint := (l.reg n).taint.join t } else l.reg n := by
  induction d generalizing l with
  | nil => rfl
  | cons a d ih =>
    rw [List.foldl_cons, ih, reg_setReg]
    by_cases h : n = a
    · subst h
      by_cases h2 : d.contains n = true <;> simp_all [Taint.join_join_self]
    · simp [h]

theorem taintReg_rest (d : List Nat) (t : Taint) (l : Lane) :
    d.foldl (fun (l : Lane) n => l.setReg n ⟨(l.reg n).val, (l.reg n).taint.join t⟩) l =
      { l with v := (d.foldl (fun (l : Lane) n => l.setReg n ⟨(l.reg n).val, (l.reg n).taint.join t⟩) l).v } := by
  induction d generalizing l with
  | nil => rfl
  | cons e v ih => rw [List.foldl_cons, ih]; rfl

theorem taintPred_foldl (d : List Nat) (t : Taint) (l : Lane) (n : Nat) :
    (d.foldl (fun (l : Lane) n => l.setPred n ⟨(l.pred n).val, (l.pred n).taint.join t⟩) l).pred n =
      if d.contains n then { l.pred n with taint := (l.pred n).taint.join t } else l.pred n := by
  induction d generalizing l with
  | nil => rfl
  | cons a d ih =>
    rw [List.foldl_cons, ih, pred_setPred]
    by_cases h : n = a
    · subst h
      by_cases h2 : d.contains n = true <;> simp_all [Taint.join_join_self]
    · simp [h]

theorem taintPred_rest (d : List Nat) (t : Taint) (l : Lane) :
    d.foldl (fun (l : Lane) n => l.setPred n ⟨(l.pred n).val, (l.pred n).taint.join t⟩) l =
      { l with p := (d.foldl (fun (l : Lane) n => l.setPred n ⟨(l.pred n).val, (l.pred n).taint.join t⟩) l).p } := by
  induction d generalizing l with
  | nil => rfl
  | cons e v ih => rw [List.foldl_cons, ih]; rfl

theorem taintDests_rest (l : Lane) (t : Taint) (d : Dests) :
    l.taintDests t d = { l with v := (l.taintDests t d).v, p := (l.taintDests t d).p } := by
  unfold Lane.taintDests
  by_cases h : t = .clean
  · simp [h]
  · simp only [h, if_false]
    rw [taintPred_rest, taintReg_rest]

theorem taintDests_reg (l : Lane) (t : Taint) (d : Dests) (n : Nat) :
    (l.taintDests t d).reg n = if d.v.contains n then { l.reg n with taint := (l.reg n).taint.join t } else l.reg n := by
  unfold Lane.taintDests
  by_cases h : t = .clean
  · simp [h, Taint.join_clean]
  · simp only [h, if_false]
    rw [taintPred_rest]
    exact taintReg_foldl d.v t l n

theorem taintDests_pred (l : Lane) (t : Taint) (d : Dests) (n : Nat) :
    (l.taintDests t d).pred n =
      if d.p.contains n then { l.pred n with taint := (l.pred n).taint.join t } else l.pred n := by
  unfold Lane.taintDests
  by_cases h : t = .clean
  · simp [h, Taint.join_clean]
  · simp only [h, if_false]
    rw [taintPred_foldl, taintReg_rest]
    rfl

end Sys2Proof.Machine
end

