-- ==== Sys2Proof/Laws/Commit.lean ====
section
/-! SUPPORT. The end of a word that faults nowhere: what commitWord and State.finish leave (RanUnit, Ran). -/

namespace Sys2Proof.Machine

theorem getLsbD_laneSet_fold (p : Nat → Bool) (l : List Nat) (m : LaneSet) (j : Nat) :
    (l.foldl (fun m i => if p i then m ||| (1#32 <<< i) else m) m).getLsbD j =
      (m.getLsbD j || (decide (j < 32) && decide (j ∈ l) && p j)) := by
  induction l generalizing m with
  | nil => simp
  | cons a l ih =>
    rw [List.foldl_cons, ih]
    by_cases ha : p a = true
    · by_cases hj : j = a
      · subst hj
        by_cases h32 : j < 32 <;> simp [ha, h32]
      · have hb : (1#32 <<< a).getLsbD j = false := by
          simp only [BitVec.getLsbD_shiftLeft, BitVec.getLsbD_one]
          by_cases h1 : j < a
          · simp [h1]
          · have : j - a ≠ 0 := by omega
            simp [this]
        simp [ha, hb, hj]
    · by_cases hj : j = a
      · subst hj; simp [ha]
      · simp [ha, hj]

theorem getLsbD_laneSet (p : Nat → Bool) (j : Nat) : (laneSet p).getLsbD j = (decide (j < 32) && p j) := by
  unfold laneSet laneIds
  rw [getLsbD_laneSet_fold]
  by_cases h : j < 32 <;> simp [h]

theorem boundFaults_nil (x : Strand) : boundFaults x [] = [] := by
  unfold boundFaults
  by_cases h : x.g = 0#3 <;> simp [h]

theorem getLsbD_okLanes_nil (x : Strand) (e : LaneSet) (i : Nat) :
    (okLanes x e []).getLsbD i = (decide (i < 32) && e.getLsbD i) := by
  simp [okLanes, boundFaults_nil, getLsbD_laneSet]

theorem okLanes_nil (x : Strand) (e : LaneSet) : okLanes x e [] = e := by
  apply BitVec.eq_of_getLsbD_eq
  intro i hi
  rw [getLsbD_okLanes_nil]
  simp [hi]

theorem faultsOf_nil {e : LaneSet} {o : Nat → LaneOut} (h : ∀ i, e.getLsbD i = true → (o i).causes = []) :
    faultsOf e o = [] := by
  unfold faultsOf
  rw [List.filterMap_eq_nil_iff]
  intro i hi
  simp [h i (mem_lanesOf.mp hi).2, pickCause]

/-- What a lane of a completed word gets: register writes, no jump, no hold. -/
structure PlainOut (o : LaneOut) : Prop where
  causes : o.causes = []
  pc : o.pc = none
  stack : o.stack = none
  hold : o.hold = none

theorem sreg_foldl (sw : List (Nat × Reg)) (m : AMap Reg) (n : Nat) :
    getD regZero (sw.foldl (fun m e => put m e.1 e.2) m) n = (lastFor sw n).getD (getD regZero m n) := by
  induction sw generalizing m with
  | nil => rfl
  | cons e v ih =>
    rw [List.foldl_cons, ih, lastFor_cons, getD_or]
    by_cases h : e.1 = n
    · subst h; simp [getD, find_put_self]
    · simp [getD, find_put, h, Ne.symm h]

theorem taintSregs_get (t : Taint) (d : List Nat) (m : AMap Reg) (n : Nat) :
    getD regZero (taintSregs t d m) n =
      if d.contains n then { getD regZero m n with taint := (getD regZero m n).taint.join t } else getD regZero m n := by
  unfold taintSregs
  by_cases h : t = .clean
  · simp [h, Taint.join_clean]
  · simp only [h, if_false]
    induction d generalizing m with
    | nil => rfl
    | cons a d ih =>
      rw [List.foldl_cons, ih]
      have hg : ∀ r : Reg, getD regZero (put m a r) n = if n = a then r else getD regZero m n := by
        intro r; unfold getD; by_cases h : n = a <;> simp [find_put, h]
      rw [hg]
      by_cases h : n = a
      · subst h
        by_cases h2 : d.contains n = true <;> simp_all [Taint.join_join_self]
      · simp [h]

theorem undefer_other (x : Strand) (m : LaneSet) (i : Nat) (_hi : i < 32) :
    (x.undefer m).lane i = { x.lane i with ls := ((x.undefer m).lane i).ls } ∧
    (m.getLsbD i = true → (x.undefer m).lane i = x.lane i) := by
  unfold Strand.undefer
  have hn : (laneIds.filter fun i => !m.getLsbD i && decide ((x.lane i).ls = .deferred)).Nodup :=
    List.nodup_range.filter _
  rw [lane_mapLanes _ hn]
  simp only [List.mem_filter, laneIds, List.mem_range]
  by_cases h : (i < 32 ∧ (!m.getLsbD i && decide ((x.lane i).ls = LState.deferred)) = true)
  · simp only [h, and_self, if_true, true_and]
    intro hm; simp [hm] at h
  · simp only [h, if_false]
    exact ⟨trivial, fun _ => trivial⟩

theorem tidyGroup_lane (x : Strand) (i : Nat) : x.tidyGroup.lane i = x.lane i := by
  unfold Strand.tidyGroup
  split <;> rfl

theorem tidyGroup_rest (x : Strand) :
    x.tidyGroup = { x with streak := x.tidyGroup.streak, nextMode := x.tidyGroup.nextMode, group := x.tidyGroup.group } := by
  unfold Strand.tidyGroup
  split <;> rfl

theorem undefer_rest (x : Strand) (m : LaneSet) : x.undefer m = { x with lanes := (x.undefer m).lanes } :=
  mapLanes_rest _ _ _

theorem commitLane_rest {F : Focus} {w : WordInfo} {d : Dests} {runs : Bool} {o : LaneOut} (l : Lane)
    (ho : runs = true → PlainOut o) : commitLane F w d runs o l =
      { l with v := (commitLane F w d runs o l).v, p := (commitLane F w d runs o l).p,
               lpc := (commitLane F w d runs o l).lpc } := by
  unfold commitLane
  cases runs with
  | false =>
    simp only [Bool.false_and, Bool.false_eq_true, if_false]
    rw [taintDests_rest]
    by_cases h : F.handler.isSome = true <;> simp [h]
  | true =>
    have h1 := ho rfl
    simp only [h1.stack, h1.hold, Option.getD_none, Option.isSome_none, Bool.and_false, Bool.false_eq_true,
      if_false, if_true]
    rw [taintDests_rest]
    by_cases hw : w.la = 0
    · simp only [hw, decide_true, Bool.and_true, if_true]
      rw [write_rest]
      by_cases h : F.handler.isSome = true <;> simp [h]
    · by_cases h : F.handler.isSome = true <;> simp [h, hw]

theorem commitLane_reg {F : Focus} {w : WordInfo} {d : Dests} {runs : Bool} {o : LaneOut} (l : Lane) (n : Nat)
    (ho : runs = true → PlainOut o) (hw : w.la = 0) : (commitLane F w d runs o l).reg n =
      regAfter (l.reg n) (if runs then lastFor o.v n else none) (d.v.contains n) (l.predTaint w.pred) := by
  have key : (commitLane F w d runs o l).reg n =
      ((if runs then l.write o.v o.p else l).taintDests (l.predTaint w.pred) d).reg n := by
    unfold commitLane
    cases runs with
    | false => by_cases h : F.handler.isSome = true <;> simp [h, Lane.reg]
    | true =>
      have h1 := ho rfl
      by_cases h : F.handler.isSome = true <;> simp [h, hw, h1.hold, Lane.reg]
  rw [key, taintDests_reg]
  unfold regAfter
  cases runs <;> simp [write_reg]

theorem commitLane_pred {F : Focus} {w : WordInfo} {d : Dests} {runs : Bool} {o : LaneOut} (l : Lane) (n : Nat)
    (ho : runs = true → PlainOut o) (hw : w.la = 0) : (commitLane F w d runs o l).pred n =
      predAfter (l.pred n) (if runs then lastFor o.p n else none) (d.p.contains n) (l.predTaint w.pred) := by
  have key : (commitLane F w d runs o l).pred n =
      ((if runs then l.write o.v o.p else l).taintDests (l.predTaint w.pred) d).pred n := by
    unfold commitLane
    cases runs with
    | false => by_cases h : F.handler.isSome = true <;> simp [h, Lane.pred]
    | true =>
      have h1 := ho rfl
      by_cases h : F.handler.isSome = true <;> simp [h, hw, h1.hold, Lane.pred]
  rw [key, taintDests_pred]
  unfold predAfter
  cases runs <;> simp [write_pred]

theorem taintDests_lpc (l : Lane) (t : Taint) (d : Dests) : (l.taintDests t d).lpc = l.lpc := by rw [taintDests_rest]
theorem write_lpc (l : Lane) (v : List (Nat × Reg)) (p : List (Nat × PBit)) : (l.write v p).lpc = l.lpc := by
  rw [write_rest]

theorem commitLane_lpc {F : Focus} {w : WordInfo} {d : Dests} {runs : Bool} {o : LaneOut} (l : Lane)
    (ho : runs = true → PlainOut o) : (commitLane F w d runs o l).lpc =
      l.lpc + (if F.handler.isSome then 0#32 else BitVec.ofNat 32 w.size) := by
  unfold commitLane
  cases runs with
  | false => by_cases h : F.handler.isSome = true <;> simp [h, taintDests_lpc]
  | true =>
    have h1 := ho rfl
    by_cases hw : w.la = 0 <;> by_cases h : F.handler.isSome = true <;>
      simp [h, hw, h1.hold, h1.pc, nextPc, taintDests_lpc, write_lpc]

/-- The handler's step leaves all but the fragment entries. -/
theorem commitHandler_rest (F : Focus) (w : WordInfo) (runs : Nat → Bool) (o : Nat → LaneOut) (b : Bool) (y : Strand) :
    commitHandler F w runs o b y = { y with frags := (commitHandler F w runs o b y).frags } := by
  unfold commitHandler
  cases F.handler with
  | none => rfl
  | some fid => dsimp only; split <;> rfl

theorem commitHandler_lane (F : Focus) (w : WordInfo) (runs : Nat → Bool) (o : Nat → LaneOut) (b : Bool) (y : Strand)
    (i : Nat) : (commitHandler F w runs o b y).lane i = y.lane i := by
  rw [commitHandler_rest]; rfl

/-! ### Exceptions of a set of lanes (R86, R101) -/

theorem addFlags_rest (x : Strand) (m : LaneSet) (fp : BitVec 5) (sl : BitVec 4) :
    x.addFlags m fp sl = { x with fpf := (x.addFlags m fp sl).fpf, slf := (x.addFlags m fp sl).slf,
                                  ops := (x.addFlags m fp sl).ops } := by
  unfold Strand.addFlags
  split <;> rfl

theorem addFlags_lane (x : Strand) (m : LaneSet) (fp : BitVec 5) (sl : BitVec 4) (i : Nat) :
    (x.addFlags m fp sl).lane i = x.lane i := by
  rw [addFlags_rest]; rfl

/-- What the exceptions of a set of lanes change depends on the flags and the outstanding instructions alone. -/
theorem addFlags_congr {x y : Strand} (m : LaneSet) (fp : BitVec 5) (sl : BitVec 4) (ho : y.ops = x.ops)
    (hf : y.fpf = x.fpf) (hs : y.slf = x.slf) :
    (y.addFlags m fp sl).fpf = (x.addFlags m fp sl).fpf ∧ (y.addFlags m fp sl).slf = (x.addFlags m fp sl).slf ∧
      (y.addFlags m fp sl).ops = (x.addFlags m fp sl).ops := by
  unfold Strand.addFlags Strand.openIn
  rw [ho]
  split <;> simp [hf, hs]

/-- Where no CWAIT or MWAIT is open in the lanes, the exceptions reach the unit's flags. -/
theorem addFlags_closed {x : Strand} {m : LaneSet} (fp : BitVec 5) (sl : BitVec 4) (h : x.openIn m = false) :
    x.addFlags m fp sl = { x with fpf := x.fpf ||| fp, slf := x.slf ||| sl } := by
  simp [Strand.addFlags, h]

theorem commitOp_lane (x : Strand) (F : Focus) (w : WordInfo) (d : Dests) (t : Taint) (ok : LaneSet)
    (o : Nat → LaneOut) (sw : List (Nat × Reg)) (y : Strand) (i : Nat) :
    (commitOp x F w d t ok o sw y).lane i = y.lane i := by
  unfold commitOp; dsimp only; split
  · rw [addFlags_lane]; rfl
  · rfl

/-- A word without lookahead writes its S registers and its exceptions at once. -/
theorem commitOp_now {x y : Strand} {F : Focus} {w : WordInfo} {d : Dests} {t : Taint} {ok : LaneSet}
    {o : Nat → LaneOut} {sw : List (Nat × Reg)} (hla : w.la = 0) : commitOp x F w d t ok o sw y =
      { y with s := taintSregs t d.s (sw.foldl (fun m e => put m e.1 e.2) y.s),
               fpf := (y.addFlags ok (flagsOf ok o).1 (flagsOf ok o).2).fpf,
               slf := (y.addFlags ok (flagsOf ok o).1 (flagsOf ok o).2).slf,
               ops := (y.addFlags ok (flagsOf ok o).1 (flagsOf ok o).2).ops } := by
  unfold commitOp
  simp only [hla, if_true]
  rw [addFlags_rest]
  obtain ⟨h1, h2, h3⟩ := addFlags_congr (x := y)
    (y := ({ y with s := taintSregs t d.s (sw.foldl (fun m e => put m e.1 e.2) y.s) } : Strand))
    ok (flagsOf ok o).1 (flagsOf ok o).2 rfl rfl rfl
  rw [h1, h2, h3]

/-- What such a word leaves of the unit's own registers. -/
theorem commitWord_unit {F : Focus} {x : Strand} {info : WordInfo} {d : Dests} {e : LaneSet} {o : Nat → LaneOut}
    {sw : List (Nat × Reg)} (hla : info.la = 0) :
    (commitWord x F info d e o sw []).tidyGroup.s =
        taintSregs (predTaints x (lanesOf F.lanes) info.pred) d.s (sw.foldl (fun m e => put m e.1 e.2) x.s) ∧
      (commitWord x F info d e o sw []).tidyGroup.fpf =
        ((x.spend info.places).addFlags e (flagsOf e o).1 (flagsOf e o).2).fpf ∧
      (commitWord x F info d e o sw []).tidyGroup.slf =
        ((x.spend info.places).addFlags e (flagsOf e o).1 (flagsOf e o).2).slf ∧
      (commitWord x F info d e o sw []).tidyGroup =
        { x with lanes := (commitWord x F info d e o sw []).tidyGroup.lanes,
                 s := (commitWord x F info d e o sw []).tidyGroup.s,
                 fpf := (commitWord x F info d e o sw []).tidyGroup.fpf,
                 slf := (commitWord x F info d e o sw []).tidyGroup.slf,
                 ops := ((x.spend info.places).addFlags e (flagsOf e o).1 (flagsOf e o).2).ops,
                 count := bump x.count, frags := (commitWord x F info d e o sw []).tidyGroup.frags,
                 streak := (commitWord x F info d e o sw []).tidyGroup.streak,
                 nextMode := (commitWord x F info d e o sw []).tidyGroup.nextMode,
                 group := (commitWord x F info d e o sw []).tidyGroup.group } := by
  have hm : (lanesOf F.lanes).filter (fun _ => true) = lanesOf F.lanes := List.filter_eq_self.mpr fun _ _ => rfl
  -- the unit as the results leave it, and what follows changes only lanes, the count and the handler's counter
  have hop : ∃ z, commitOp x F info d (predTaints x (lanesOf F.lanes) info.pred) e o sw
      ((x.mapLanes (lanesOf F.lanes) fun i l => commitLane F info d (e.getLsbD i) (o i) l).spend info.places) =
      { x with lanes := z,
               s := taintSregs (predTaints x (lanesOf F.lanes) info.pred) d.s (sw.foldl (fun m e => put m e.1 e.2) x.s),
               fpf := ((x.spend info.places).addFlags e (flagsOf e o).1 (flagsOf e o).2).fpf,
               slf := ((x.spend info.places).addFlags e (flagsOf e o).1 (flagsOf e o).2).slf,
               ops := ((x.spend info.places).addFlags e (flagsOf e o).1 (flagsOf e o).2).ops } := by
    refine ⟨(x.mapLanes (lanesOf F.lanes) fun i l => commitLane F info d (e.getLsbD i) (o i) l).lanes, ?_⟩
    rw [commitOp_now hla, mapLanes_rest]
    obtain ⟨h1, h2, h3⟩ := addFlags_congr (x := x.spend info.places)
      (y := (({ x with lanes := (x.mapLanes (lanesOf F.lanes) fun i l =>
        commitLane F info d (e.getLsbD i) (o i) l).lanes } : Strand).spend info.places))
      e (flagsOf e o).1 (flagsOf e o).2 rfl rfl rfl
    rw [h1, h2, h3]
    rfl
  obtain ⟨z, hz⟩ := hop
  have hcw : ∃ fr, commitWord x F info d e o sw [] = Strand.undefer
      { x with lanes := z,
               s := taintSregs (predTaints x (lanesOf F.lanes) info.pred) d.s (sw.foldl (fun m e => put m e.1 e.2) x.s),
               fpf := ((x.spend info.places).addFlags e (flagsOf e o).1 (flagsOf e o).2).fpf,
               slf := ((x.spend info.places).addFlags e (flagsOf e o).1 (flagsOf e o).2).slf,
               ops := ((x.spend info.places).addFlags e (flagsOf e o).1 (flagsOf e o).2).ops,
               frags := fr, count := bump x.count } F.lanes := by
    unfold commitWord
    simp only [boundFaults_nil, List.any_nil, Bool.not_false, okLanes_nil, hm, List.isEmpty_nil, Bool.not_true]
    rw [hz]
    generalize hb : commitHandler F info _ o false _ = b
    refine ⟨b.frags, ?_⟩
    rw [← hb, commitHandler_rest]
  obtain ⟨fr, hcw⟩ := hcw
  rw [undefer_rest] at hcw
  rw [tidyGroup_rest, hcw]
  exact ⟨rfl, rfl, rfl, rfl⟩

/-- The end of a word that faults nowhere and needs no lookahead. -/
theorem commitWord_ran {F : Focus} {x : Strand} {info : WordInfo} {d : Dests} {e : LaneSet} {o : Nat → LaneOut}
    {sw : List (Nat × Reg)} (_hl : F.lanes ≠ 0#32) (hla : info.la = 0)
    (ho : ∀ i, e.getLsbD i = true → PlainOut (o i)) :
    RanUnit F x (commitWord x F info d e o sw []).tidyGroup info e d
      { v := fun i n => lastFor (o i).v n, p := fun i n => lastFor (o i).p n, s := fun n => lastFor sw n,
        fpf := (flagsOf e o).1, slf := (flagsOf e o).2 } := by
  have hlane : ∀ i, i < 32 → ∃ hd : Option Hold, ∃ ls : LState,
      (commitWord x F info d e o sw []).tidyGroup.lane i =
        { (if F.lanes.getLsbD i then commitLane F info d (e.getLsbD i) (o i) (x.lane i) else x.lane i) with
          held := hd, ls := ls } ∧
      (F.handler = none ∨ F.lanes.getLsbD i = false →
        hd = (if F.lanes.getLsbD i then commitLane F info d (e.getLsbD i) (o i) (x.lane i) else x.lane i).held) ∧
      (F.lanes.getLsbD i = true →
        ls = (if F.lanes.getLsbD i then commitLane F info d (e.getLsbD i) (o i) (x.lane i) else x.lane i).ls) := by
    intro i hi
    have hx1 : ∀ z, z = x.mapLanes ((lanesOf F.lanes).filter fun i =>
        !((boundFaults x []).any fun f => decide (f.lane = i))) (fun i l =>
          commitLane F info d ((okLanes x e []).getLsbD i) (o i) l) →
        z.lane i = if F.lanes.getLsbD i then commitLane F info d (e.getLsbD i) (o i) (x.lane i) else x.lane i := by
      intro z hz
      rw [hz, lane_mapLanes _ ((nodup_lanesOf _).filter _)]
      simp [boundFaults_nil, okLanes_nil, mem_lanesOf, hi]
    rw [tidyGroup_lane]
    unfold commitWord
    dsimp only
    generalize hz : x.mapLanes _ _ = z
    have h1 := hx1 z hz.symm
    generalize hy : commitHandler F info _ o _ (commitOp x F info d _ (okLanes x e []) o sw (z.spend info.places)) = y
    have h2 : y.lane i = z.lane i := by rw [← hy, commitHandler_lane, commitOp_lane]; rfl
    obtain ⟨hu1, hu2⟩ := undefer_other ({ y with count := bump y.count } : Strand) F.lanes i hi
    have h3 : ({ y with count := bump y.count } : Strand).lane i = y.lane i := rfl
    rw [h3] at hu1 hu2
    refine ⟨(y.lane i).held, (({ y with count := bump y.count } : Strand).undefer F.lanes).lane i |>.ls, ?_, ?_, ?_⟩
    · rw [hu1, ← h1, h2]
    · intro _
      rw [← h1, h2]
    · intro hn
      rw [hu2 hn, ← h1, h2]
  obtain ⟨hs1, hs2, hs3, hrest⟩ := commitWord_unit (x := x) (F := F) (d := d) (e := e) (o := o) (sw := sw) hla
  have hs4 : F.handler = none → (commitWord x F info d e o sw []).tidyGroup.frags = x.frags := by
    intro hn
    rw [tidyGroup_rest]
    unfold commitWord
    dsimp only
    rw [undefer_rest]
    unfold commitHandler
    simp only [hn]
    rw [commitOp_now hla, mapLanes_rest]
    rfl
  have hin : ∀ i, i < 32 → F.lanes.getLsbD i = true → ∃ hd : Option Hold,
      (commitWord x F info d e o sw []).tidyGroup.lane i = { commitLane F info d (e.getLsbD i) (o i) (x.lane i) with held := hd } ∧
      (F.handler = none → hd = (commitLane F info d (e.getLsbD i) (o i) (x.lane i)).held) := by
    intro i hi hf
    obtain ⟨hd, ls, h1, h2, h3⟩ := hlane i hi
    simp only [hf, if_true, true_implies] at h1 h2 h3
    refine ⟨hd, ?_, fun hn => h2 (Or.inl hn)⟩
    rw [h1, h3]
  refine ⟨?_, ?_, ?_, ?_, ?_, ?_, ?_, hs2, hs3, hs4, hrest⟩
  · intro i n hi hf
    obtain ⟨hd, h1, _⟩ := hin i hi hf
    rw [h1]
    exact commitLane_reg (x.lane i) n (fun h => ho i h) hla
  · intro i n hi hf
    obtain ⟨hd, h1, _⟩ := hin i hi hf
    rw [h1]
    exact commitLane_pred (x.lane i) n (fun h => ho i h) hla
  · intro i hi hf
    obtain ⟨hd, h1, _⟩ := hin i hi hf
    rw [h1]
    exact commitLane_lpc (x.lane i) (fun h => ho i h)
  · intro i hi hf
    obtain ⟨hd, h1, _⟩ := hin i hi hf
    rw [h1, commitLane_rest (x.lane i) (fun h => ho i h)]
  · intro hn i hi hf
    obtain ⟨hd, h1, h2⟩ := hin i hi hf
    rw [h1, h2 hn, commitLane_rest (x.lane i) (fun h => ho i h)]
  · intro i hi hf
    obtain ⟨hd, ls, h1, h2, _⟩ := hlane i hi
    simp only [hf, Bool.false_eq_true, if_false] at h1 h2
    rw [h1, h2 (Or.inr trivial)]
  · intro n
    unfold Strand.sreg
    rw [hs1, taintSregs_get, sreg_foldl]
    rfl

end Sys2Proof.Machine
end

