-- ==== Sys2Proof/Laws/Finish.lean ====
section
/-! SUPPORT. State.finish and the computing words: a word without a cause answers a next state, and what that state
is. -/

namespace Sys2Proof.Machine

theorem strand_countWarm (s : State) (u v : UnitRef) (h : isWarm v = false) :
    (s.countWarm u).strand v = s.strand v := by
  cases u <;> cases v <;> simp_all [State.countWarm, State.strand, isWarm]

theorem relays_countWarm (s : State) (u : UnitRef) : (s.countWarm u).relays = s.relays := by cases u <;> rfl
theorem fields_countWarm (s : State) (u : UnitRef) : (s.countWarm u).fields = s.fields := by cases u <;> rfl
theorem ctxs_countWarm (s : State) (u : UnitRef) : (s.countWarm u).ctxs = s.ctxs := by cases u <;> rfl

/-- Replacing a unit leaves the context its heats run in. -/
theorem ctxOf_setStrand_heat (s : State) (r q h : Nat) (y : Strand) (s' : State)
    (hs : s' = (s.setStrand (.heat r q h) y).countWarm (.heat r q h)) :
    s'.ctxOf (.heat r q h) = s.ctxOf (.heat r q h) := by
  subst hs
  simp only [State.ctxOf, State.fieldOf, State.relayOf, unitRelay, Option.bind_some, State.countWarm,
    State.setStrand, modify]
  cases hr : find s.relays r with
  | none => simp [hr]
  | some rl => simp [find_put_self]

theorem stepping_withStrand (s : State) (F : Focus) (y : Strand) : (s.withStrand F.unit y).stepping F = s.stepping F := by
  unfold State.stepping State.withStrand
  cases hu : F.unit with
  | heat r q h => rw [ctxOf_setStrand_heat s r q h y _ rfl]
  | pacer r => simp [isHeat]
  | warm q => simp [isHeat]

theorem modStrand_withStrand {s : State} {u : UnitRef} {x : Strand} (y : Strand) (f : Strand → Strand)
    (h : s.strand u = some x) : (s.withStrand u y).modStrand u f = s.withStrand u (f y) := by
  unfold State.withStrand State.modStrand
  cases u with
  | heat r q k =>
    have h1 : ((s.setStrand (.heat r q k) y).countWarm (.heat r q k)).strand (.heat r q k) = some y :=
      strand_setStrand y h
    rw [h1]
    exact setStrand_setStrand s (.heat r q k) y (f y)
  | pacer r =>
    have h1 : ((s.setStrand (.pacer r) y).countWarm (.pacer r)).strand (.pacer r) = some y := strand_setStrand y h
    rw [h1]
    exact setStrand_setStrand s (.pacer r) y (f y)
  | warm q =>
    simp only [State.strand] at h
    cases hr : find s.warms q with
    | none => simp [hr] at h
    | some w => simp [State.strand, State.setStrand, State.countWarm, modify, hr, find_put_self, put_put]

theorem takeFaults_nil (s : State) (u : UnitRef) (h : Option Nat) : s.takeFaults u h [] = s := rfl
theorem stopHeat_nil (s : State) (u : UnitRef) : s.stopHeat u [] = s := by simp [State.stopHeat]
theorem park_nil {s : State} {F : Focus} {x : Strand} (y : Strand) (h : s.strand F.unit = some x)
    (hs : s.stepping F = false) : (s.withStrand F.unit y).park F [] = s.withStrand F.unit y.tidyGroup := by
  unfold State.park State.parkFaults
  have h1 : (s.withStrand F.unit y).modStrand F.unit (fun z => z.landFor []) = s.withStrand F.unit y := by
    rw [show (fun z : Strand => z.landFor []) = fun z => z from by funext z; simp [Strand.landFor]]
    exact modStrand_withStrand y (fun z => z) h
  dsimp only
  rw [h1, takeFaults_nil, stopHeat_nil, modStrand_withStrand y id h, stepping_withStrand, hs]
  simp only [Bool.false_eq_true, if_false, id]
  exact modStrand_withStrand y Strand.tidyGroup h

/-- The end of a word without a cause, which does not hold a handler's lane, changes its unit and, in a warm-up, the count
of words; nothing else. `x1` is the unit as the word has already changed it. -/
theorem finish_ok {s : State} {F : Focus} {x x1 : Strand} {info : WordInfo} {d : Dests} {e : LaneSet} {o : Nat → LaneOut}
    {sw : List (Nat × Reg)} (hx : s.strand F.unit = some x) (hs : s.stepping F = false)
    (ho : ∀ i, e.getLsbD i = true → (o i).causes = []) (hw : handlerWaits F e o [] = false) :
    s.finish F x1 info d e o sw = s.withStrand F.unit (commitWord x1 F info d e o sw []).tidyGroup := by
  unfold State.finish
  rw [faultsOf_nil ho, hs]
  simp only [Bool.false_eq_true, if_false, hw]
  exact park_nil _ hx hs

/-- A word that holds no lane does not make a handler wait. -/
theorem handlerWaits_none {F : Focus} {e : LaneSet} {o : Nat → LaneOut}
    (ho : ∀ i, e.getLsbD i = true → (o i).hold = none) : handlerWaits F e o [] = false := by
  unfold handlerWaits
  have : ((lanesOf e).any fun i => (o i).hold.isSome) = false := by
    rw [List.any_eq_false]
    intro i hi
    simp [ho i (mem_lanesOf.mp hi).2]
  simp [this]

/-- A word without a cause and without lookahead: what State.finish leaves. -/
theorem finish_ran {s : State} {F : Focus} {x : Strand} {info : WordInfo} {d : Dests} {e : LaneSet} {o : Nat → LaneOut}
    {sw : List (Nat × Reg)} (h : Issues s F x) (hla : info.la = 0) (ho : ∀ i, e.getLsbD i = true → PlainOut (o i)) :
    Ran s (s.finish F x info d e o sw) F x info e d
      { v := fun i n => lastFor (o i).v n, p := fun i n => lastFor (o i).p n, s := fun n => lastFor sw n,
        fpf := (flagsOf e o).1, slf := (flagsOf e o).2 } :=
  ⟨_, finish_ok h.strand h.noStep (fun i hi => (ho i hi).causes) (handlerWaits_none fun i hi => (ho i hi).hold),
    commitWord_ran h.lanes hla ho⟩

theorem withUnit_issues {s : State} {F : Focus} {x : Strand} (h : Issues s F x) (k : Focus → Strand → State) :
    withUnit s k = .next (k F x) := by
  simp [withUnit, h.focus, h.strand]

/-! ### Clean predicates (R260, R261) -/

/-- Where no lane of the issuing set reads a poisoned predicate, a word concerns the lanes that execute it. -/
theorem effectLanes_clean {F : Focus} {x : Strand} {p : Pred} (h : PredsClean F x p) :
    effectLanes x F.lanes p = execLanes x F.lanes p := by
  have h0 : (laneSet fun i => F.lanes.getLsbD i && decide ((x.lane i).predTaint p ≠ .clean)) = 0#32 := by
    apply BitVec.eq_of_getLsbD_eq
    intro i hi
    rw [getLsbD_laneSet]
    cases hb : F.lanes.getLsbD i
    · simp
    · simp [h i hb]
  unfold effectLanes
  rw [h0, BitVec.or_zero]

/-- The poison of no predicates joins to none. -/
theorem predTaints_clean {x : Strand} {p : Pred} (l : List Nat) (h : ∀ i ∈ l, (x.lane i).predTaint p = .clean) :
    predTaints x l p = .clean := by
  unfold predTaints
  induction l with
  | nil => rfl
  | cons a l ih =>
    simp only [List.foldl_cons, h a (by simp)]
    exact ih fun i hi => h i (by simp [hi])

theorem guardTaint_clean {F : Focus} {x : Strand} {p : Pred} (h : PredsClean F x p) :
    guardTaint x F.lanes p = .clean :=
  predTaints_clean _ fun i hi => h i (by simpa [lanesOf] using (List.mem_filter.mp hi).2)

end Sys2Proof.Machine
end

