-- ==== Sys2Proof/Laws/Alu.lean ====
section
/-! SUPPORT. Computing words: one lemma that says what aluWord does where no executing lane meets a cause. -/

namespace Sys2Proof.Machine

theorem lastFor_nil {α : Type} (n : Nat) : lastFor ([] : List (Nat × α)) n = none := rfl

theorem lastFor_single {α : Type} (k : Nat) (a : α) (n : Nat) :
    lastFor [(k, a)] n = if k = n then some a else none := by
  simp [lastFor]

theorem lastFor_splitRegs (d v : Nat) (t : Taint) (c n : Nat) : lastFor (splitRegs d v t c) n = regOf d c v t n := by
  induction c generalizing d v with
  | zero => simp [splitRegs, lastFor_nil, regOf]
  | succ c ih =>
    rw [splitRegs, lastFor_cons, ih]
    unfold regOf
    by_cases h : d = n
    · subst h
      have h1 : ¬(d + 1 ≤ d ∧ d < d + 1 + c) := by omega
      simp [h1]
    · by_cases h1 : d + 1 ≤ n ∧ n < d + 1 + c
      · have h2 : d ≤ n ∧ n < d + (c + 1) := by omega
        have h3 : 32 * (n - d) = 32 + 32 * (n - (d + 1)) := by omega
        simp only [h1, and_self, if_true, h2, Option.or]
        rw [h3, Nat.pow_add, Nat.div_div_eq_div_mul]
      · have h2 : ¬(d ≤ n ∧ n < d + (c + 1)) := by omega
        simp only [h1, h2, h, if_false, Option.or]

theorem flags_foldl (l : List Nat) (f : Nat → BitVec 5) (g : Nat → BitVec 4) (a : BitVec 5) (b : BitVec 4) :
    l.foldl (fun (p : BitVec 5 × BitVec 4) i => (p.1 ||| f i, p.2 ||| g i)) (a, b) =
      (l.foldl (fun a i => a ||| f i) a, l.foldl (fun a i => a ||| g i) b) := by
  induction l generalizing a b with
  | nil => rfl
  | cons i l ih => rw [List.foldl_cons, ih]; rfl

theorem flagsOf_eq (e : LaneSet) (o : Nat → LaneOut) :
    flagsOf e o = ((lanesOf e).foldl (fun a i => a ||| (o i).fpf) 0#5, (lanesOf e).foldl (fun a i => a ||| (o i).slf) 0#4) :=
  flags_foldl _ _ _ _ _

theorem foldl_or_congr {w : Nat} {l : List Nat} {f g : Nat → BitVec w} (h : ∀ i ∈ l, f i = g i) (a : BitVec w) :
    l.foldl (fun a i => a ||| f i) a = l.foldl (fun a i => a ||| g i) a := by
  induction l generalizing a with
  | nil => rfl
  | cons i l ih =>
    rw [List.foldl_cons, List.foldl_cons, h i (by simp)]
    exact ih (fun j hj => h j (by simp [hj])) _

/-- Two accounts of what a word writes that agree in the executing lanes are one account. -/
theorem Ran.congr {s t : State} {F : Focus} {x : Strand} {info : WordInfo} {e : LaneSet} {d : Dests} {w w' : Writes}
    (h : Ran s t F x info e d w) (hv : ∀ i n, e.getLsbD i = true → w.v i n = w'.v i n)
    (hp : ∀ i n, e.getLsbD i = true → w.p i n = w'.p i n) (hs : ∀ n, w.s n = w'.s n) (hf : w.fpf = w'.fpf)
    (hl : w.slf = w'.slf) : Ran s t F x info e d w' := by
  obtain ⟨y, ht, hy⟩ := h
  refine ⟨y, ht, ?_, ?_, hy.lpc, hy.lane, hy.held, hy.other, ?_, ?_, ?_, hy.frags, by rw [← hf, ← hl]; exact hy.rest⟩
  · intro i n hi hF
    rw [hy.reg i n hi hF]
    by_cases he : e.getLsbD i = true
    · simp [he, hv i n he]
    · simp [he]
  · intro i n hi hF
    rw [hy.pred i n hi hF]
    by_cases he : e.getLsbD i = true
    · simp [he, hp i n he]
    · simp [he]
  · intro n; rw [hy.sreg, hs]
  · rw [hy.fpf, hf, hl]
  · rw [hy.slf, hf, hl]

theorem lastFor_dstPred (w : Alu) (b : Option Bool) (t : Taint) (n : Nat) :
    lastFor (match w.pdst, b with
      | some n, some b => [(n, ⟨b, t⟩)]
      | _, _ => ([] : List (Nat × PBit))) n = w.dstPred b t n := by
  unfold Alu.dstPred
  cases w.pdst with
  | none => rfl
  | some m =>
    cases b with
    | none => rfl
    | some b => simp [lastFor_single]

theorem aluWord_lane {s : State} {F : Focus} {x : Strand} {w : Alu} {fn : List Nat → Bool → Res} (h : Issues s F x)
    (hla : w.info.la = 0) (hu : w.u = false) (hok : AluOk s F x w fn (execLanes x F.lanes w.info.pred)) :
    ∃ t, aluWord s w fn = .next t ∧
      Ran s t F x w.info (execLanes x F.lanes w.info.pred) w.dests
        (w.writes x (execLanes x F.lanes w.info.pred) fn) := by
  refine ⟨_, withUnit_issues h _, ?_⟩
  simp only [hu, Bool.false_eq_true, if_false]
  have hplain : ∀ i, (execLanes x F.lanes w.info.pred).getLsbD i = true → PlainOut (w.lane s F.unit x fn i) := by
    intro i hi
    unfold Alu.lane
    exact ⟨by simp [hok.named.1, hok.named.2 i hi, hok.none i hi, hok.quiet i hi], rfl, rfl, rfl⟩
  refine (finish_ran h hla hplain).congr ?_ ?_ ?_ ?_ ?_
  · intro i n _
    simp only [Alu.lane, Alu.writes, hu, Bool.false_eq_true, if_false, Alu.dstReg]
    cases w.dst with
    | none => rfl
    | some dc => exact lastFor_splitRegs _ _ _ _ _
  · intro i n _
    simp only [Alu.lane, Alu.writes, hu, Bool.false_eq_true, if_false]
    exact lastFor_dstPred w _ _ n
  · intro n; simp [Alu.writes, hu, lastFor_nil]
  · simp only [flagsOf_eq, Alu.writes, hu, Bool.false_eq_true, if_false, Alu.lane]
  · simp only [flagsOf_eq, Alu.writes, hu, Bool.false_eq_true, if_false, Alu.lane]

theorem nothing_of_lowest {e : LaneSet} (h : lowest e = none) (i : Nat) : e.getLsbD i = false := by
  cases he : e.getLsbD i with
  | false => rfl
  | true =>
    have hne : e ≠ 0#32 := by intro hc; simp [hc] at he
    obtain ⟨j, hj, _⟩ := lowest_some hne
    rw [h] at hj; cases hj

theorem lowest_mem {e : LaneSet} {i : Nat} (h : lowest e = some i) : e.getLsbD i = true := by
  unfold lowest at h
  have : i ∈ lanesOf e := List.mem_of_mem_head? h
  exact (mem_lanesOf.mp this).2

theorem foldl_or_one {w : Nat} {l : List Nat} {f : Nat → BitVec w} {i : Nat} (hl : l.head? = some i) (hn : l.Nodup)
    (h : ∀ j, j ≠ i → f j = 0#w) : l.foldl (fun a j => a ||| f j) 0#w = f i := by
  cases l with
  | nil => cases hl
  | cons a l =>
    simp only [List.head?_cons, Option.some.injEq] at hl
    subst hl
    have hnot := (List.nodup_cons.mp hn).1
    rw [List.foldl_cons, BitVec.zero_or]
    have : ∀ (m : List Nat) (b : BitVec w), a ∉ m → m.foldl (fun a j => a ||| f j) b = b := by
      intro m
      induction m with
      | nil => intro b _; rfl
      | cons c m ih =>
        intro b hb
        simp only [List.mem_cons, not_or] at hb
        rw [List.foldl_cons, h c (Ne.symm hb.1), BitVec.or_zero]
        exact ih b hb.2
    exact this l _ hnot

/-- A word that names more is not pending less (R85). -/
theorem pendingIn_mono {x : Strand} {i : Nat} {m n : Named} (hv : ∀ r ∈ m.v, r ∈ n.v) (hs : ∀ r ∈ m.s, r ∈ n.s)
    (hp : ∀ r ∈ m.p, r ∈ n.p) (h : pendingIn x i m = true) : pendingIn x i n = true := by
  unfold pendingIn at h ⊢
  simp only [List.any_eq_true, Bool.or_eq_true, Bool.and_eq_true] at h ⊢
  obtain ⟨o, ho, h⟩ := h
  refine ⟨o, ho, h.imp (fun ⟨r, hr, h⟩ => ⟨r, hs r hr, h⟩) ?_⟩
  rintro ⟨h1, w, hw, h2, h3⟩
  exact ⟨h1, w, hw, h2, h3.imp (fun ⟨r, hr, h⟩ => ⟨r, hv r hr, h⟩) fun ⟨r, hr, h⟩ => ⟨r, hp r hr, h⟩⟩

/-- What the lanes of a uniform word put out: nothing for the V registers, the predicate everywhere, the flags once. -/
theorem aluWord_uniform {s : State} {F : Focus} {x : Strand} {w : Alu} {fn : List Nat → Bool → Res} (h : Issues s F x)
    (hla : w.info.la = 0) (hu : w.u = true) (hok : AluOk s F x w fn (execLanes x F.lanes w.info.pred)) :
    ∃ t, aluWord s w fn = .next t ∧
      Ran s t F x w.info (execLanes x F.lanes w.info.pred) w.dests
        (w.writes x (execLanes x F.lanes w.info.pred) fn) := by
  refine ⟨_, withUnit_issues h _, ?_⟩
  simp only [hu, if_true]
  generalize execLanes x F.lanes w.info.pred = e at hok ⊢
  unfold Alu.uniform Alu.writes
  simp only [hu, if_true]
  cases hlo : lowest e with
  | none =>
    refine (finish_ran h hla ?_).congr ?_ ?_ ?_ ?_ ?_
    · intro i hi; rw [nothing_of_lowest hlo] at hi; cases hi
    · intro i n hi; rw [nothing_of_lowest hlo] at hi; cases hi
    · intro i n hi; rw [nothing_of_lowest hlo] at hi; cases hi
    · intro n; rfl
    · have : lanesOf e = [] := by unfold lowest at hlo; exact List.head?_eq_none_iff.mp hlo
      simp [flagsOf_eq, this]
    · have : lanesOf e = [] := by unfold lowest at hlo; exact List.head?_eq_none_iff.mp hlo
      simp [flagsOf_eq, this]
  | some i0 =>
    have hi0 := lowest_mem hlo
    have hhaz : ∀ i, e.getLsbD i = true → w.hazard x i = false := by
      intro i hi
      have := hok.named.2 i hi
      unfold namedCauses at this
      simp only [List.append_eq_nil_iff] at this
      rw [← Bool.not_eq_true]
      intro hc
      have hp : pendingIn x i w.named = true := by
        refine pendingIn_mono (fun _ h => by simp at h) (fun _ h => by simp at h) (fun n h => ?_) hc
        unfold Alu.named
        rcases List.mem_append.mp h with h | h
        · exact List.mem_append_left _ (List.mem_append_left _ h)
        · exact List.mem_append_right _ h
      have hnil := this.2
      simp [pendingCauses, hp] at hnil
    have hfind : ((lanesOf e).find? fun i => !w.hazard x i).getD i0 = i0 := by
      have hhd : (lanesOf e).head? = some i0 := hlo
      cases hl : lanesOf e with
      | nil => rfl
      | cons a l =>
        rw [hl] at hhd
        cases hhd
        simp [hhaz _ hi0]
    have hc0 : (w.lane s F.unit x fn i0).causes = [] := by
      unfold Alu.lane
      simp [hok.named.1, hok.named.2 i0 hi0, hok.none i0 hi0, hok.quiet i0 hi0]
    have hplain : ∀ i, e.getLsbD i = true → PlainOut
        (if i = i0 then { w.lane s F.unit x fn i0 with
            causes := [] ++ (if w.hazard x i then [0x09] else []), v := [] }
          else shareOut { w.lane s F.unit x fn i0 with
            causes := [] ++ (if w.hazard x i then [0x09] else []), v := [] } e i) := by
      intro i hi
      by_cases hc : i = i0
      · simp only [hc, hhaz i0 hi0, if_true]; exact ⟨rfl, rfl, rfl, rfl⟩
      · simp only [hc, if_false, shareOut, hi, hhaz i hi, if_true]; exact ⟨rfl, rfl, rfl, rfl⟩
    simp only [hfind, hc0, List.isEmpty_nil, if_true]
    refine (finish_ran h hla hplain).congr ?_ ?_ ?_ ?_ ?_
    · intro i n hi
      by_cases hc : i = i0 <;> simp [hc, shareOut, hi, lastFor_nil]
    · intro i n hi
      have : ∀ (b : Bool) (l : List Nat), lastFor ((if b = true then { w.lane s F.unit x fn i0 with causes := l, v := [] }
          else { w.lane s F.unit x fn i0 with causes := l, v := [], fpf := 0#5, slf := 0#4 } : LaneOut)).p n =
          w.dstPred (w.result x fn i0).p (w.taint x i0) n := by
        intro b _; cases b <;> exact lastFor_dstPred w _ _ n
      by_cases hc : i = i0
      · simpa [hc] using this true []
      · simpa [hc, shareOut, hi] using this false []
    · intro n
      simp only [Alu.dstReg]
      cases w.dst with
      | none => rfl
      | some dc => exact lastFor_splitRegs _ _ _ _ _
    · simp only [flagsOf_eq]
      have : (lanesOf e).head? = some i0 := hlo
      rw [foldl_or_one this (nodup_lanesOf e)]
      · simp [Alu.lane]
      · intro j hj; by_cases he : e.getLsbD j = true <;> simp [hj, shareOut, he, laneNone]
    · simp only [flagsOf_eq]
      have : (lanesOf e).head? = some i0 := hlo
      rw [foldl_or_one this (nodup_lanesOf e)]
      · simp [Alu.lane]
      · intro j hj; by_cases he : e.getLsbD j = true <;> simp [hj, shareOut, he, laneNone]

/-- What a computing word does where no executing lane meets a cause. -/
theorem aluWord_ran {s : State} {F : Focus} {x : Strand} {w : Alu} {fn : List Nat → Bool → Res} (h : Issues s F x)
    (hla : w.info.la = 0) (hok : AluOk s F x w fn (execLanes x F.lanes w.info.pred)) :
    ∃ t, aluWord s w fn = .next t ∧
      Ran s t F x w.info (execLanes x F.lanes w.info.pred) w.dests
        (w.writes x (execLanes x F.lanes w.info.pred) fn) := by
  cases hu : w.u with
  | false => exact aluWord_lane h hla hu hok
  | true => exact aluWord_uniform h hla hu hok

/-- An instruction whose meaning is a computing word runs as one. -/
theorem runsAlu_of {i : Instr} {w : Alu} {fn : List Nat → Bool → Res} (h : ∀ s, exec i s = aluWord s w fn) :
    RunsAlu i w fn := by
  intro s F x hi hla hok
  rw [h]
  exact aluWord_ran hi hla hok

end Sys2Proof.Machine
end

