-- ==== Sys2Proof/Laws/Codec.lean ====
section
/-! SUPPORT. Packing and unpacking of fields are inverse, and the head of an encoded word gives back the fields it was
built from (R330, R345). -/

namespace Sys2Proof

open Machine

/-- Every value fits its width. -/
def Fit : List (Nat × Nat) → Prop
  | [] => True
  | (w, v) :: fs => v < 2 ^ w ∧ Fit fs

def widths : List (Nat × Nat) → Nat
  | [] => 0
  | (w, _) :: fs => w + widths fs

theorem pack_lt : ∀ {fs : List (Nat × Nat)}, Fit fs → pack fs < 2 ^ widths fs
  | [], _ => by simp [pack, widths]
  | (w, v) :: fs, h => by
    have ih := pack_lt h.2
    rw [pack, widths, Nat.pow_add]
    have h1 : 2 ^ w * pack fs + 2 ^ w ≤ 2 ^ w * 2 ^ widths fs := by
      rw [← Nat.mul_succ]; exact Nat.mul_le_mul_left _ ih
    have := h.1
    omega

theorem unpack_pack : ∀ {fs : List (Nat × Nat)}, Fit fs →
    unpack (fs.map fun e => e.1) (pack fs) = fs.map fun e => e.2
  | [], _ => rfl
  | (w, v) :: fs, h => by
    have ih := unpack_pack h.2
    have h1 : (v + 2 ^ w * pack fs) % 2 ^ w = v := by
      rw [Nat.add_mul_mod_self_left, Nat.mod_eq_of_lt h.1]
    have h2 : (v + 2 ^ w * pack fs) / 2 ^ w = pack fs := by
      rw [Nat.add_mul_div_left _ _ (Nat.two_pow_pos w), Nat.div_eq_of_lt h.1, Nat.zero_add]
    simp only [List.map_cons, pack, unpack, h1, h2, ih]

theorem boolBit_lt (b : Bool) : boolBit b < 2 ^ 1 := by cases b <;> decide

theorem rndCode_lt (r : Rnd) : rndCode r < 2 ^ 2 := by cases r <;> decide

/-- What the head of an encoded word reads. -/
theorem head_encHead {kind op la low : Nat} (p : Pred) (hk : kind < 4) (ho : op < 256) (hl : la < 16)
    (hw : low < 2 ^ 45) : head (encHead kind op p la low) = ⟨low, la, p, op, kind⟩ := by
  have hf : Fit [(45, low), (4, la), (1, boolBit p.neg), (4, p.sel.toNat), (8, op), (2, kind)] :=
    ⟨hw, hl, boolBit_lt _, p.sel.isLt, ho, hk, trivial⟩
  have h1 : (encHead kind op p la low).toNat =
      pack [(45, low), (4, la), (1, boolBit p.neg), (4, p.sel.toNat), (8, op), (2, kind)] := by
    rw [encHead, BitVec.toNat_ofNat]
    exact Nat.mod_eq_of_lt (show _ < 2 ^ 64 from pack_lt hf)
  have h2 := unpack_pack hf
  simp only [List.map_cons, List.map_nil] at h2
  unfold head
  rw [h1, h2]
  cases p with
  | mk sel neg => cases neg <;> simp [boolBit, BitVec.ofNat_toNat]

/-! ### Layouts: what the head of an encoded word is -/

section
variable (op : Nat)

/-- The fields of MOD fit. -/
theorem fit_mod (opx : BitVec 3) (u sc sb sa sat : Bool) (rnd : Rnd) (ty : BitVec 3) {l : List (Nat × Nat)} (h : Fit l) :
    Fit (modFields opx.toNat u sc sb sa sat rnd ty.toNat ++ l) :=
  ⟨opx.isLt, boolBit_lt _, boolBit_lt _, boolBit_lt _, boolBit_lt _, boolBit_lt _, rndCode_lt _, ty.isLt, h⟩

theorem low_lt {l : List (Nat × Nat)} (h : Fit l) (hw : widths l = 45) : pack l < 2 ^ 45 := hw ▸ pack_lt h

theorem fit_reg (f : RegF) : Fit (modFields f.opx.toNat f.u f.sc f.sb f.sa f.sat f.rnd f.ty.toNat ++
    [(8, f.c.toNat), (8, f.b.toNat), (8, f.a.toNat), (8, f.d.toNat)]) :=
  fit_mod _ _ _ _ _ _ _ _ ⟨f.c.isLt, f.b.isLt, f.a.isLt, f.d.isLt, trivial⟩

theorem fit_imm (f : ImmF) : Fit [(29, f.imm.toNat), (8, f.a.toNat), (8, f.d.toNat)] :=
  ⟨f.imm.isLt, f.a.isLt, f.d.isLt, trivial⟩

theorem fit_cmp (f : CmpF) : Fit (modFields f.opx.toNat f.u f.sc f.sb f.sa f.sat f.rnd f.ty.toNat ++
    [(8, f.c.toNat), (8, f.b.toNat), (8, f.a.toNat), (4, f.pd.toNat), (4, f.cc.toNat)]) :=
  fit_mod _ _ _ _ _ _ _ _ ⟨f.c.isLt, f.b.isLt, f.a.isLt, f.pd.isLt, f.cc.isLt, trivial⟩

theorem fit_cmpi (f : CmpiF) : Fit [(29, f.imm.toNat), (8, f.a.toNat), (4, f.pd.toNat), (4, f.cc.toNat)] :=
  ⟨f.imm.isLt, f.a.isLt, f.pd.isLt, f.cc.isLt, trivial⟩

theorem fit_chn (f : ChnF) : Fit (modFields (boolBit f.opx) false false f.sb f.sa false .rne 0 ++
    [(4, 0), (4, f.pc.toNat), (8, f.b.toNat), (8, f.a.toNat), (8, f.d.toNat)]) := by
  have h := boolBit_lt f.opx
  exact ⟨by omega, boolBit_lt _, boolBit_lt _, boolBit_lt _, boolBit_lt _, boolBit_lt _, rndCode_lt _, by decide,
    by decide, f.pc.isLt, f.b.isLt, f.a.isLt, f.d.isLt, trivial⟩

theorem fit_capn (f : CapnF) :
    Fit [(13, 0), (8, f.c.toNat), (8, f.b.toNat), (8, f.a.toNat), (4, f.cd.toNat), (4, f.cs.toNat)] :=
  ⟨by decide, f.c.isLt, f.b.isLt, f.a.isLt, f.cd.isLt, f.cs.isLt, trivial⟩

theorem fit_jmp (f : JmpF) : Fit [(29, f.off.toNat), (16, 0)] := ⟨f.off.isLt, by decide, trivial⟩

theorem fit_nil {opx : Nat} (h : opx < 8) : Fit [(3, opx), (42, 0)] := ⟨h, by decide, trivial⟩

theorem fit_mem (f : MemF) : Fit [(2, f.opx.toNat), (3, f.scope.toNat), (1, boolBit f.wide), (1, boolBit f.sa),
    (3, f.ord.toNat), (3, f.size.toNat), (12, f.imm.toNat), (4, f.cap.toNat), (8, f.a.toNat), (8, f.d.toNat)] :=
  ⟨f.opx.isLt, f.scope.isLt, boolBit_lt _, boolBit_lt _, f.ord.isLt, f.size.isLt, f.imm.isLt, f.cap.isLt, f.a.isLt,
    f.d.isLt, trivial⟩

theorem fit_atm (f : AtmF) : Fit [(2, 0), (3, f.scope.toNat), (1, boolBit f.wide), (1, boolBit f.sa), (3, f.ord.toNat),
    (3, f.size.toNat), (4, f.aop.toNat), (8, f.b.toNat), (4, f.cap.toNat), (8, f.a.toNat), (8, f.d.toNat)] :=
  ⟨by decide, f.scope.isLt, boolBit_lt _, boolBit_lt _, f.ord.isLt, f.size.isLt, f.aop.isLt, f.b.isLt, f.cap.isLt,
    f.a.isLt, f.d.isLt, trivial⟩

end

/-! ### KIND tells how many words an instruction has (R326) -/

section
variable {op : Nat} (h : op < 256)
include h

theorem kind_encReg (f : RegF) : (head (encReg op f)).kind = 0 := by
  rw [encReg, head_encHead f.pred (by decide) h f.la.isLt (low_lt (fit_reg f) rfl)]

theorem kind_encImm (f : ImmF) : (head (encImm op f)).kind = 0 := by
  rw [encImm, head_encHead f.pred (by decide) h f.la.isLt (low_lt (fit_imm f) rfl)]

theorem kind_encCmp (f : CmpF) : (head (encCmp op f)).kind = 0 := by
  rw [encCmp, head_encHead f.pred (by decide) h (by decide) (low_lt (fit_cmp f) rfl)]

theorem kind_encCmpi (f : CmpiF) : (head (encCmpi op f)).kind = 0 := by
  rw [encCmpi, head_encHead f.pred (by decide) h (by decide) (low_lt (fit_cmpi f) rfl)]

theorem kind_encChn (f : ChnF) : (head (encChn op f)).kind = 0 := by
  rw [encChn, head_encHead f.pred (by decide) h f.la.isLt (low_lt (fit_chn f) rfl)]

theorem kind_encCapn (f : CapnF) : (head (encCapn op f)).kind = 0 := by
  rw [encCapn, head_encHead f.pred (by decide) h (by decide) (low_lt (fit_capn f) rfl)]

theorem kind_encJmp (f : JmpF) : (head (encJmp op f)).kind = 0 := by
  rw [encJmp, head_encHead f.pred (by decide) h (by decide) (low_lt (fit_jmp f) rfl)]

theorem kind_encNil {opx : Nat} (ho : opx < 8) (f : NilF) : (head (encNil op opx f)).kind = 0 := by
  rw [encNil, head_encHead f.pred (by decide) h (by decide) (low_lt (fit_nil ho) rfl)]

theorem kind_encMem (f : MemF) : (head (encMem op f)).kind = 0 := by
  rw [encMem, head_encHead f.pred (by decide) h f.la.isLt (low_lt (fit_mem f) rfl)]

theorem kind_encAtm (f : AtmF) : (head (encAtm op f)).kind = 0 := by
  rw [encAtm, head_encHead f.pred (by decide) h f.la.isLt (low_lt (fit_atm f) rfl)]

end

theorem kind_encLdk (f : LdkF) : (head (encLdk f)).kind = 2 := by
  have hf : Fit [(5, 0), (1, boolBit f.wide), (1, boolBit f.sa), (3, 0), (3, f.size.toNat), (16, 0), (8, f.a.toNat),
      (8, f.d.toNat)] :=
    ⟨by decide, boolBit_lt _, boolBit_lt _, by decide, f.size.isLt, by decide, f.a.isLt, f.d.isLt, trivial⟩
  rw [encLdk, head_encHead f.pred (by decide) (by decide) f.la.isLt (low_lt hf rfl)]

theorem kind_encCqwx (f : CqwxF) : (head (encCqwx f)).kind = 2 := by
  have hf : Fit [(37, 0), (8, f.slot.toNat)] := ⟨by decide, f.slot.isLt, trivial⟩
  rw [encCqwx, head_encHead f.pred (by decide) (by decide) (by decide) (low_lt hf rfl)]

theorem kind_encTdesc (f : TdescF) : (head (encTdesc f)).kind = 2 := by
  have hf : Fit [(29, 0), (8, f.a.toNat), (8, f.t.toNat)] := ⟨by decide, f.a.isLt, f.t.isLt, trivial⟩
  rw [encTdesc, head_encHead f.pred (by decide) (by decide) (by decide) (low_lt hf rfl)]

theorem kind_encMovix (f : MovixF) : (head (encMovix f)).kind = 2 := by
  have hf : Fit [(3, 0), (1, boolBit f.u), (6, 0), (3, f.ty.toNat), (24, 0), (8, f.d.toNat)] :=
    ⟨by decide, boolBit_lt _, by decide, f.ty.isLt, by decide, f.d.isLt, trivial⟩
  rw [encMovix, head_encHead f.pred (by decide) (by decide) (by decide) (low_lt hf rfl)]

theorem fit_half (x : HalfF) {l : List (Nat × Nat)} (h : Fit l) : Fit (halfFields x ++ l) :=
  ⟨x.hmod.isLt, x.s.isLt, x.d.isLt, x.hpred.isLt, x.hop.isLt, h⟩

theorem kind_encPair (h0 h1 : HalfF) : (head (encPair h0 h1)).kind = 1 := by
  have hf : Fit (halfFields h1 ++ (halfFields h0 ++ [(2, 1)])) := fit_half h1 (fit_half h0 ⟨by decide, trivial⟩)
  have hn : (encPair h0 h1).toNat = pack (halfFields h1 ++ (halfFields h0 ++ [(2, 1)])) := by
    rw [encPair, BitVec.toNat_ofNat, List.append_assoc]
    exact Nat.mod_eq_of_lt (show _ < 2 ^ 64 from pack_lt hf)
  have hk : (encPair h0 h1).toNat / 2 ^ 62 = 1 := by
    rw [hn]
    simp only [halfFields, List.cons_append, List.nil_append, pack]
    have := h0.hmod.isLt; have := h0.s.isLt; have := h0.d.isLt; have := h0.hpred.isLt; have := h0.hop.isLt
    have := h1.hmod.isLt; have := h1.s.isLt; have := h1.d.isLt; have := h1.hpred.isLt; have := h1.hop.isLt
    omega
  have hu : (head (encPair h0 h1)).kind = (encPair h0 h1).toNat / 2 ^ 62 % 4 := by
    simp only [head, unpack, Nat.div_div_eq_div_mul] <;> rfl
  rw [hu, hk]

end Sys2Proof
end

