-- ==== Sys2Proof/Laws/State.lean ====
section
/-! SUPPORT. The fields of the state under each named update: one lemma per field and update, all true by unfolding; and
what reading a cluster, core, port, frame, byte or tag gives after it is written. -/

namespace Sys2Proof.Machine

/-! ### setStrand -/

section
variable (s : State) (u : UnitRef) (x : Strand)

@[simp] theorem State.setStrand_dev : (s.setStrand u x).dev = s.dev := by cases u <;> rfl
@[simp] theorem State.setStrand_clusters : (s.setStrand u x).clusters = s.clusters := by cases u <;> rfl
@[simp] theorem State.setStrand_cores : (s.setStrand u x).cores = s.cores := by cases u <;> rfl
@[simp] theorem State.setStrand_slices : (s.setStrand u x).slices = s.slices := by cases u <;> rfl
@[simp] theorem State.setStrand_links : (s.setStrand u x).links = s.links := by cases u <;> rfl
@[simp] theorem State.setStrand_dies : (s.setStrand u x).dies = s.dies := by cases u <;> rfl
@[simp] theorem State.setStrand_rot : (s.setStrand u x).rot = s.rot := by cases u <;> rfl
@[simp] theorem State.setStrand_wear : (s.setStrand u x).wear = s.wear := by cases u <;> rfl
@[simp] theorem State.setStrand_mem : (s.setStrand u x).mem = s.mem := by cases u <;> rfl
@[simp] theorem State.setStrand_tags : (s.setStrand u x).tags = s.tags := by cases u <;> rfl
@[simp] theorem State.setStrand_frames : (s.setStrand u x).frames = s.frames := by cases u <;> rfl
@[simp] theorem State.setStrand_zeroing : (s.setStrand u x).zeroing = s.zeroing := by cases u <;> rfl
@[simp] theorem State.setStrand_records : (s.setStrand u x).records = s.records := by cases u <;> rfl
@[simp] theorem State.setStrand_walks : (s.setStrand u x).walks = s.walks := by cases u <;> rfl
@[simp] theorem State.setStrand_port0 : (s.setStrand u x).port0 = s.port0 := by cases u <;> rfl
@[simp] theorem State.setStrand_port1 : (s.setStrand u x).port1 = s.port1 := by cases u <;> rfl
@[simp] theorem State.setStrand_ctxs : (s.setStrand u x).ctxs = s.ctxs := by cases u <;> rfl
@[simp] theorem State.setStrand_queues : (s.setStrand u x).queues = s.queues := by cases u <;> rfl
@[simp] theorem State.setStrand_meets : (s.setStrand u x).meets = s.meets := by cases u <;> rfl
@[simp] theorem State.setStrand_fields : (s.setStrand u x).fields = s.fields := by cases u <;> rfl
@[simp] theorem State.setStrand_agenda : (s.setStrand u x).agenda = s.agenda := by cases u <;> rfl
@[simp] theorem State.setStrand_focus : (s.setStrand u x).focus = s.focus := by cases u <;> rfl
@[simp] theorem State.setStrand_tick : (s.setStrand u x).tick = s.tick := by cases u <;> rfl
@[simp] theorem State.setStrand_nextId : (s.setStrand u x).nextId = s.nextId := by cases u <;> rfl

end

/-! ### modRelay -/

section
variable (s : State) (r : Nat) (f : Relay → Relay)

@[simp] theorem State.modRelay_dev : (s.modRelay r f).dev = s.dev := rfl
@[simp] theorem State.modRelay_clusters : (s.modRelay r f).clusters = s.clusters := rfl
@[simp] theorem State.modRelay_cores : (s.modRelay r f).cores = s.cores := rfl
@[simp] theorem State.modRelay_slices : (s.modRelay r f).slices = s.slices := rfl
@[simp] theorem State.modRelay_links : (s.modRelay r f).links = s.links := rfl
@[simp] theorem State.modRelay_dies : (s.modRelay r f).dies = s.dies := rfl
@[simp] theorem State.modRelay_rot : (s.modRelay r f).rot = s.rot := rfl
@[simp] theorem State.modRelay_wear : (s.modRelay r f).wear = s.wear := rfl
@[simp] theorem State.modRelay_mem : (s.modRelay r f).mem = s.mem := rfl
@[simp] theorem State.modRelay_tags : (s.modRelay r f).tags = s.tags := rfl
@[simp] theorem State.modRelay_frames : (s.modRelay r f).frames = s.frames := rfl
@[simp] theorem State.modRelay_zeroing : (s.modRelay r f).zeroing = s.zeroing := rfl
@[simp] theorem State.modRelay_records : (s.modRelay r f).records = s.records := rfl
@[simp] theorem State.modRelay_walks : (s.modRelay r f).walks = s.walks := rfl
@[simp] theorem State.modRelay_port0 : (s.modRelay r f).port0 = s.port0 := rfl
@[simp] theorem State.modRelay_port1 : (s.modRelay r f).port1 = s.port1 := rfl
@[simp] theorem State.modRelay_ctxs : (s.modRelay r f).ctxs = s.ctxs := rfl
@[simp] theorem State.modRelay_queues : (s.modRelay r f).queues = s.queues := rfl
@[simp] theorem State.modRelay_meets : (s.modRelay r f).meets = s.meets := rfl
@[simp] theorem State.modRelay_fields : (s.modRelay r f).fields = s.fields := rfl
@[simp] theorem State.modRelay_warms : (s.modRelay r f).warms = s.warms := rfl
@[simp] theorem State.modRelay_agenda : (s.modRelay r f).agenda = s.agenda := rfl
@[simp] theorem State.modRelay_focus : (s.modRelay r f).focus = s.focus := rfl
@[simp] theorem State.modRelay_tick : (s.modRelay r f).tick = s.tick := rfl
@[simp] theorem State.modRelay_nextId : (s.modRelay r f).nextId = s.nextId := rfl

end

/-! ### setCluster -/

section
variable (s : State) (c : Nat) (x : Cluster)

@[simp] theorem State.setCluster_dev : (s.setCluster c x).dev = s.dev := rfl
@[simp] theorem State.setCluster_cores : (s.setCluster c x).cores = s.cores := rfl
@[simp] theorem State.setCluster_slices : (s.setCluster c x).slices = s.slices := rfl
@[simp] theorem State.setCluster_links : (s.setCluster c x).links = s.links := rfl
@[simp] theorem State.setCluster_dies : (s.setCluster c x).dies = s.dies := rfl
@[simp] theorem State.setCluster_rot : (s.setCluster c x).rot = s.rot := rfl
@[simp] theorem State.setCluster_wear : (s.setCluster c x).wear = s.wear := rfl
@[simp] theorem State.setCluster_mem : (s.setCluster c x).mem = s.mem := rfl
@[simp] theorem State.setCluster_tags : (s.setCluster c x).tags = s.tags := rfl
@[simp] theorem State.setCluster_frames : (s.setCluster c x).frames = s.frames := rfl
@[simp] theorem State.setCluster_zeroing : (s.setCluster c x).zeroing = s.zeroing := rfl
@[simp] theorem State.setCluster_records : (s.setCluster c x).records = s.records := rfl
@[simp] theorem State.setCluster_walks : (s.setCluster c x).walks = s.walks := rfl
@[simp] theorem State.setCluster_port0 : (s.setCluster c x).port0 = s.port0 := rfl
@[simp] theorem State.setCluster_port1 : (s.setCluster c x).port1 = s.port1 := rfl
@[simp] theorem State.setCluster_ctxs : (s.setCluster c x).ctxs = s.ctxs := rfl
@[simp] theorem State.setCluster_queues : (s.setCluster c x).queues = s.queues := rfl
@[simp] theorem State.setCluster_meets : (s.setCluster c x).meets = s.meets := rfl
@[simp] theorem State.setCluster_fields : (s.setCluster c x).fields = s.fields := rfl
@[simp] theorem State.setCluster_warms : (s.setCluster c x).warms = s.warms := rfl
@[simp] theorem State.setCluster_relays : (s.setCluster c x).relays = s.relays := rfl
@[simp] theorem State.setCluster_agenda : (s.setCluster c x).agenda = s.agenda := rfl
@[simp] theorem State.setCluster_focus : (s.setCluster c x).focus = s.focus := rfl
@[simp] theorem State.setCluster_tick : (s.setCluster c x).tick = s.tick := rfl
@[simp] theorem State.setCluster_nextId : (s.setCluster c x).nextId = s.nextId := rfl

end

/-! ### setCore -/

section
variable (s : State) (p : Nat) (x : CoreState)

@[simp] theorem State.setCore_dev : (s.setCore p x).dev = s.dev := rfl
@[simp] theorem State.setCore_clusters : (s.setCore p x).clusters = s.clusters := rfl
@[simp] theorem State.setCore_slices : (s.setCore p x).slices = s.slices := rfl
@[simp] theorem State.setCore_links : (s.setCore p x).links = s.links := rfl
@[simp] theorem State.setCore_dies : (s.setCore p x).dies = s.dies := rfl
@[simp] theorem State.setCore_rot : (s.setCore p x).rot = s.rot := rfl
@[simp] theorem State.setCore_wear : (s.setCore p x).wear = s.wear := rfl
@[simp] theorem State.setCore_mem : (s.setCore p x).mem = s.mem := rfl
@[simp] theorem State.setCore_tags : (s.setCore p x).tags = s.tags := rfl
@[simp] theorem State.setCore_frames : (s.setCore p x).frames = s.frames := rfl
@[simp] theorem State.setCore_zeroing : (s.setCore p x).zeroing = s.zeroing := rfl
@[simp] theorem State.setCore_records : (s.setCore p x).records = s.records := rfl
@[simp] theorem State.setCore_walks : (s.setCore p x).walks = s.walks := rfl
@[simp] theorem State.setCore_port0 : (s.setCore p x).port0 = s.port0 := rfl
@[simp] theorem State.setCore_port1 : (s.setCore p x).port1 = s.port1 := rfl
@[simp] theorem State.setCore_ctxs : (s.setCore p x).ctxs = s.ctxs := rfl
@[simp] theorem State.setCore_queues : (s.setCore p x).queues = s.queues := rfl
@[simp] theorem State.setCore_meets : (s.setCore p x).meets = s.meets := rfl
@[simp] theorem State.setCore_fields : (s.setCore p x).fields = s.fields := rfl
@[simp] theorem State.setCore_warms : (s.setCore p x).warms = s.warms := rfl
@[simp] theorem State.setCore_relays : (s.setCore p x).relays = s.relays := rfl
@[simp] theorem State.setCore_agenda : (s.setCore p x).agenda = s.agenda := rfl
@[simp] theorem State.setCore_focus : (s.setCore p x).focus = s.focus := rfl
@[simp] theorem State.setCore_tick : (s.setCore p x).tick = s.tick := rfl
@[simp] theorem State.setCore_nextId : (s.setCore p x).nextId = s.nextId := rfl

end

/-! ### setPort -/

section
variable (s : State) (p : Port) (x : PortState)

@[simp] theorem State.setPort_dev : (s.setPort p x).dev = s.dev := by cases p <;> rfl
@[simp] theorem State.setPort_clusters : (s.setPort p x).clusters = s.clusters := by cases p <;> rfl
@[simp] theorem State.setPort_cores : (s.setPort p x).cores = s.cores := by cases p <;> rfl
@[simp] theorem State.setPort_slices : (s.setPort p x).slices = s.slices := by cases p <;> rfl
@[simp] theorem State.setPort_links : (s.setPort p x).links = s.links := by cases p <;> rfl
@[simp] theorem State.setPort_dies : (s.setPort p x).dies = s.dies := by cases p <;> rfl
@[simp] theorem State.setPort_rot : (s.setPort p x).rot = s.rot := by cases p <;> rfl
@[simp] theorem State.setPort_wear : (s.setPort p x).wear = s.wear := by cases p <;> rfl
@[simp] theorem State.setPort_mem : (s.setPort p x).mem = s.mem := by cases p <;> rfl
@[simp] theorem State.setPort_tags : (s.setPort p x).tags = s.tags := by cases p <;> rfl
@[simp] theorem State.setPort_frames : (s.setPort p x).frames = s.frames := by cases p <;> rfl
@[simp] theorem State.setPort_zeroing : (s.setPort p x).zeroing = s.zeroing := by cases p <;> rfl
@[simp] theorem State.setPort_records : (s.setPort p x).records = s.records := by cases p <;> rfl
@[simp] theorem State.setPort_walks : (s.setPort p x).walks = s.walks := by cases p <;> rfl
@[simp] theorem State.setPort_ctxs : (s.setPort p x).ctxs = s.ctxs := by cases p <;> rfl
@[simp] theorem State.setPort_queues : (s.setPort p x).queues = s.queues := by cases p <;> rfl
@[simp] theorem State.setPort_meets : (s.setPort p x).meets = s.meets := by cases p <;> rfl
@[simp] theorem State.setPort_fields : (s.setPort p x).fields = s.fields := by cases p <;> rfl
@[simp] theorem State.setPort_warms : (s.setPort p x).warms = s.warms := by cases p <;> rfl
@[simp] theorem State.setPort_relays : (s.setPort p x).relays = s.relays := by cases p <;> rfl
@[simp] theorem State.setPort_agenda : (s.setPort p x).agenda = s.agenda := by cases p <;> rfl
@[simp] theorem State.setPort_focus : (s.setPort p x).focus = s.focus := by cases p <;> rfl
@[simp] theorem State.setPort_tick : (s.setPort p x).tick = s.tick := by cases p <;> rfl
@[simp] theorem State.setPort_nextId : (s.setPort p x).nextId = s.nextId := by cases p <;> rfl

end

/-! ### modPort -/

section
variable (s : State) (p : Port) (f : PortState → PortState)

@[simp] theorem State.modPort_dev : (s.modPort p f).dev = s.dev := by cases p <;> rfl
@[simp] theorem State.modPort_clusters : (s.modPort p f).clusters = s.clusters := by cases p <;> rfl
@[simp] theorem State.modPort_cores : (s.modPort p f).cores = s.cores := by cases p <;> rfl
@[simp] theorem State.modPort_slices : (s.modPort p f).slices = s.slices := by cases p <;> rfl
@[simp] theorem State.modPort_links : (s.modPort p f).links = s.links := by cases p <;> rfl
@[simp] theorem State.modPort_dies : (s.modPort p f).dies = s.dies := by cases p <;> rfl
@[simp] theorem State.modPort_rot : (s.modPort p f).rot = s.rot := by cases p <;> rfl
@[simp] theorem State.modPort_wear : (s.modPort p f).wear = s.wear := by cases p <;> rfl
@[simp] theorem State.modPort_mem : (s.modPort p f).mem = s.mem := by cases p <;> rfl
@[simp] theorem State.modPort_tags : (s.modPort p f).tags = s.tags := by cases p <;> rfl
@[simp] theorem State.modPort_frames : (s.modPort p f).frames = s.frames := by cases p <;> rfl
@[simp] theorem State.modPort_zeroing : (s.modPort p f).zeroing = s.zeroing := by cases p <;> rfl
@[simp] theorem State.modPort_records : (s.modPort p f).records = s.records := by cases p <;> rfl
@[simp] theorem State.modPort_walks : (s.modPort p f).walks = s.walks := by cases p <;> rfl
@[simp] theorem State.modPort_ctxs : (s.modPort p f).ctxs = s.ctxs := by cases p <;> rfl
@[simp] theorem State.modPort_queues : (s.modPort p f).queues = s.queues := by cases p <;> rfl
@[simp] theorem State.modPort_meets : (s.modPort p f).meets = s.meets := by cases p <;> rfl
@[simp] theorem State.modPort_fields : (s.modPort p f).fields = s.fields := by cases p <;> rfl
@[simp] theorem State.modPort_warms : (s.modPort p f).warms = s.warms := by cases p <;> rfl
@[simp] theorem State.modPort_relays : (s.modPort p f).relays = s.relays := by cases p <;> rfl
@[simp] theorem State.modPort_agenda : (s.modPort p f).agenda = s.agenda := by cases p <;> rfl
@[simp] theorem State.modPort_focus : (s.modPort p f).focus = s.focus := by cases p <;> rfl
@[simp] theorem State.modPort_tick : (s.modPort p f).tick = s.tick := by cases p <;> rfl
@[simp] theorem State.modPort_nextId : (s.modPort p f).nextId = s.nextId := by cases p <;> rfl

end

/-! ### setFrame -/

section
variable (s : State) (n : Nat) (x : Frame)

@[simp] theorem State.setFrame_dev : (s.setFrame n x).dev = s.dev := rfl
@[simp] theorem State.setFrame_clusters : (s.setFrame n x).clusters = s.clusters := rfl
@[simp] theorem State.setFrame_cores : (s.setFrame n x).cores = s.cores := rfl
@[simp] theorem State.setFrame_slices : (s.setFrame n x).slices = s.slices := rfl
@[simp] theorem State.setFrame_links : (s.setFrame n x).links = s.links := rfl
@[simp] theorem State.setFrame_dies : (s.setFrame n x).dies = s.dies := rfl
@[simp] theorem State.setFrame_rot : (s.setFrame n x).rot = s.rot := rfl
@[simp] theorem State.setFrame_wear : (s.setFrame n x).wear = s.wear := rfl
@[simp] theorem State.setFrame_mem : (s.setFrame n x).mem = s.mem := rfl
@[simp] theorem State.setFrame_tags : (s.setFrame n x).tags = s.tags := rfl
@[simp] theorem State.setFrame_zeroing : (s.setFrame n x).zeroing = s.zeroing := rfl
@[simp] theorem State.setFrame_records : (s.setFrame n x).records = s.records := rfl
@[simp] theorem State.setFrame_walks : (s.setFrame n x).walks = s.walks := rfl
@[simp] theorem State.setFrame_port0 : (s.setFrame n x).port0 = s.port0 := rfl
@[simp] theorem State.setFrame_port1 : (s.setFrame n x).port1 = s.port1 := rfl
@[simp] theorem State.setFrame_ctxs : (s.setFrame n x).ctxs = s.ctxs := rfl
@[simp] theorem State.setFrame_queues : (s.setFrame n x).queues = s.queues := rfl
@[simp] theorem State.setFrame_meets : (s.setFrame n x).meets = s.meets := rfl
@[simp] theorem State.setFrame_fields : (s.setFrame n x).fields = s.fields := rfl
@[simp] theorem State.setFrame_warms : (s.setFrame n x).warms = s.warms := rfl
@[simp] theorem State.setFrame_relays : (s.setFrame n x).relays = s.relays := rfl
@[simp] theorem State.setFrame_agenda : (s.setFrame n x).agenda = s.agenda := rfl
@[simp] theorem State.setFrame_focus : (s.setFrame n x).focus = s.focus := rfl
@[simp] theorem State.setFrame_tick : (s.setFrame n x).tick = s.tick := rfl
@[simp] theorem State.setFrame_nextId : (s.setFrame n x).nextId = s.nextId := rfl

end

/-! ### setByte -/

section
variable (s : State) (a : Nat) (b : Byte)

@[simp] theorem State.setByte_dev : (s.setByte a b).dev = s.dev := rfl
@[simp] theorem State.setByte_clusters : (s.setByte a b).clusters = s.clusters := rfl
@[simp] theorem State.setByte_cores : (s.setByte a b).cores = s.cores := rfl
@[simp] theorem State.setByte_slices : (s.setByte a b).slices = s.slices := rfl
@[simp] theorem State.setByte_links : (s.setByte a b).links = s.links := rfl
@[simp] theorem State.setByte_dies : (s.setByte a b).dies = s.dies := rfl
@[simp] theorem State.setByte_rot : (s.setByte a b).rot = s.rot := rfl
@[simp] theorem State.setByte_wear : (s.setByte a b).wear = s.wear := rfl
@[simp] theorem State.setByte_tags : (s.setByte a b).tags = s.tags := rfl
@[simp] theorem State.setByte_frames : (s.setByte a b).frames = s.frames := rfl
@[simp] theorem State.setByte_zeroing : (s.setByte a b).zeroing = s.zeroing := rfl
@[simp] theorem State.setByte_records : (s.setByte a b).records = s.records := rfl
@[simp] theorem State.setByte_walks : (s.setByte a b).walks = s.walks := rfl
@[simp] theorem State.setByte_port0 : (s.setByte a b).port0 = s.port0 := rfl
@[simp] theorem State.setByte_port1 : (s.setByte a b).port1 = s.port1 := rfl
@[simp] theorem State.setByte_ctxs : (s.setByte a b).ctxs = s.ctxs := rfl
@[simp] theorem State.setByte_queues : (s.setByte a b).queues = s.queues := rfl
@[simp] theorem State.setByte_meets : (s.setByte a b).meets = s.meets := rfl
@[simp] theorem State.setByte_fields : (s.setByte a b).fields = s.fields := rfl
@[simp] theorem State.setByte_warms : (s.setByte a b).warms = s.warms := rfl
@[simp] theorem State.setByte_relays : (s.setByte a b).relays = s.relays := rfl
@[simp] theorem State.setByte_agenda : (s.setByte a b).agenda = s.agenda := rfl
@[simp] theorem State.setByte_focus : (s.setByte a b).focus = s.focus := rfl
@[simp] theorem State.setByte_tick : (s.setByte a b).tick = s.tick := rfl
@[simp] theorem State.setByte_nextId : (s.setByte a b).nextId = s.nextId := rfl

end

/-! ### setTag -/

section
variable (s : State) (a : Nat) (b : Bool)

@[simp] theorem State.setTag_dev : (s.setTag a b).dev = s.dev := rfl
@[simp] theorem State.setTag_clusters : (s.setTag a b).clusters = s.clusters := rfl
@[simp] theorem State.setTag_cores : (s.setTag a b).cores = s.cores := rfl
@[simp] theorem State.setTag_slices : (s.setTag a b).slices = s.slices := rfl
@[simp] theorem State.setTag_links : (s.setTag a b).links = s.links := rfl
@[simp] theorem State.setTag_dies : (s.setTag a b).dies = s.dies := rfl
@[simp] theorem State.setTag_rot : (s.setTag a b).rot = s.rot := rfl
@[simp] theorem State.setTag_wear : (s.setTag a b).wear = s.wear := rfl
@[simp] theorem State.setTag_mem : (s.setTag a b).mem = s.mem := rfl
@[simp] theorem State.setTag_frames : (s.setTag a b).frames = s.frames := rfl
@[simp] theorem State.setTag_zeroing : (s.setTag a b).zeroing = s.zeroing := rfl
@[simp] theorem State.setTag_records : (s.setTag a b).records = s.records := rfl
@[simp] theorem State.setTag_walks : (s.setTag a b).walks = s.walks := rfl
@[simp] theorem State.setTag_port0 : (s.setTag a b).port0 = s.port0 := rfl
@[simp] theorem State.setTag_port1 : (s.setTag a b).port1 = s.port1 := rfl
@[simp] theorem State.setTag_ctxs : (s.setTag a b).ctxs = s.ctxs := rfl
@[simp] theorem State.setTag_queues : (s.setTag a b).queues = s.queues := rfl
@[simp] theorem State.setTag_meets : (s.setTag a b).meets = s.meets := rfl
@[simp] theorem State.setTag_fields : (s.setTag a b).fields = s.fields := rfl
@[simp] theorem State.setTag_warms : (s.setTag a b).warms = s.warms := rfl
@[simp] theorem State.setTag_relays : (s.setTag a b).relays = s.relays := rfl
@[simp] theorem State.setTag_agenda : (s.setTag a b).agenda = s.agenda := rfl
@[simp] theorem State.setTag_focus : (s.setTag a b).focus = s.focus := rfl
@[simp] theorem State.setTag_tick : (s.setTag a b).tick = s.tick := rfl
@[simp] theorem State.setTag_nextId : (s.setTag a b).nextId = s.nextId := rfl

end

/-! ### clearTags -/

section
variable (s : State) (a n : Nat)

@[simp] theorem State.clearTags_dev : (s.clearTags a n).dev = s.dev := rfl
@[simp] theorem State.clearTags_clusters : (s.clearTags a n).clusters = s.clusters := rfl
@[simp] theorem State.clearTags_cores : (s.clearTags a n).cores = s.cores := rfl
@[simp] theorem State.clearTags_slices : (s.clearTags a n).slices = s.slices := rfl
@[simp] theorem State.clearTags_links : (s.clearTags a n).links = s.links := rfl
@[simp] theorem State.clearTags_dies : (s.clearTags a n).dies = s.dies := rfl
@[simp] theorem State.clearTags_rot : (s.clearTags a n).rot = s.rot := rfl
@[simp] theorem State.clearTags_wear : (s.clearTags a n).wear = s.wear := rfl
@[simp] theorem State.clearTags_mem : (s.clearTags a n).mem = s.mem := rfl
@[simp] theorem State.clearTags_frames : (s.clearTags a n).frames = s.frames := rfl
@[simp] theorem State.clearTags_zeroing : (s.clearTags a n).zeroing = s.zeroing := rfl
@[simp] theorem State.clearTags_records : (s.clearTags a n).records = s.records := rfl
@[simp] theorem State.clearTags_walks : (s.clearTags a n).walks = s.walks := rfl
@[simp] theorem State.clearTags_port0 : (s.clearTags a n).port0 = s.port0 := rfl
@[simp] theorem State.clearTags_port1 : (s.clearTags a n).port1 = s.port1 := rfl
@[simp] theorem State.clearTags_ctxs : (s.clearTags a n).ctxs = s.ctxs := rfl
@[simp] theorem State.clearTags_queues : (s.clearTags a n).queues = s.queues := rfl
@[simp] theorem State.clearTags_meets : (s.clearTags a n).meets = s.meets := rfl
@[simp] theorem State.clearTags_fields : (s.clearTags a n).fields = s.fields := rfl
@[simp] theorem State.clearTags_warms : (s.clearTags a n).warms = s.warms := rfl
@[simp] theorem State.clearTags_relays : (s.clearTags a n).relays = s.relays := rfl
@[simp] theorem State.clearTags_agenda : (s.clearTags a n).agenda = s.agenda := rfl
@[simp] theorem State.clearTags_focus : (s.clearTags a n).focus = s.focus := rfl
@[simp] theorem State.clearTags_tick : (s.clearTags a n).tick = s.tick := rfl
@[simp] theorem State.clearTags_nextId : (s.clearTags a n).nextId = s.nextId := rfl

end

/-! ### modQueue -/

section
variable (s : State) (n : Nat) (f : Queue → Queue)

@[simp] theorem State.modQueue_dev : (s.modQueue n f).dev = s.dev := rfl
@[simp] theorem State.modQueue_clusters : (s.modQueue n f).clusters = s.clusters := rfl
@[simp] theorem State.modQueue_cores : (s.modQueue n f).cores = s.cores := rfl
@[simp] theorem State.modQueue_slices : (s.modQueue n f).slices = s.slices := rfl
@[simp] theorem State.modQueue_links : (s.modQueue n f).links = s.links := rfl
@[simp] theorem State.modQueue_dies : (s.modQueue n f).dies = s.dies := rfl
@[simp] theorem State.modQueue_rot : (s.modQueue n f).rot = s.rot := rfl
@[simp] theorem State.modQueue_wear : (s.modQueue n f).wear = s.wear := rfl
@[simp] theorem State.modQueue_mem : (s.modQueue n f).mem = s.mem := rfl
@[simp] theorem State.modQueue_tags : (s.modQueue n f).tags = s.tags := rfl
@[simp] theorem State.modQueue_frames : (s.modQueue n f).frames = s.frames := rfl
@[simp] theorem State.modQueue_zeroing : (s.modQueue n f).zeroing = s.zeroing := rfl
@[simp] theorem State.modQueue_records : (s.modQueue n f).records = s.records := rfl
@[simp] theorem State.modQueue_walks : (s.modQueue n f).walks = s.walks := rfl
@[simp] theorem State.modQueue_port0 : (s.modQueue n f).port0 = s.port0 := rfl
@[simp] theorem State.modQueue_port1 : (s.modQueue n f).port1 = s.port1 := rfl
@[simp] theorem State.modQueue_ctxs : (s.modQueue n f).ctxs = s.ctxs := rfl
@[simp] theorem State.modQueue_meets : (s.modQueue n f).meets = s.meets := rfl
@[simp] theorem State.modQueue_fields : (s.modQueue n f).fields = s.fields := rfl
@[simp] theorem State.modQueue_warms : (s.modQueue n f).warms = s.warms := rfl
@[simp] theorem State.modQueue_relays : (s.modQueue n f).relays = s.relays := rfl
@[simp] theorem State.modQueue_agenda : (s.modQueue n f).agenda = s.agenda := rfl
@[simp] theorem State.modQueue_focus : (s.modQueue n f).focus = s.focus := rfl
@[simp] theorem State.modQueue_tick : (s.modQueue n f).tick = s.tick := rfl
@[simp] theorem State.modQueue_nextId : (s.modQueue n f).nextId = s.nextId := rfl

end

/-! ### modMeet -/

section
variable (s : State) (n : Nat) (f : Meet → Meet)

@[simp] theorem State.modMeet_dev : (s.modMeet n f).dev = s.dev := rfl
@[simp] theorem State.modMeet_clusters : (s.modMeet n f).clusters = s.clusters := rfl
@[simp] theorem State.modMeet_cores : (s.modMeet n f).cores = s.cores := rfl
@[simp] theorem State.modMeet_slices : (s.modMeet n f).slices = s.slices := rfl
@[simp] theorem State.modMeet_links : (s.modMeet n f).links = s.links := rfl
@[simp] theorem State.modMeet_dies : (s.modMeet n f).dies = s.dies := rfl
@[simp] theorem State.modMeet_rot : (s.modMeet n f).rot = s.rot := rfl
@[simp] theorem State.modMeet_wear : (s.modMeet n f).wear = s.wear := rfl
@[simp] theorem State.modMeet_mem : (s.modMeet n f).mem = s.mem := rfl
@[simp] theorem State.modMeet_tags : (s.modMeet n f).tags = s.tags := rfl
@[simp] theorem State.modMeet_frames : (s.modMeet n f).frames = s.frames := rfl
@[simp] theorem State.modMeet_zeroing : (s.modMeet n f).zeroing = s.zeroing := rfl
@[simp] theorem State.modMeet_records : (s.modMeet n f).records = s.records := rfl
@[simp] theorem State.modMeet_walks : (s.modMeet n f).walks = s.walks := rfl
@[simp] theorem State.modMeet_port0 : (s.modMeet n f).port0 = s.port0 := rfl
@[simp] theorem State.modMeet_port1 : (s.modMeet n f).port1 = s.port1 := rfl
@[simp] theorem State.modMeet_ctxs : (s.modMeet n f).ctxs = s.ctxs := rfl
@[simp] theorem State.modMeet_queues : (s.modMeet n f).queues = s.queues := rfl
@[simp] theorem State.modMeet_fields : (s.modMeet n f).fields = s.fields := rfl
@[simp] theorem State.modMeet_warms : (s.modMeet n f).warms = s.warms := rfl
@[simp] theorem State.modMeet_relays : (s.modMeet n f).relays = s.relays := rfl
@[simp] theorem State.modMeet_agenda : (s.modMeet n f).agenda = s.agenda := rfl
@[simp] theorem State.modMeet_focus : (s.modMeet n f).focus = s.focus := rfl
@[simp] theorem State.modMeet_tick : (s.modMeet n f).tick = s.tick := rfl
@[simp] theorem State.modMeet_nextId : (s.modMeet n f).nextId = s.nextId := rfl

end

/-! ### modField -/

section
variable (s : State) (n : Nat) (f : Field → Field)

@[simp] theorem State.modField_dev : (s.modField n f).dev = s.dev := rfl
@[simp] theorem State.modField_clusters : (s.modField n f).clusters = s.clusters := rfl
@[simp] theorem State.modField_cores : (s.modField n f).cores = s.cores := rfl
@[simp] theorem State.modField_slices : (s.modField n f).slices = s.slices := rfl
@[simp] theorem State.modField_links : (s.modField n f).links = s.links := rfl
@[simp] theorem State.modField_dies : (s.modField n f).dies = s.dies := rfl
@[simp] theorem State.modField_rot : (s.modField n f).rot = s.rot := rfl
@[simp] theorem State.modField_wear : (s.modField n f).wear = s.wear := rfl
@[simp] theorem State.modField_mem : (s.modField n f).mem = s.mem := rfl
@[simp] theorem State.modField_tags : (s.modField n f).tags = s.tags := rfl
@[simp] theorem State.modField_frames : (s.modField n f).frames = s.frames := rfl
@[simp] theorem State.modField_zeroing : (s.modField n f).zeroing = s.zeroing := rfl
@[simp] theorem State.modField_records : (s.modField n f).records = s.records := rfl
@[simp] theorem State.modField_walks : (s.modField n f).walks = s.walks := rfl
@[simp] theorem State.modField_port0 : (s.modField n f).port0 = s.port0 := rfl
@[simp] theorem State.modField_port1 : (s.modField n f).port1 = s.port1 := rfl
@[simp] theorem State.modField_ctxs : (s.modField n f).ctxs = s.ctxs := rfl
@[simp] theorem State.modField_queues : (s.modField n f).queues = s.queues := rfl
@[simp] theorem State.modField_meets : (s.modField n f).meets = s.meets := rfl
@[simp] theorem State.modField_warms : (s.modField n f).warms = s.warms := rfl
@[simp] theorem State.modField_relays : (s.modField n f).relays = s.relays := rfl
@[simp] theorem State.modField_agenda : (s.modField n f).agenda = s.agenda := rfl
@[simp] theorem State.modField_focus : (s.modField n f).focus = s.focus := rfl
@[simp] theorem State.modField_tick : (s.modField n f).tick = s.tick := rfl
@[simp] theorem State.modField_nextId : (s.modField n f).nextId = s.nextId := rfl

end

/-! ### endTurn -/

section
variable (s : State)

@[simp] theorem State.endTurn_dev : (s.endTurn).dev = s.dev := rfl
@[simp] theorem State.endTurn_clusters : (s.endTurn).clusters = s.clusters := rfl
@[simp] theorem State.endTurn_cores : (s.endTurn).cores = s.cores := rfl
@[simp] theorem State.endTurn_slices : (s.endTurn).slices = s.slices := rfl
@[simp] theorem State.endTurn_links : (s.endTurn).links = s.links := rfl
@[simp] theorem State.endTurn_dies : (s.endTurn).dies = s.dies := rfl
@[simp] theorem State.endTurn_rot : (s.endTurn).rot = s.rot := rfl
@[simp] theorem State.endTurn_wear : (s.endTurn).wear = s.wear := rfl
@[simp] theorem State.endTurn_mem : (s.endTurn).mem = s.mem := rfl
@[simp] theorem State.endTurn_tags : (s.endTurn).tags = s.tags := rfl
@[simp] theorem State.endTurn_frames : (s.endTurn).frames = s.frames := rfl
@[simp] theorem State.endTurn_zeroing : (s.endTurn).zeroing = s.zeroing := rfl
@[simp] theorem State.endTurn_records : (s.endTurn).records = s.records := rfl
@[simp] theorem State.endTurn_walks : (s.endTurn).walks = s.walks := rfl
@[simp] theorem State.endTurn_port0 : (s.endTurn).port0 = s.port0 := rfl
@[simp] theorem State.endTurn_port1 : (s.endTurn).port1 = s.port1 := rfl
@[simp] theorem State.endTurn_ctxs : (s.endTurn).ctxs = s.ctxs := rfl
@[simp] theorem State.endTurn_queues : (s.endTurn).queues = s.queues := rfl
@[simp] theorem State.endTurn_meets : (s.endTurn).meets = s.meets := rfl
@[simp] theorem State.endTurn_fields : (s.endTurn).fields = s.fields := rfl
@[simp] theorem State.endTurn_warms : (s.endTurn).warms = s.warms := rfl
@[simp] theorem State.endTurn_relays : (s.endTurn).relays = s.relays := rfl
@[simp] theorem State.endTurn_agenda : (s.endTurn).agenda = s.agenda := rfl
@[simp] theorem State.endTurn_nextId : (s.endTurn).nextId = s.nextId := rfl

end

/-! ### Reading after writing -/

theorem State.cluster_setCluster (s : State) (c d : Nat) (x : Cluster) :
    (s.setCluster c x).cluster d = if d = c then x else s.cluster d := by
  unfold State.cluster State.setCluster
  simp only [find_put]
  split <;> rfl

theorem State.core_setCore (s : State) (c d : Nat) (x : CoreState) :
    (s.setCore c x).core d = if d = c then x else s.core d := by
  unfold State.core State.setCore
  simp only [find_put]
  split <;> rfl

theorem State.port_setPort (s : State) (p q : Port) (x : PortState) :
    (s.setPort p x).port q = if q = p then x else s.port q := by cases p <;> cases q <;> rfl

theorem State.port_modPort (s : State) (p : Port) (f : PortState → PortState) : (s.modPort p f).port p = f (s.port p) := by
  cases p <;> rfl

theorem State.frame_setFrame (s : State) (n m : Nat) (x : Frame) :
    (s.setFrame n x).frame m = if m = n then x else s.frame m := getD_setD _ _ _ _ _

theorem State.byte_setByte (s : State) (a b : Nat) (x : Byte) :
    (s.setByte a x).byte b = if b = a then x else s.byte b := getD_setD _ _ _ _ _

end Sys2Proof.Machine
end

