-- ==== Sys2Proof/Laws/Memory.lean ====
section
/-! SUPPORT. Physical memory: every operation on it keeps the canonical form, a read after a write gives the bytes
written, and a write leaves every other byte as it was. -/

namespace Sys2Proof.Machine

/-! ### The canonical form -/

theorem Memory.wf_iff (m : AMap Byte) : Memory.wf m = true ↔ rising 0 m = true ∧ ∀ e ∈ m, e.2 ≠ 0#8 := by
  simp [Memory.wf]

theorem Memory.wf_filter {m : AMap Byte} (p : Nat × Byte → Bool) (h : Memory.wf m = true) :
    Memory.wf (m.filter p) = true := by
  rw [Memory.wf_iff] at h ⊢
  exact ⟨rising_filter p h.1, fun e he => h.2 e (List.mem_filter.mp he).1⟩

theorem Memory.wf_setD {m : AMap Byte} (a : Nat) (b : Byte) (h : Memory.wf m = true) :
    Memory.wf (setD 0#8 m a b) = true := by
  unfold setD
  split
  · exact Memory.wf_filter _ h
  · rename_i hb
    rw [Memory.wf_iff] at h ⊢
    refine ⟨rising_put b h.1 (Nat.zero_le a), fun e he => ?_⟩
    rcases mem_put he with rfl | he
    · exact hb
    · exact h.2 e he

theorem State.setByte_wf {s : State} (a : Nat) (b : Byte) (h : Memory.wf s.mem = true) :
    Memory.wf (s.setByte a b).mem = true := Memory.wf_setD a b h

theorem State.writeMem_wf (n : Nat) : ∀ {s : State} (pa v : Nat), Memory.wf s.mem = true →
    Memory.wf (s.writeMem pa n v).mem = true := by
  induction n with
  | zero => intro s pa v h; exact h
  | succ n ih => intro s pa v h; exact ih _ _ (State.setByte_wf _ _ h)

theorem State.store_wf {s : State} (pa n v : Nat) (h : Memory.wf s.mem = true) : Memory.wf (s.store pa n v).mem = true :=
  State.writeMem_wf n pa v h

theorem State.zeroFrames_wf {s : State} (first n : Nat) (h : Memory.wf s.mem = true) :
    Memory.wf (s.zeroFrames first n).mem = true := Memory.wf_filter _ h

/-! ### Reads and writes -/

theorem State.byte_writeMem (n : Nat) : ∀ (s : State) (pa v a : Nat), (s.writeMem pa n v).byte a =
    if pa ≤ a ∧ a < pa + n then BitVec.ofNat 8 (v / 256 ^ (a - pa)) else s.byte a := by
  induction n with
  | zero => intro s pa v a; simp [State.writeMem] <;> omega
  | succ n ih =>
    intro s pa v a
    rw [State.writeMem, ih, State.byte_setByte]
    by_cases h1 : a = pa
    · subst h1
      rw [if_neg (by omega), if_pos rfl, if_pos (by omega), Nat.sub_self, Nat.pow_zero, Nat.div_one]
    · by_cases h2 : pa ≤ a ∧ a < pa + (n + 1)
      · have h3 : pa + 1 ≤ a ∧ a < pa + 1 + n := by omega
        have h4 : a - pa = (a - (pa + 1)) + 1 := by omega
        rw [if_pos h3, if_pos h2, h4, Nat.pow_succ', Nat.div_div_eq_div_mul]
      · rw [if_neg (by omega), if_neg h1, if_neg h2]

/-- A write leaves every byte outside it as it was. -/
theorem State.byte_writeMem_outside (s : State) (pa n v a : Nat) (h : ¬(pa ≤ a ∧ a < pa + n)) :
    (s.writeMem pa n v).byte a = s.byte a := by rw [State.byte_writeMem, if_neg h]

theorem State.byte_clearTags (s : State) (pa n a : Nat) : (s.clearTags pa n).byte a = s.byte a := rfl

theorem State.byte_store (s : State) (pa n v a : Nat) : (s.store pa n v).byte a =
    if pa ≤ a ∧ a < pa + n then BitVec.ofNat 8 (v / 256 ^ (a - pa)) else s.byte a := State.byte_writeMem n s pa v a

theorem State.readMem_congr {s t : State} (n : Nat) : ∀ (pa : Nat), (∀ a, pa ≤ a → a < pa + n → s.byte a = t.byte a) →
    s.readMem pa n = t.readMem pa n := by
  induction n with
  | zero => intro pa _; rfl
  | succ n ih =>
    intro pa h
    rw [State.readMem, State.readMem, h pa (Nat.le_refl _) (by omega), ih (pa + 1) fun a h1 h2 => h a (by omega) (by omega)]

/-- A read after a write to the same place gives the value written. -/
theorem State.readMem_writeMem (n : Nat) : ∀ (s : State) (pa v : Nat), (s.writeMem pa n v).readMem pa n = v % 256 ^ n := by
  induction n with
  | zero => intro s pa v; simp [State.readMem, Nat.mod_one]
  | succ n ih =>
    intro s pa v
    rw [State.readMem, State.byte_writeMem, if_pos (by omega), State.writeMem, ih, Nat.sub_self, Nat.pow_zero, Nat.div_one,
      BitVec.toNat_ofNat, Nat.pow_succ' (m := 256), Nat.mod_mul]

theorem State.readMem_store (s : State) (pa n v : Nat) : (s.store pa n v).readMem pa n = v % 256 ^ n := by
  rw [← State.readMem_writeMem n s pa v]
  exact State.readMem_congr n pa fun _ _ _ => rfl

/-- A read that meets no written byte gives what it gave before. -/
theorem State.readMem_store_outside (s : State) (pa n v qa k : Nat) (h : qa + k ≤ pa ∨ pa + n ≤ qa) :
    (s.store pa n v).readMem qa k = s.readMem qa k :=
  State.readMem_congr k qa fun a h1 h2 => by rw [State.byte_store, if_neg (by omega)]

end Sys2Proof.Machine
end

