-- ==== Sys2Proof/Laws/PerInstr.lean ====
section
/-! SUPPORT. Statements made of every instruction, one lemma per constructor. -/

open Sys2Proof

/-- KIND of an instruction's first word tells how many words it has: two where it is 2, else one; an event has none
(R326). -/
def Sys2Proof.Laws.Words.Statement (i : Instr) : Prop :=
  match encode i with
  | [] => True
  | [w] => (head w).kind < 2
  | [w, _] => (head w).kind = 2
  | _ => False

/-- A word whose KIND is 0. -/
theorem Sys2Proof.Laws.one_word {w : Word64} (h : (head w).kind = 0) : (head w).kind < 2 := h ▸ by decide

namespace Sys2Proof.Laws.Words

theorem deviceReset : Statement .deviceReset := trivial
theorem vxStart (port : Port) (value : Word64) : Statement (.vxStart port value) := trivial
theorem vxDoorbell (port : Port) (value : Word64) : Statement (.vxDoorbell port value) := trivial
theorem clearQuar (port : Port) (value : Word32) : Statement (.clearQuar port value) := trivial
theorem queueReset (port : Port) (value : Word32) : Statement (.queueReset port value) := trivial
theorem queueResetReport (queue : Nat) : Statement (.queueResetReport queue) := trivial
theorem ctxCreate (port : Port) : Statement (.ctxCreate port) := trivial
theorem ctxEnd (port : Port) : Statement (.ctxEnd port) := trivial
theorem qCreate (port : Port) : Statement (.qCreate port) := trivial
theorem qDestroy (port : Port) : Statement (.qDestroy port) := trivial
theorem frameAssign (port : Port) : Statement (.frameAssign port) := trivial
theorem frameRelease (port : Port) : Statement (.frameRelease port) := trivial
theorem frameScrub (port : Port) : Statement (.frameScrub port) := trivial
theorem capSet (port : Port) : Statement (.capSet port) := trivial
theorem tlbInval (port : Port) : Statement (.tlbInval port) := trivial
theorem cgrpSet (port : Port) : Statement (.cgrpSet port) := trivial
theorem hostCommandDone (port : Port) : Statement (.hostCommandDone port) := trivial
theorem fctlRetry (port : Port) (value : Word64) : Statement (.fctlRetry port value) := trivial
theorem fctlSkip (port : Port) (value : Word64) : Statement (.fctlSkip port value) := trivial
theorem fctlKill (port : Port) (value : Word64) : Statement (.fctlKill port value) := trivial
theorem hostTeardown (port : Port) (value : Word64) : Statement (.hostTeardown port value) := trivial
theorem vxDbgctl (port : Port) (value : Word32) : Statement (.vxDbgctl port value) := trivial
theorem vxLife (port : Port) (value : Word64) : Statement (.vxLife port value) := trivial
theorem vxSched (port : Port) (value : Word32) : Statement (.vxSched port value) := trivial
theorem vxDomain (port : Port) (value : Word64) : Statement (.vxDomain port value) := trivial
theorem vxFlog (port : Port) (value : Word64) : Statement (.vxFlog port value) := trivial
theorem registerWrite (port : Port) (reg : HostReg) (value : Word64) : Statement (.registerWrite port reg value) :=
  trivial
theorem bar2Access (port : Port) (tee : Bool) (addr : Nat) (len : Nat) (write : Option (List Byte)) :
    Statement (.bar2Access port tee addr len write) :=
  trivial
theorem lockInterface (port : Port) : Statement (.lockInterface port) := trivial
theorem startInterface (port : Port) : Statement (.startInterface port) := trivial
theorem stopInterface (port : Port) : Statement (.stopInterface port) := trivial
theorem linkSecurityError (port : Port) : Statement (.linkSecurityError port) := trivial
theorem getCertificate (port : Port) : Statement (.getCertificate port) := trivial
theorem challenge (port : Port) (nonce : Nat) : Statement (.challenge port nonce) := trivial
theorem keyExchange (port : Port) (peer : KeyRequest) : Statement (.keyExchange port peer) :=
  trivial
theorem getMeasurements (port : Port) (index : Byte) (nonce : Nat) : Statement (.getMeasurements port index nonce) :=
  trivial
theorem batchValidation (queue : Nat) : Statement (.batchValidation queue) := trivial
theorem meetDispatch (queue : Nat) : Statement (.meetDispatch queue) := trivial
theorem launch (queue : Nat) : Statement (.launch queue) := trivial
theorem wait (queue : Nat) : Statement (.wait queue) := trivial
theorem signal (meet : Nat) (index : Nat) : Statement (.signal meet index) := trivial
theorem copy (meet : Nat) (index : Nat) : Statement (.copy meet index) := trivial
theorem copyDone (meet : Nat) (index : Nat) : Statement (.copyDone meet index) := trivial
theorem relayPlacement (field : Nat) (linear : Nat) : Statement (.relayPlacement field linear) := trivial
theorem relayRetirement (relay : Nat) : Statement (.relayRetirement relay) := trivial
theorem concurrencyLost (field : Nat) : Statement (.concurrencyLost field) := trivial
theorem sliceExpiry (relay : Nat) (squad : Nat) : Statement (.sliceExpiry relay squad) := trivial
theorem preemption (field : Nat) (linear : Nat) : Statement (.preemption field linear) := trivial
theorem yieldDeadline (relay : Nat) (squad : Nat) : Statement (.yieldDeadline relay squad) := trivial
theorem migration (relay : Nat) (cluster : Nat) : Statement (.migration relay cluster) := trivial
theorem rotationSlotEnd (group : Nat) : Statement (.rotationSlotEnd group) := trivial
theorem rotationScanDone (group : Nat) (pass : Bool) : Statement (.rotationScanDone group pass) := trivial
theorem tileArrayScan (cluster : Nat) (pass : Bool) : Statement (.tileArrayScan cluster pass) := trivial
theorem wearIntegration (kind : WearKind) (index : Nat) (mv : Nat) (activity : Nat) (mon : BitVec 16) : Statement (.wearIntegration kind index mv activity mon) :=
  trivial
theorem boostLevelReached (cluster : Nat) : Statement (.boostLevelReached cluster) := trivial
theorem boostGrantEnd (cluster : Nat) : Statement (.boostGrantEnd cluster) := trivial
theorem sensorSample (sensor : Sensor) (value : Int) : Statement (.sensorSample sensor value) := trivial
theorem translationWalkDone (walk : Nat) : Statement (.translationWalkDone walk) := trivial
theorem fragmentReplay (u : UnitRef) (fid : Nat) : Statement (.fragmentReplay u fid) := trivial
theorem scratchRefill (relay : Nat) (page : Nat) : Statement (.scratchRefill relay page) := trivial
theorem storageError (site : ErrorSite) : Statement (.storageError site) := trivial
theorem longLatencyCompletion (u : UnitRef) (index : Nat) : Statement (.longLatencyCompletion u index) := trivial
theorem handlerEntry (u : UnitRef) : Statement (.handlerEntry u) := trivial
theorem copyEngineTransfer (relay : Nat) (queue : Nat) : Statement (.copyEngineTransfer relay queue) := trivial
theorem commandCompletion (relay : Nat) (queue : Nat) : Statement (.commandCompletion relay queue) := trivial
theorem collectiveRun (relay : Nat) (peers : List Contribution) : Statement (.collectiveRun relay peers) := trivial
theorem matrixEntryBegin (relay : Nat) : Statement (.matrixEntryBegin relay) := trivial
theorem matrixEntryComplete (relay : Nat) (residueOk : Bool) : Statement (.matrixEntryComplete relay residueOk) :=
  trivial
theorem pairWord (h0 : HalfF) (h1 : HalfF) : Statement (.pairWord h0 h1) := by
  show (head _).kind < 2
  rw [kind_encPair]; decide
theorem iadd (f : RegF) : Statement (.iadd f) := one_word (kind_encReg (by decide) f)
theorem iaddImm (f : ImmF) : Statement (.iaddImm f) := one_word (kind_encImm (by decide) f)
theorem iaddImmUniform (f : ImmF) : Statement (.iaddImmUniform f) := one_word (kind_encImm (by decide) f)
theorem isub (f : RegF) : Statement (.isub f) := one_word (kind_encReg (by decide) f)
theorem iabs (f : RegF) : Statement (.iabs f) := one_word (kind_encReg (by decide) f)
theorem imin (f : RegF) : Statement (.imin f) := one_word (kind_encReg (by decide) f)
theorem iminImm (f : ImmF) : Statement (.iminImm f) := one_word (kind_encImm (by decide) f)
theorem iminImmUniform (f : ImmF) : Statement (.iminImmUniform f) := one_word (kind_encImm (by decide) f)
theorem imax (f : RegF) : Statement (.imax f) := one_word (kind_encReg (by decide) f)
theorem imaxImm (f : ImmF) : Statement (.imaxImm f) := one_word (kind_encImm (by decide) f)
theorem imaxImmUniform (f : ImmF) : Statement (.imaxImmUniform f) := one_word (kind_encImm (by decide) f)
theorem iaddc (f : RegF) : Statement (.iaddc f) := one_word (kind_encReg (by decide) f)
theorem icmp (f : CmpF) : Statement (.icmp f) := one_word (kind_encCmp (by decide) f)
theorem icmpImm (f : CmpiF) : Statement (.icmpImm f) := one_word (kind_encCmpi (by decide) f)
theorem icmpImmUniform (f : CmpiF) : Statement (.icmpImmUniform f) := one_word (kind_encCmpi (by decide) f)
theorem idot4 (f : RegF) : Statement (.idot4 f) := one_word (kind_encReg (by decide) f)
theorem qdot4 (f : RegF) : Statement (.qdot4 f) := one_word (kind_encReg (by decide) f)
theorem imul (f : RegF) : Statement (.imul f) := one_word (kind_encReg (by decide) f)
theorem imulImm (f : ImmF) : Statement (.imulImm f) := one_word (kind_encImm (by decide) f)
theorem imulImmUniform (f : ImmF) : Statement (.imulImmUniform f) := one_word (kind_encImm (by decide) f)
theorem imulhi (f : RegF) : Statement (.imulhi f) := one_word (kind_encReg (by decide) f)
theorem imad (f : RegF) : Statement (.imad f) := one_word (kind_encReg (by decide) f)
theorem and (f : RegF) : Statement (.and f) := one_word (kind_encReg (by decide) f)
theorem andImm (f : ImmF) : Statement (.andImm f) := one_word (kind_encImm (by decide) f)
theorem andImmUniform (f : ImmF) : Statement (.andImmUniform f) := one_word (kind_encImm (by decide) f)
theorem or (f : RegF) : Statement (.or f) := one_word (kind_encReg (by decide) f)
theorem orImm (f : ImmF) : Statement (.orImm f) := one_word (kind_encImm (by decide) f)
theorem orImmUniform (f : ImmF) : Statement (.orImmUniform f) := one_word (kind_encImm (by decide) f)
theorem xor (f : RegF) : Statement (.xor f) := one_word (kind_encReg (by decide) f)
theorem xorImm (f : ImmF) : Statement (.xorImm f) := one_word (kind_encImm (by decide) f)
theorem xorImmUniform (f : ImmF) : Statement (.xorImmUniform f) := one_word (kind_encImm (by decide) f)
theorem not (f : RegF) : Statement (.not f) := one_word (kind_encReg (by decide) f)
theorem shl (f : RegF) : Statement (.shl f) := one_word (kind_encReg (by decide) f)
theorem shlImm (f : ImmF) : Statement (.shlImm f) := one_word (kind_encImm (by decide) f)
theorem shlImmUniform (f : ImmF) : Statement (.shlImmUniform f) := one_word (kind_encImm (by decide) f)
theorem shr (f : RegF) : Statement (.shr f) := one_word (kind_encReg (by decide) f)
theorem shrImm (f : ImmF) : Statement (.shrImm f) := one_word (kind_encImm (by decide) f)
theorem shrImmUniform (f : ImmF) : Statement (.shrImmUniform f) := one_word (kind_encImm (by decide) f)
theorem sar (f : RegF) : Statement (.sar f) := one_word (kind_encReg (by decide) f)
theorem sarImm (f : ImmF) : Statement (.sarImm f) := one_word (kind_encImm (by decide) f)
theorem sarImmUniform (f : ImmF) : Statement (.sarImmUniform f) := one_word (kind_encImm (by decide) f)
theorem rotl (f : RegF) : Statement (.rotl f) := one_word (kind_encReg (by decide) f)
theorem rotlImm (f : ImmF) : Statement (.rotlImm f) := one_word (kind_encImm (by decide) f)
theorem rotlImmUniform (f : ImmF) : Statement (.rotlImmUniform f) := one_word (kind_encImm (by decide) f)
theorem bfx (f : RegF) : Statement (.bfx f) := one_word (kind_encReg (by decide) f)
theorem bfi (f : RegF) : Statement (.bfi f) := one_word (kind_encReg (by decide) f)
theorem brev (f : RegF) : Statement (.brev f) := one_word (kind_encReg (by decide) f)
theorem clz (f : RegF) : Statement (.clz f) := one_word (kind_encReg (by decide) f)
theorem popc (f : RegF) : Statement (.popc f) := one_word (kind_encReg (by decide) f)
theorem sel (f : RegF) : Statement (.sel f) := one_word (kind_encReg (by decide) f)
theorem mov (f : RegF) : Statement (.mov f) := one_word (kind_encReg (by decide) f)
theorem movi (f : ImmF) : Statement (.movi f) := one_word (kind_encImm (by decide) f)
theorem moviUniform (f : ImmF) : Statement (.moviUniform f) := one_word (kind_encImm (by decide) f)
theorem moviExt (f : MovixF) : Statement (.moviExt f) := kind_encMovix f
theorem fadd (f : RegF) : Statement (.fadd f) := one_word (kind_encReg (by decide) f)
theorem fsub (f : RegF) : Statement (.fsub f) := one_word (kind_encReg (by decide) f)
theorem fmul (f : RegF) : Statement (.fmul f) := one_word (kind_encReg (by decide) f)
theorem ffma (f : RegF) : Statement (.ffma f) := one_word (kind_encReg (by decide) f)
theorem fmin (f : RegF) : Statement (.fmin f) := one_word (kind_encReg (by decide) f)
theorem fmax (f : RegF) : Statement (.fmax f) := one_word (kind_encReg (by decide) f)
theorem fcmp (f : CmpF) : Statement (.fcmp f) := one_word (kind_encCmp (by decide) f)
theorem fdiv (f : RegF) : Statement (.fdiv f) := one_word (kind_encReg (by decide) f)
theorem fsqrt (f : RegF) : Statement (.fsqrt f) := one_word (kind_encReg (by decide) f)
theorem frcp (f : RegF) : Statement (.frcp f) := one_word (kind_encReg (by decide) f)
theorem frsq (f : RegF) : Statement (.frsq f) := one_word (kind_encReg (by decide) f)
theorem fexp2 (f : RegF) : Statement (.fexp2 f) := one_word (kind_encReg (by decide) f)
theorem flog2 (f : RegF) : Statement (.flog2 f) := one_word (kind_encReg (by decide) f)
theorem vfma2 (f : RegF) : Statement (.vfma2 f) := one_word (kind_encReg (by decide) f)
theorem dadd (f : RegF) : Statement (.dadd f) := one_word (kind_encReg (by decide) f)
theorem dmul (f : RegF) : Statement (.dmul f) := one_word (kind_encReg (by decide) f)
theorem dfma (f : RegF) : Statement (.dfma f) := one_word (kind_encReg (by decide) f)
theorem cvt (f : RegF) : Statement (.cvt f) := one_word (kind_encReg (by decide) f)
theorem sladd (f : RegF) : Statement (.sladd f) := one_word (kind_encReg (by decide) f)
theorem slmul (f : RegF) : Statement (.slmul f) := one_word (kind_encReg (by decide) f)
theorem slrcp (f : RegF) : Statement (.slrcp f) := one_word (kind_encReg (by decide) f)
theorem slcmp (f : CmpF) : Statement (.slcmp f) := one_word (kind_encCmp (by decide) f)
theorem slcvt (f : RegF) : Statement (.slcvt f) := one_word (kind_encReg (by decide) f)
theorem ld (f : MemF) : Statement (.ld f) := one_word (kind_encMem (by decide) f)
theorem lds (f : MemF) : Statement (.lds f) := one_word (kind_encMem (by decide) f)
theorem ldu (f : MemF) : Statement (.ldu f) := one_word (kind_encMem (by decide) f)
theorem ldk (f : LdkF) : Statement (.ldk f) := kind_encLdk f
theorem st (f : MemF) : Statement (.st f) := one_word (kind_encMem (by decide) f)
theorem sts (f : MemF) : Statement (.sts f) := one_word (kind_encMem (by decide) f)
theorem atom (f : AtmF) : Statement (.atom f) := one_word (kind_encAtm (by decide) f)
theorem atoms (f : AtmF) : Statement (.atoms f) := one_word (kind_encAtm (by decide) f)
theorem pref (f : MemF) : Statement (.pref f) := one_word (kind_encMem (by decide) f)
theorem lea (f : MemF) : Statement (.lea f) := one_word (kind_encMem (by decide) f)
theorem leaS (f : MemF) : Statement (.leaS f) := one_word (kind_encMem (by decide) f)
theorem cld (f : MemF) : Statement (.cld f) := one_word (kind_encMem (by decide) f)
theorem cldMemory (f : MemF) : Statement (.cldMemory f) := one_word (kind_encMem (by decide) f)
theorem cnarrow (f : CapnF) : Statement (.cnarrow f) := one_word (kind_encCapn (by decide) f)
theorem fence (f : MemF) : Statement (.fence f) := one_word (kind_encMem (by decide) f)
theorem facqF (f : RegF) : Statement (.facqF f) := one_word (kind_encReg (by decide) f)
theorem facqE (f : RegF) : Statement (.facqE f) := one_word (kind_encReg (by decide) f)
theorem frelF (f : RegF) : Statement (.frelF f) := one_word (kind_encReg (by decide) f)
theorem frelE (f : RegF) : Statement (.frelE f) := one_word (kind_encReg (by decide) f)
theorem bankmode (f : RegF) : Statement (.bankmode f) := one_word (kind_encReg (by decide) f)
theorem bankmodeQ (f : RegF) : Statement (.bankmodeQ f) := one_word (kind_encReg (by decide) f)
theorem pgpin (f : RegF) : Statement (.pgpin f) := one_word (kind_encReg (by decide) f)
theorem pgunpin (f : RegF) : Statement (.pgunpin f) := one_word (kind_encReg (by decide) f)
theorem shfl (f : RegF) : Statement (.shfl f) := one_word (kind_encReg (by decide) f)
theorem vote (f : RegF) : Statement (.vote f) := one_word (kind_encReg (by decide) f)
theorem redux (f : RegF) : Statement (.redux f) := one_word (kind_encReg (by decide) f)
theorem lbind (f : ImmF) : Statement (.lbind f) := one_word (kind_encImm (by decide) f)
theorem lunbind (f : NilF) : Statement (.lunbind f) := one_word (kind_encNil (by decide) (by decide) f)
theorem ladd (f : ChnF) : Statement (.ladd f) := one_word (kind_encChn (by decide) f)
theorem lsub (f : ChnF) : Statement (.lsub f) := one_word (kind_encChn (by decide) f)
theorem lshl (f : ChnF) : Statement (.lshl f) := one_word (kind_encChn (by decide) f)
theorem lshr (f : ChnF) : Statement (.lshr f) := one_word (kind_encChn (by decide) f)
theorem lcmp (f : ChnF) : Statement (.lcmp f) := one_word (kind_encChn (by decide) f)
theorem lmac (f : ChnF) : Statement (.lmac f) := one_word (kind_encChn (by decide) f)
theorem nop (f : NilF) : Statement (.nop f) := one_word (kind_encNil (by decide) (by decide) f)
theorem bra (f : JmpF) : Statement (.bra f) := one_word (kind_encJmp (by decide) f)
theorem brx (f : RegF) : Statement (.brx f) := one_word (kind_encReg (by decide) f)
theorem call (f : JmpF) : Statement (.call f) := one_word (kind_encJmp (by decide) f)
theorem ret (f : NilF) : Statement (.ret f) := one_word (kind_encNil (by decide) (by decide) f)
theorem exit (f : ImmF) : Statement (.exit f) := one_word (kind_encImm (by decide) f)
theorem reconv (f : NilF) : Statement (.reconv f) := one_word (kind_encNil (by decide) (by decide) f)
theorem yield (f : NilF) : Statement (.yield f) := one_word (kind_encNil (by decide) (by decide) f)
theorem yieldPoint (f : NilF) : Statement (.yieldPoint f) := one_word (kind_encNil (by decide) (by decide) f)
theorem bar (f : ImmF) : Statement (.bar f) := one_word (kind_encImm (by decide) f)
theorem bara (f : ImmF) : Statement (.bara f) := one_word (kind_encImm (by decide) f)
theorem barw (f : ImmF) : Statement (.barw f) := one_word (kind_encImm (by decide) f)
theorem rbar (f : NilF) : Statement (.rbar f) := one_word (kind_encNil (by decide) (by decide) f)
theorem fork (f : ImmF) : Statement (.fork f) := one_word (kind_encImm (by decide) f)
theorem rdv (f : ImmF) : Statement (.rdv f) := one_word (kind_encImm (by decide) f)
theorem fretRetry (f : NilF) : Statement (.fretRetry f) := one_word (kind_encNil (by decide) (by decide) f)
theorem fretSkip (f : NilF) : Statement (.fretSkip f) := one_word (kind_encNil (by decide) (by decide) f)
theorem fkill (f : NilF) : Statement (.fkill f) := one_word (kind_encNil (by decide) (by decide) f)
theorem xrv (f : RegF) : Statement (.xrv f) := one_word (kind_encReg (by decide) f)
theorem xwv (f : RegF) : Statement (.xwv f) := one_word (kind_encReg (by decide) f)
theorem cqw (f : RegF) : Statement (.cqw f) := one_word (kind_encReg (by decide) f)
theorem cqwExt (f : CqwxF) : Statement (.cqwExt f) := kind_encCqwx f
theorem cqgo (f : ImmF) : Statement (.cqgo f) := one_word (kind_encImm (by decide) f)
theorem cwait (f : RegF) : Statement (.cwait f) := one_word (kind_encReg (by decide) f)
theorem gset (f : ImmF) : Statement (.gset f) := one_word (kind_encImm (by decide) f)
theorem qfence (f : ImmF) : Statement (.qfence f) := one_word (kind_encImm (by decide) f)
theorem mzero (f : RegF) : Statement (.mzero f) := one_word (kind_encReg (by decide) f)
theorem mlda (f : RegF) : Statement (.mlda f) := one_word (kind_encReg (by decide) f)
theorem mma (f : RegF) : Statement (.mma f) := one_word (kind_encReg (by decide) f)
theorem mstore (f : RegF) : Statement (.mstore f) := one_word (kind_encReg (by decide) f)
theorem mcommit (f : RegF) : Statement (.mcommit f) := one_word (kind_encReg (by decide) f)
theorem mwait (f : ImmF) : Statement (.mwait f) := one_word (kind_encImm (by decide) f)
theorem tdesc (f : TdescF) : Statement (.tdesc f) := kind_encTdesc f
theorem tinv (f : RegF) : Statement (.tinv f) := one_word (kind_encReg (by decide) f)
theorem srd (f : RegF) : Statement (.srd f) := one_word (kind_encReg (by decide) f)
theorem swr (f : RegF) : Statement (.swr f) := one_word (kind_encReg (by decide) f)
theorem trap (f : NilF) : Statement (.trap f) := one_word (kind_encNil (by decide) (by decide) f)
theorem bkpt (f : NilF) : Statement (.bkpt f) := one_word (kind_encNil (by decide) (by decide) f)
theorem boost (f : RegF) : Statement (.boost f) := one_word (kind_encReg (by decide) f)
theorem boostSpare (f : RegF) : Statement (.boostSpare f) := one_word (kind_encReg (by decide) f)
theorem therm (f : RegF) : Statement (.therm f) := one_word (kind_encReg (by decide) f)
theorem wrd (f : RegF) : Statement (.wrd f) := one_word (kind_encReg (by decide) f)
theorem powerLoss (tornKind : WearKind) (tornIndex : Nat) (torn : Bool) : Statement (.powerLoss tornKind tornIndex torn) :=
  trivial
theorem supplyDroop (cluster : Nat) (mhz : Nat) : Statement (.supplyDroop cluster mhz) := trivial
theorem mappingDeclined (walk : Nat) : Statement (.mappingDeclined walk) := trivial
theorem bankmodeTransitionDone (relay : Nat) (bank : Nat) : Statement (.bankmodeTransitionDone relay bank) := trivial
theorem zeroingComplete (frame : Nat) : Statement (.zeroingComplete frame) := trivial
theorem accessPerformed (u : UnitRef) : Statement (.accessPerformed u) := trivial
theorem dataVerified (u : ReadRef) : Statement (.dataVerified u) := trivial
theorem peerUnreachable (relay : Nat) : Statement (.peerUnreachable relay) := trivial
theorem cacheSectorEviction (sector : Nat) : Statement (.cacheSectorEviction sector) := trivial
theorem peerDeviceAccess (op : PeerAccess) : Statement (.peerDeviceAccess op) := trivial

end Sys2Proof.Laws.Words
end

