-- ==== Sys2Proof/Tests/Slice0.lean ====
section
/-! SUPPORT. Tests: ill-formed words are refused, words of the spec's encodings decode, single words have their effect,
and for every statement with hypotheses a state and operands that meet them. Expected results are worked by hand from
the rules named. -/

namespace Sys2Proof.Tests

open Sys2Proof Sys2Proof.Machine

set_option Elab.async false

/-! ### Ill-formed instructions, one for each check -/

def pt : Pred := ⟨12#4, false⟩
def reg (d a b c : Byte) (ty : BitVec 3) : RegF :=
  ⟨pt, 0#4, d, a, b, c, ty, .rne, false, false, false, false, false, 0#3⟩
def imm (d a : Byte) (n : BitVec 29) : ImmF := ⟨pt, 0#4, d, a, n⟩
def memf (d a : Byte) (size : BitVec 3) : MemF := ⟨pt, 0#4, d, a, 0#4, 0#12, size, 0#3, false, false, 0#3, 0#2⟩
def atm (aop : BitVec 4) (size : BitVec 3) : AtmF := ⟨pt, 0#4, 4#8, 3#8, 0#4, 8#8, aop, size, 1#3, false, false, 0#3⟩
def chn (d a b : Byte) : ChnF := ⟨pt, 0#4, d, a, b, 0#4, false, false, false⟩
def cmp (cc pd : BitVec 4) (ty : BitVec 3) : CmpF :=
  ⟨pt, cc, pd, 5#8, 6#8, 0#8, ty, .rne, false, false, false, false, false, 0#3⟩
def half (hop : BitVec 6) (d s : Byte) (hmod : BitVec 6) : HalfF := ⟨hop, 7#3, d, s, hmod⟩

/-- Every field check refuses a word that breaks it and nothing else (R93, R157, R329 to R337, R341 to R346). -/
theorem test_ill_formed_refused : ∀ i ∈ [
    -- predicate selector, lookahead, U, type, rounding, saturation, OPX
    Instr.iadd { reg 4 5 6 0 2 with pred := ⟨13#4, false⟩ }, .iadd { reg 4 5 6 0 2 with la := 1#4 },
    .shfl { reg 4 5 6 0 2 with u := true }, .imul { reg 4 5 6 0 2 with opx := 1#3 }, .imulhi (reg 4 5 6 0 0),
    .iadd { reg 4 5 6 0 2 with rnd := .rtz }, .imin { reg 4 5 6 0 2 with sat := true },
    -- an unused field, a scalar bit with U, an S register past 63, an odd pair, a number past its limit
    .iadd (reg 4 5 6 1 2), .iadd { reg 4 5 6 0 2 with u := true, sa := true }, .iadd { reg 4 64 6 0 2 with sa := true },
    .iadd (reg 5 4 6 0 3), .sel (reg 4 5 6 12 2), .facqF { reg 4 32 0 0 0 with opx := 0#3 }, .cqw (reg 4 2 0 0 0),
    -- conditions and their predicate
    .icmp (cmp 6 3 2), .fcmp (cmp 9 3 0), .icmp (cmp 0 12 2), .icmpImm ⟨pt, 10#4, 3#4, 5#8, 0#29⟩,
    .icmpImmUniform ⟨pt, 0#4, 3#4, 64#8, 0#29⟩,
    -- immediates
    .iaddImmUniform (imm 64 0 1), .shlImm (imm 4 5 32), .bar (imm 1 0 0), .exit { imm 0 0 0 with la := 1#4 },
    -- conversions, reductions, votes
    .cvt { reg 4 5 0 0 2 with opx := 2#3 }, .cvt { reg 4 5 3 0 6 with opx := 0#3 }, .slcvt (reg 4 5 1 0 0), .redux { reg 4 5 0 0 2 with opx := 6#3 },
    .redux { reg 4 5 0 0 2 with sat := true, opx := 1#3 }, .vote { reg 12 0 0 0 0 with opx := 1#3 },
    .vote { reg 4 1 0 0 0 with opx := 7#3 }, .xrv { reg 5 1 0 0 0 with opx := 5#3 }, .xwv { reg 1 1 0 0 0 with opx := 2#3 },
    -- special registers
    .srd (reg 4 0x0D 0 0 0), .srd (reg 5 0x20 0 0 0), .swr (reg 0x0D 1 0 0 0), .swr (reg 0x30 1 0 0 0),
    -- memory: sizes, orders, scopes, address registers, data registers, OPX, capability
    .ld (memf 4 3 7), .ld { memf 4 3 2 with ord := 3#3 }, .ld { memf 4 3 0 with ord := 1#3 },
    .ld { memf 4 3 2 with scope := 1#3 }, .ld { memf 4 3 2 with ord := 1#3, scope := 5#3 },
    .ld { memf 4 64 2 with sa := true }, .ld { memf 4 3 2 with wide := true }, .ld (memf 5 2 3), .ld (memf 6 2 4),
    .ld { memf 4 3 2 with opx := 1#2 }, .lds { memf 4 3 2 with cap := 1#4 }, .st { memf 4 3 2 with la := 1#4 }, .st (memf 4 3 5),
    .ldu (memf 4 3 2), .pref (memf 4 3 0), .lea (memf 5 3 2), .leaS (memf 4 3 2), .cld (memf 16 1 4), .cldMemory (memf 1 1 4),
    .fence (memf 0 0 0), .ldk ⟨pt, 0#4, 4#8, 3#8, 7#3, false, false, 0#64⟩,
    -- atomics
    .atom (atm 13 2), .atom (atm 10 3), .atom { atm 0 2 with ord := 0#3 }, .atoms { atm 0 2 with cap := 1#4 },
    .atom { atm 9 2 with b := 9#8 },
    -- capabilities, chains, extended words
    .cnarrow ⟨pt, 0#4, 1#4, 3#8, 4#8, 6#8⟩, .ladd { chn 4 5 6 with pc := 12#4 }, .lmac (chn 5 6 7),
    .lcmp (chn 12 5 6), .cqwExt ⟨pt, 4#8, 0#64⟩, .tdesc ⟨pt, 0#8, 60#8, 0#64⟩, .tdesc ⟨pt, 0#8, 0#8, 0x8000#64⟩,
    .moviExt ⟨pt, 4#8, 6#3, false, 0x100000000#64⟩,
    -- pair words: an unassigned half, equal destinations, two special halves, a wide integer, three reads of one bank
    .pairWord (half 0x14 4 5 0) (half 1 8 9 0x10), .pairWord (half 1 4 5 0x10) (half 1 4 9 0x10),
    .pairWord (half 0x18 4 5 0) (half 0x19 8 9 0), .pairWord (half 1 4 6 0x18) (half 1 8 9 0x10),
    .pairWord (half 1 4 8 0x10) (half 1 12 9 0x10), .pairWord (half 1 4 5 0x11) (half 1 8 9 0x10)],
    WellFormed i = false := by decide +kernel

/-- The words beside them are well-formed. -/
theorem test_well_formed_accepted : ∀ i ∈ [
    Instr.iadd (reg 4 5 6 0 2), .iadd { reg 4 63 6 0 2 with sa := true }, .iadd (reg 4 2 6 0 3), .sel (reg 4 5 6 11 2),
    .icmp (cmp 5 11 2), .fcmp (cmp 11 3 0), .shlImm (imm 4 5 31), .ld (memf 4 3 2), .ld (memf 4 2 3),
    .ld { memf 4 3 2 with ord := 1#3, scope := 4#3 }, .atom (atm 0 2), .lmac (chn 4 6 7), .tdesc ⟨pt, 255#8, 58#8, 0#64⟩,
    .moviExt ⟨pt, 4#8, 6#3, false, 0xFFFFFFFF#64⟩, .pairWord (half 1 4 5 0x10) (half 1 8 9 0x10)],
    WellFormed i = true := by decide +kernel

/-! ### Decoding -/

/-- Words the spec works out, with the assembly line each stands for in the reference entries. -/
theorem test_worked_words_decode : ∀ row ∈ [
    (0x00700080A0C00800, Instr.iadd (reg 4 5 6 0 2)),
    (0x06F00060E0001800, Instr.mov (reg 3 7 0 0 6)),
    (0x0B3000201FFFFFFF, Instr.movi (imm 1 0 0x1FFFFFFF#29)),
    (0x0A30004060000004, Instr.shlImm (imm 2 3 4)),
    (0x06B0002040609800, Instr.sel (reg 1 2 3 4 6)),
    (0x1030002040600000, Instr.fadd (reg 1 2 3 0 0)),
    (0x11F06080A0C00000, Instr.fdiv { reg 4 5 6 0 0 with la := 3#4 }),
    (0x14700060E0600800, Instr.cvt (reg 3 7 3 0 2)),
    (0x1670404060800000, Instr.slmul { reg 2 3 4 0 0 with la := 2#4 }),
    (0x1C30010046010D0C, Instr.ld { memf 8 2 3 with cap := 3#4, imm := 8#12, ord := 2#3, scope := 3#3 }),
    (0x1CB0204060000800, Instr.lds { memf 2 3 2 with la := 1#4 }),
    (0x1C7000200208098C, Instr.st { memf 1 0 2 with cap := 1#4, imm := 0x40#12, ord := 3#3, scope := 3#3 }),
    (0x1D7020C064100A08, Instr.atom ⟨pt, 1#4, 6#8, 3#8, 2#4, 8#8, 0#4, 2#3, 4#3, false, false, 2#3⟩),
    (0x1EF000000000018C, Instr.fence { memf 0 0 0 with ord := 3#3, scope := 3#3 }),
    (0x1F30006080000000, Instr.facqF (reg 3 4 0 0 0)),
    (0x1FF0000080A00000, Instr.pgpin (reg 0 4 5 0 0)),
    (0x243000A080401823, Instr.shfl { reg 5 4 2 0 6 with sb := true, opx := 3#3 }),
    (0x24F0000000000020, Instr.lbind (imm 0 0 32)),
    (0x2530000000000000, Instr.lunbind ⟨pt⟩),
    (0x2570014141840000, Instr.ladd ⟨pt, 0#4, 10#8, 10#8, 12#8, 2#4, false, false, false⟩),
    (0x2830000000000000, Instr.nop ⟨pt⟩),
    (0x2930000000000000, Instr.ret ⟨pt⟩),
    (0x2970000000000002, Instr.exit (imm 0 0 2)),
    (0x29F0000000000001, Instr.yieldPoint ⟨pt⟩),
    (0x2AF0000000000000, Instr.rbar ⟨pt⟩),
    (0x2B70000000000001, Instr.rdv (imm 0 0 1)),
    (0x2BB0000000000001, Instr.fretSkip ⟨pt⟩),
    (0x2BF0000000000000, Instr.fkill ⟨pt⟩),
    (0x2C30014020800000, Instr.xrv (reg 10 1 4 0 0)),
    (0x30F0000040000001, Instr.gset (imm 0 2 1)),
    (0x3130000000000401, Instr.qfence (imm 0 0 0x401)),
    (0x31B0008040000000, Instr.mlda (reg 4 2 0 0 0)),
    (0x31F0008060E04000, Instr.mma (reg 4 3 7 2 0)),
    (0x3230012080000000, Instr.mstore (reg 9 4 0 0 0)),
    (0x3270002000000000, Instr.mcommit (reg 1 0 0 0 0)),
    (0x32B0000000000000, Instr.mwait (imm 0 0 0)),
    (0x32F0006000000000, Instr.tinv (reg 3 0 0 0 0)),
    (0x3470020060000000, Instr.swr (reg 0x10 3 0 0 0)),
    (0x34B0000000000000, Instr.trap ⟨pt⟩)],
    decodeTableWord 64 row.1 = some row.2 := by decide +kernel

/-- Words composed by hand from the layouts of R331 to R333 and the opcode map (R338). -/
theorem test_layout_words_decode : ∀ row ∈ [
    (0x02B00860A0C00800, Instr.icmp (cmp 4 3 2)),
    (0x09301360BFFFFFFE, Instr.icmpImm ⟨pt, 9#4, 11#4, 5#8, 0x1FFFFFFE#29⟩),
    (0x0C300087E0000007, Instr.iaddImmUniform (imm 4 63 7)),
    (0x02F00080A0C0E802, Instr.idot4 { reg 4 5 6 7 2 with opx := 2#3 }),
    (0x10F00080A0C0E290, Instr.ffma { reg 4 5 6 7 0 with rnd := .rup, sat := true, sc := true }),
    (0x1E30008060000801, Instr.leaS { memf 4 3 2 with opx := 1#2 }),
    (0x1E7001E064001001, Instr.cldMemory { memf 15 3 4 with cap := 2#4, opx := 1#2 }),
    (0x1EB0052080C10000, Instr.cnarrow ⟨pt, 2#4, 9#4, 4#8, 6#8, 8#8⟩),
    (0x1FB00080A0C00000, Instr.bankmode (reg 4 5 6 0 0)),
    (0x2470006040000001, Instr.vote { reg 3 2 0 0 0 with opx := 1#3 }),
    (0x24B0008040000801, Instr.redux { reg 4 2 0 0 2 with opx := 1#3 }),
    (0x287000001FFFFFFF, Instr.bra ⟨pt, 0x1FFFFFFF#29⟩),
    (0x28B0000060000040, Instr.brx { reg 0 3 0 0 0 with sa := true }),
    (0x2A3000000000000F, Instr.bar (imm 0 0 15)),
    (0x2C70008020A00000, Instr.xwv (reg 4 1 5 0 0)),
    (0x3070000000000013, Instr.cqgo (imm 0 0 0x13)),
    (0x30B00001E0800000, Instr.cwait (reg 0 15 4 0 0)),
    (0x35300080A0C00001, Instr.boostSpare { reg 4 5 6 0 0 with opx := 1#3 }),
    (0x35700080A0000000, Instr.therm (reg 4 5 0 0 0)),
    (0x35B00080A0C00000, Instr.wrd (reg 4 5 6 0 0))],
    decodeTableWord 64 row.1 = some row.2 ∧ encode row.2 = [BitVec.ofNat 64 row.1] := by decide +kernel

/-- The extended words of R346 and the pair word the spec works out. -/
theorem test_long_words_decode :
    decodeWords 0x80B0002000000000#64 (some 0x2000000000000003#64) = .instr (.cqwExt ⟨pt, 1#8, 0x2000000000000003#64⟩) 2 ∧
    decodeWords 0x80F0006100000000#64 (some 0x10#64) = .instr (.tdesc ⟨pt, 3#8, 8#8, 0x10#64⟩) 2 ∧
    decodeWords 0x807000C040000800#64 (some 0x10#64) =
      .instr (.ldk ⟨pt, 0#4, 6#8, 2#8, 2#3, false, false, 0x10#64⟩) 2 ∧
    decodeWords 0x8130002000001800#64 (some 0x80000000#64) = .instr (.moviExt ⟨pt, 1#8, 6#3, false, 0x80000000#64⟩) 2 ∧
    decodeWords 0x41E080A823C20240#64 none = .instr (.pairWord (half 1 4 5 0x10) (half 0x11 8 9 0)) 1 := by
  decide +kernel

/-- Words the spec refuses: a predicate code of 13, an unassigned opcode, a reserved field (R329 to R331). -/
theorem test_bad_words_refused :
    decodeTableWord 64 0x00740080A0C00800 = none ∧ decodeTableWord 64 0x0030000000000000 = none ∧
    decodeTableWord 64 0x2830000000000001 = none ∧ decodeTableWord 64 0xC000000000000000 = none := by decide +kernel

/-! ### A small machine: one relay of one heat and a pacer, four banks, two scratch pages, one mapped page -/

/-- A header with a pacer at word 0 and handlers at word 32 (R324). -/
def hdr0 : List Word64 :=
  [0x000000014B395856#64, 64#64, 0x20#64, 0x0000011000000020#64, 0x0000010110400100#64, 0x0000000300002000#64,
   0x0000000000400100#64, 0#64, 0x1A001A#64, 0#64, 0#64, 0#64]

def field0 : Field := { probeField with hdr := hdr0 }
def cap0 : Cap := mkCap 0 0x10000 true true true true
def page0 : TlbEntry := ⟨0, 0, 0x10000, 0x40000, true, true, 0#2⟩
def relay0 : Relay := relayStart 0 field0 0 0 0 [(0, squadStart 0 0 [0])] [cap0]

def base : State :=
  let s := State.reset.withFetchWord 64 0x0070008060E00800
  { s with
    fields := [(0, field0)], relays := [(0, relay0)], cores := [(0, { coreInit with tlb := [page0] })],
    clusters := [(0, { clusterInit 0 with tlb := [page0] })] }

def hf : Focus := ⟨.heat 0 0 0, 0xFFFFFFFF#32, none⟩
def pf : Focus := ⟨.pacer 0, 1#32, none⟩
def wf : Focus := ⟨.warm 0, 1#32, none⟩

def withRelay (f : Relay → Relay) (s : State) : State := s.modRelay 0 f
def focused (F : Focus) (s : State) : State := { s with focus := some F }
def strandOf (s : State) (F : Focus) : Strand := (s.strand F.unit).getD (strandStart [] [] [])

/-- The heat about to execute; with its registers set in every lane. -/
def heat : State := focused hf base
def heatWith (v : List (Nat × Word32)) (sr : List (Nat × Word32)) : State :=
  heat.modStrand hf.unit fun x =>
    let y := x.mapLanes laneIds fun _ l => v.foldl (fun l e => l.setReg e.1 ⟨e.2, .clean⟩) l
    sr.foldl (fun x e => x.setSreg e.1 ⟨e.2, .clean⟩) y

/-- The pacer running, and about to execute. -/
def running (rl : Relay) : Relay :=
  { rl with pacer := rl.pacer.map fun p => { p with lanes := [(0, laneStart 0)] }, pacerState := .running }
def pacer : State := focused pf (withRelay running base)
def pacerWith (sr : List (Nat × Word32)) (s : State) : State :=
  s.modStrand pf.unit fun x => sr.foldl (fun x e => x.setSreg e.1 ⟨e.2, .clean⟩) x

/-- A warm-up about to execute. -/
def warm : State :=
  focused wf { base with warms := [(0, { warmStart field0 0 [] [] with start := 0 })] }

def after (i : Instr) (s : State) : State :=
  match exec i s with
  | .next t => t
  | _ => s
def answers (o : Host.Outcome State Fault Refusal) (t : State) : Bool :=
  match o with
  | .next s => decide (s = t)
  | _ => false
def vreg (s : State) (lane n : Nat) : Nat := (((strandOf s hf).lane lane).reg n).val.toNat
def sreg (s : State) (n : Nat) : Nat := ((strandOf s hf).sreg n).val.toNat
def pbit (s : State) (lane n : Nat) : Bool := (((strandOf s hf).lane lane).pred n).val

/-! ### Effects of single words -/

/-- From the entry of IADD: N8 saturates 200 + 100 to 255 and else wraps to 44. -/
theorem test_iadd_n8 :
    let s := heatWith [(5, 200#32), (6, 100#32)] []
    vreg (after (.iadd { reg 4 5 6 0 4 with sat := true }) s) 31 4 = 255 ∧ vreg (after (.iadd (reg 4 5 6 0 4)) s) 0 4 = 44 := by
  decide +kernel

/-- From the entry of IADD: the absolute value of the least number. -/
theorem test_iabs_least :
    let s := heatWith [(5, 0x80000000#32)] []
    vreg (after (.iabs (reg 4 5 0 0 2)) s) 3 4 = 0x80000000 ∧
    vreg (after (.iabs { reg 4 5 0 0 2 with sat := true }) s) 3 4 = 0x7FFFFFFF := by decide +kernel

/-- A destination that is a source, and the word's own counter (R62). -/
theorem test_isub_in_place :
    let s := after (.isub (reg 5 5 6 0 2)) (heatWith [(5, 3#32), (6, 5#32)] [])
    vreg s 7 5 = 0xFFFFFFFE ∧ ((strandOf s hf).lane 7).lpc = 1#32 := by decide +kernel

/-- A shift by the width leaves nothing, an arithmetic one the sign (R441). -/
theorem test_shift_by_width :
    let s := heatWith [(5, 0x80000001#32), (6, 32#32)] []
    vreg (after (.shl (reg 4 5 6 0 2)) s) 0 4 = 0 ∧ vreg (after (.sar (reg 4 5 6 0 2)) s) 0 4 = 0xFFFFFFFF ∧
    vreg (after (.rotl (reg 4 5 6 0 2)) s) 0 4 = 0x80000001 := by decide +kernel

/-- 1.0 + 2.0 in F32, and 1.0 / 0.0 with its flag (R99, R386). -/
theorem test_float :
    let s := heatWith [(2, 0x3F800000#32), (3, 0x40000000#32)] []
    vreg (after (.fadd (reg 1 2 3 0 0)) s) 0 1 = 0x40400000 ∧ vreg (after (.fdiv (reg 1 2 9 0 0)) s) 0 1 = 0x7F800000 := by
  decide +kernel

/-- From R121: the product of e and e as symmetric levels. -/
theorem test_slmul_e :
    vreg (after (.slmul (reg 2 3 4 0 0)) (heatWith [(3, 0x10000000#32), (4, 0x10000000#32)] [])) 0 2 = 0x158B90C0 := by
  decide +kernel

/-- From the entry of LADD: two limbs of 2^33 - 1 and of 0xFFFFFFFF_00000001 give limbs 0 and 1 and a carry. -/
theorem test_ladd_worked :
    let s := (heatWith [] []).modStrand hf.unit fun x =>
      { (x.mapLanes laneIds fun i l => (l.setReg 10 ⟨if i % 2 = 0 then 0xFFFFFFFF#32 else 1#32, .clean⟩).setReg 12
          ⟨if i % 2 = 0 then 1#32 else 0xFFFFFFFF#32, .clean⟩) with g := 1#3 }
    let t := after (.ladd { chn 10 10 12 with pc := 2#4 }) s
    vreg t 0 10 = 0 ∧ vreg t 1 10 = 1 ∧ pbit t 0 2 = true ∧ pbit t 1 2 = true := by decide +kernel

/-- From the entry of SWR: writing 0x1E clears IV alone. -/
theorem test_swr_fpf :
    let s := (heatWith [] [(3, 0x1E#32)]).modStrand hf.unit fun x => { x with fpf := 0x1F#5 }
    (strandOf (after (.swr (reg 0x10 3 0 0 0)) s) hf).fpf = 0x1E#5 := by decide +kernel

/-- From the entry of SHFL: XOR with 1 exchanges neighbours. -/
theorem test_shfl_xor :
    let s := (heatWith [] [(2, 1#32)]).modStrand hf.unit fun x =>
      x.mapLanes laneIds fun i l => l.setReg 4 ⟨BitVec.ofNat 32 i, .clean⟩
    let t := after (.shfl { reg 5 4 2 0 6 with sb := true, opx := 3#3 }) s
    vreg t 0 5 = 1 ∧ vreg t 31 5 = 30 := by decide +kernel

/-- A store and the load that follows it, little-endian, through a capability of the mapped page (R157, R453). -/
theorem test_store_load :
    let m : MemF := { memf 4 3 2 with imm := 8#12 }
    let s := after (.st m) (heatWith [(4, 0x11223344#32), (3, 0x100#32)] [])
    s.byte 0x40108 = 0x44#8 ∧ s.byte 0x4010B = 0x11#8 ∧ vreg (after (.ld { m with d := 7#8 }) s) 5 7 = 0x11223344 ∧
    vreg (after (.ld { m with d := 7#8, size := 6#3, imm := 10#12 }) s) 5 7 = 0x1122 := by decide +kernel

/-- ATOM.ADD: lanes in ascending order, each receiving what it found (R353). -/
theorem test_atom_order :
    let t := after (.atom { atm 0 2 with size := 2#3 }) (heatWith [(8, 1#32), (3, 0x200#32)] [])
    vreg t 0 4 = 0 ∧ vreg t 31 4 = 31 ∧ t.readMem 0x40200 4 = 32 := by decide +kernel

/-- A load without a tag, outside the capability, or on an odd address parks its lanes under its cause (R125). -/
theorem test_load_faults :
    let own (s : State) : Nat := ((strandOf s hf).lane 9).own.toNat
    own (after (.ld { memf 4 3 2 with cap := 1#4 }) (heatWith [] [])) = 0x20 ∧
    own (after (.ld (memf 4 3 2)) (heatWith [(3, 0x10000#32)] [])) = 0x21 ∧
    own (after (.ld (memf 4 3 2)) (heatWith [(3, 2#32)] [])) = 0x12 := by decide +kernel

/-- XWV outside handler mode parks the lanes under 0x0C; TRAP under 0x49, escalated (R75, R458). -/
theorem test_parking :
    (((strandOf (after (.xwv (reg 4 1 5 0 0)) heat) hf).lane 4).ls, ((strandOf (after (.xwv (reg 4 1 5 0 0)) heat) hf).lane 4).own)
      = (.parked, 0x0C#7) ∧
    ((strandOf (after (.trap ⟨pt⟩) heat) hf).frags.map fun e => (e.2.fcause, e.2.phase)) = [(0x49#7, .escalated)] := by
  decide +kernel

/-- A branch to before the first word and a return with an empty stack park their lanes (R67, R363). -/
theorem test_branch :
    ((strandOf (after (.bra ⟨pt, 5#29⟩) heat) hf).lane 3).lpc = 5#32 ∧
    ((strandOf (after (.call ⟨pt, 5#29⟩) heat) hf).lane 3).stack = [1#32] ∧
    ((strandOf (after (.bra ⟨pt, 0x1FFFFFFF#29⟩) heat) hf).lane 3).ls = .parked ∧
    ((strandOf (after (.ret ⟨pt⟩) heat) hf).lane 3).ls = .parked := by decide +kernel

/-- The copy example after R210: 128 rows of 128 bytes, strides of 8 units, span code 3, counter 1, at the tail of queue 0. -/
theorem test_cqgo_worked :
    let k : AMap KSlot := [(0, ⟨0x0200000000000000#64, .clean⟩), (1, ⟨0x2000000000000003#64, .clean⟩),
      (2, ⟨0x0800080000200008#64, .clean⟩), (3, ⟨0x1818#64, .clean⟩)]
    let s := heat.modStrand hf.unit fun x => { x with k := k, kset := true, c := [(2, cap0)] }
    let items := (((find (after (.cqgo (imm 0 0 0)) s).relays 0).getD relay0).queue 0).items
    (match items with
      | [.command c] => decide (c.src = .device cap0 0 ∧ c.dst = .fifo 3 ∧ c.rows = 128 ∧ c.rowBytes = 128 ∧
          c.sstride = 128 ∧ c.dstride = 128 ∧ c.swz = 3 ∧ c.cnt = some 1)
      | _ => false) = true := by decide +kernel

/-- R435: the rendezvous keeps its tag while nobody stands there; another tag faults under 0x56. -/
theorem test_rdv_other_tag :
    let s := focused hf (withRelay (fun rl => { rl with rdvTag := some 3 }) pacer)
    let x := strandOf (after (.rdv (imm 0 0 5)) s) hf
    ((x.lane 31).ls, (x.lane 31).own, (x.lane 31).lpc) = (.parked, 0x56#7, 0#32) := by decide +kernel

/-- R86: a CWAIT not reached, with a lookahead, lets its lane go on and stays open. -/
theorem test_cwait_window :
    let x := strandOf (after (.cwait { reg 0 15 62 0 0 with la := 3#4 }) (pacerWith [(62, 6#32)] pacer)) pf
    ((x.lane 0).lpc, (x.lane 0).held, x.ops.map fun o => (o.kind, o.left)) = (1#32, none, [(.cwait 15 6, 3)]) := by decide +kernel

/-- R305: the first link key is taken whatever its generation. -/
theorem test_first_link_key :
    (after (.keyExchange .p0 ⟨0, some 0x8000#16⟩) base).dev.linkGen = some 0x8000 := by decide +kernel

/-- R225: a doorbell past the ring quarantines the queue, and the fields of it with it. -/
theorem test_doorbell_demotes :
    let t := after (.vxDoorbell .p0 0xFFFFFFFF00000000#64) { base with relays := [] }
    ((find t.queues 0).map (fun q => q.quar), (find t.fields 0).map (fun f => f.quar)) = (some true, some true) := by decide +kernel

/-- A step from the placed word runs it, and the idle machine only counts its ticks. -/
theorem test_step_runs_iadd :
    (match step (State.reset.withFetchWord 64 0x0B3000201FFFFFFF) with
      | .next t => (vreg t 0 1, vreg t 31 1, t.tick)
      | _ => (0, 0, 0)) = (0xFFFFFFFF, 0xFFFFFFFF, 1) ∧
    answers (step State.reset) { State.reset with tick := 1 } = true := by decide +kernel

/-! ### Hypotheses that can be met: for every statement, and for every clause that has its own, a state and operands -/

/-- What the witnesses ask of a machine about to execute: the unit in focus exists and is not single-stepped, nothing is
outstanding in it, no exception is enabled, and every register of R34 is there. -/
def fit (s : State) (F : Focus) : Bool :=
  decide (s.focus = some F) && (s.strand F.unit).isSome && decide (F.lanes ≠ 0#32) && !s.stepping F &&
  (strandOf s F).ops.isEmpty && decide ((strandOf s F).fpe = 0#7) && s.nv F.unit == 256 && s.ns F.unit == 64

theorem issues_of {s : State} {F : Focus} (h : fit s F = true) : Issues s F (strandOf s F) := by
  simp only [fit, Bool.and_eq_true, decide_eq_true_eq, Bool.not_eq_eq_eq_not, Bool.not_true] at h
  obtain ⟨⟨⟨⟨⟨⟨⟨hf, hs⟩, hl⟩, hn⟩, _⟩, _⟩, _⟩, _⟩ := h
  refine ⟨hf, ?_, hl, hn⟩
  unfold strandOf
  cases hx : s.strand F.unit with
  | none => simp [hx] at hs
  | some x => rfl

theorem named_of {s : State} {F : Focus} {r : Runs} {n : Named} {e : LaneSet} (h : fit s F = true)
    (hr : unitCauses F.unit r = []) (hb : beyondHeader 256 64 n = false) : NamedOk s F (strandOf s F) r n e := by
  simp only [fit, Bool.and_eq_true, decide_eq_true_eq, beq_iff_eq, List.isEmpty_iff] at h
  obtain ⟨⟨⟨⟨_, ho⟩, _⟩, hv⟩, hs⟩ := h
  exact ⟨hr, fun i _ => by simp [namedCauses, headerCauses, pendingCauses, pendingIn, ho, hv, hs, hb]⟩

theorem quiet_of {s : State} {F : Focus} (h : fit s F = true) (a : BitVec 5) (b : BitVec 4) :
    trapCauses (strandOf s F).fpe a b = [] := by
  simp only [fit, Bool.and_eq_true, decide_eq_true_eq] at h
  simp [trapCauses, h.1.1.2, List.range_succ]

theorem alu_of {s : State} {F : Focus} {w : Alu} {fn : List Nat → Bool → Res} {e : LaneSet} (h : fit s F = true)
    (hr : unitCauses F.unit w.runs = []) (hb : beyondHeader 256 64 w.named = false)
    (hc : ∀ l p, (fn l p).causes = []) : AluOk s F (strandOf s F) w fn e :=
  ⟨named_of h hr hb, fun _ _ => hc _ _, fun _ _ => quiet_of h _ _⟩

theorem lanes_of {e : LaneSet} {P : Nat → Prop} (h : ∀ i, i < 32 → P i) : ∀ i, e.getLsbD i = true → P i :=
  fun i hi => h i (BitVec.lt_of_getLsbD hi)

/-- An unpredicated word reads no predicate: none of the issuing set is poisoned or unverified. -/
theorem preds_pt (F : Focus) (x : Strand) : PredsClean F x pt := fun _ _ => rfl

theorem heat_fit : fit heat hf = true := by decide +kernel
theorem pacer_fit : fit pacer pf = true := by decide +kernel
theorem warm_fit : fit warm wf = true := by decide +kernel

/-- The conditions of RunsAlu hold for the word on the heat, whatever it computes, short of a cause of its own. -/
def Meets (w : Alu) : Prop :=
  ∀ fn : List Nat → Bool → Res, (∀ l p, (fn l p).causes = []) →
    Issues heat hf (strandOf heat hf) ∧ w.info.la = 0 ∧
    AluOk heat hf (strandOf heat hf) w fn (execLanes (strandOf heat hf) hf.lanes w.info.pred)

def meetsNow (w : Alu) : Bool :=
  w.info.la == 0 && (unitCauses hf.unit w.runs).isEmpty && !beyondHeader 256 64 w.named

theorem meets_of {l : List Alu} (h : l.all meetsNow = true) : ∀ w ∈ l, Meets w := by
  intro w hw fn hc
  have := List.all_eq_true.mp h w hw
  simp only [meetsNow, Bool.and_eq_true, beq_iff_eq, List.isEmpty_iff, Bool.not_eq_eq_eq_not, Bool.not_true] at this
  exact ⟨issues_of heat_fit, this.1.1, alu_of heat_fit this.1.2 this.2 hc⟩

def r32 : RegF := reg 4 5 6 7 2
def c32 : CmpF := cmp 9 11 2

theorem test_meets_IntegerArithmetic : ∀ w ∈ [regAlu shAdd anyUnit (reg 254 252 250 0 3), regAlu shMad anyUnit r32,
    regAlu shMulhi anyUnit r32, regAlu shAbs anyUnit r32, regAlu shMinMax anyUnit r32, immAlu false true (imm 255 255 7),
    immAlu true true (imm 63 63 7)], Meets w := meets_of (by decide)

theorem test_meets_CarriesComparesDots : ∀ w ∈ [{ regAlu shAddc anyUnit r32 with psrc := some 11, pdst := some 11 },
    cmpAlu shIcmp anyUnit c32, cmpiAlu false ⟨pt, 9#4, 11#4, 255#8, 0#29⟩, cmpiAlu true ⟨pt, 0#4, 0#4, 63#8, 0#29⟩,
    regAlu shDot anyUnit r32], Meets w := meets_of (by decide)

theorem test_meets_BitwiseResults : ∀ w ∈ [regAlu shLogic anyUnit r32, regAlu shNot anyUnit r32,
    { regAlu shSel anyUnit r32 with psrc := some 7 }, immAlu false true (imm 4 5 1), immAlu true true (imm 4 5 1),
    immAlu false false (imm 4 0 1), immAlu true false (imm 4 0 1),
    { info := ⟨pt, 0, 2, 1⟩, runs := anyUnit, u := false, dst := some (4, 2), srcs := [], psrc := none, pdst := none }],
    Meets w := meets_of (by decide)

theorem test_meets_ShiftsAndBitFields : (∀ w ∈ [regAlu shShift anyUnit r32, immAlu false true (imm 4 5 31),
    immAlu true true (imm 4 5 31), regAlu shBf anyUnit r32,
    { regAlu shBf anyUnit r32 with srcs := (regAlu shBf anyUnit r32).srcs ++ [(false, 4, 1)] }, regAlu shBrev anyUnit r32,
    regAlu shClz anyUnit r32], Meets w) ∧ (imm 4 5 31).imm.toNat < 32 := ⟨meets_of (by decide), by decide⟩

theorem test_meets_FloatArithmetic : ∀ w ∈ [regAlu shFadd {} r32, regAlu shFfma {} r32, regAlu shDadd {} (reg 4 6 8 0 1),
    regAlu shDmul {} (reg 4 6 8 0 1), regAlu shDfma {} (reg 4 6 8 10 1), regAlu shFdiv {} r32, regAlu shFsqrt {} r32,
    regAlu shFsfu {} r32, regAlu shFmin {} r32, regAlu shVfma2 {} r32, cmpAlu shFcmp anyUnit c32], Meets w :=
  meets_of (by decide)

theorem test_meets_Conversions_scalar : ∃ f : RegF, ¬(cvtDcl f = true ∧ f.ty = 6#3) ∧ ¬(cvtScl f = true ∧ f.opx = 6#3) ∧
    Meets (cvtAlu f) :=
  ⟨{ reg 4 5 3 0 2 with opx := 0#3 }, by decide, by decide, meets_of (l := [cvtAlu { reg 4 5 3 0 2 with opx := 0#3 }]) (by decide) _ (List.mem_singleton.mpr rfl)⟩

theorem test_meets_Conversions_toBlock : ∃ f : RegF, Issues heat hf (strandOf heat hf) ∧ f.la = 0#4 ∧ cvtDcl f = true ∧
    f.ty = 6#3 ∧ isPacer hf.unit = false ∧ hf.lanes = allLanes ∧
    execLanes (strandOf heat hf) hf.lanes f.pred = allLanes ∧ ((strandOf heat hf).sreg f.c.toNat).val.toNat < 256 ∧
    NamedOk heat hf (strandOf heat hf) {} { cvtAlu f with srcs := (cvtAlu f).srcs ++ [(true, f.c.toNat, 1)] }.named
      allLanes ∧ ∀ fl, trapCauses (strandOf heat hf).fpe fl 0#4 = [] :=
  ⟨{ reg 4 5 3 63 6 with sc := true, opx := 0#3 }, issues_of heat_fit, rfl, by decide, rfl, rfl, by decide +kernel,
    by decide +kernel, by decide +kernel, named_of heat_fit rfl (by decide), fun _ => quiet_of heat_fit _ _⟩

theorem test_meets_Conversions_ofBlock : ∃ f : RegF, Issues heat hf (strandOf heat hf) ∧ f.la = 0#4 ∧ cvtScl f = true ∧
    f.opx = 6#3 ∧ ¬(cvtDcl f = true ∧ f.ty = 6#3) ∧ isPacer hf.unit = false ∧ hf.lanes = allLanes ∧
    execLanes (strandOf heat hf) hf.lanes f.pred = allLanes ∧
    NamedOk heat hf (strandOf heat hf) {} (cvtAlu f).named allLanes ∧
    (let src (i : Nat) := (readOpd (strandOf heat hf) i f.sa f.a.toNat 1).val
     blockInvalid (src 4 % 256) (src 4 / 256 % 256) = false) ∧ ∀ fl, trapCauses (strandOf heat hf).fpe fl 0#4 = [] :=
  ⟨{ reg 4 5 3 0 0 with opx := 6#3 }, issues_of heat_fit, rfl, by decide, rfl, by decide, rfl, by decide +kernel,
    by decide +kernel, named_of heat_fit rfl (by decide), by decide +kernel, fun _ => quiet_of heat_fit _ _⟩

theorem test_meets_LevelResults : ∀ w ∈ [regAlu shSladd {} r32, regAlu shSlmul {} r32, regAlu shSlrcp {} r32,
    { info := regInfo r32, runs := {}, u := false, dst := some (4, 2), srcs := [(false, 6, 2)], psrc := none, pdst := none },
    cmpAlu shSlcmp anyUnit c32], Meets w := meets_of (by decide)

theorem test_meets_LookaheadDefersResults : ∃ f : RegF, f.la ≠ 0#4 ∧ Issues heat hf (strandOf heat hf) ∧
    ∀ w ∈ [regAlu shFsfu {} f, regAlu shFdiv {} f, regAlu shFsqrt {} f, regAlu shSladd {} f, regAlu shSlmul {} f],
      ∀ fn : List Nat → Bool → Res, (∀ l p, (fn l p).causes = []) →
        AluOk heat hf (strandOf heat hf) w fn (execLanes (strandOf heat hf) hf.lanes f.pred) := by
  refine ⟨{ r32 with la := 15#4 }, by decide, issues_of heat_fit, fun w hw fn hc => ?_⟩
  have hk : ∀ w ∈ [regAlu shFsfu {} { r32 with la := 15#4 }, regAlu shFdiv {} { r32 with la := 15#4 },
      regAlu shFsqrt {} { r32 with la := 15#4 }, regAlu shSladd {} { r32 with la := 15#4 },
      regAlu shSlmul {} { r32 with la := 15#4 }], unitCauses hf.unit w.runs = [] ∧ beyondHeader 256 64 w.named = false := by
    decide
  exact alu_of heat_fit (hk w hw).1 (hk w hw).2 hc

abbrev hx : Strand := strandOf heat hf
abbrev px : Strand := strandOf pacer pf
abbrev wx : Strand := strandOf warm wf

/-- The lanes of a fixture that execute an unpredicated word. -/
theorem heat_all : execLanes hx hf.lanes pt = 0xFFFFFFFF#32 := by decide +kernel
theorem pacer_one : execLanes px pf.lanes pt = 1#32 := by decide +kernel
theorem warm_one : execLanes wx wf.lanes pt = 1#32 := by decide +kernel
theorem heat_some : execLanes hx hf.lanes pt ≠ 0#32 := by rw [heat_all]; decide

theorem test_meets_PairWords :
    let h0 := half 1 4 5 0x10
    let h1 := half 0x11 8 9 0
    Issues heat hf hx ∧ (∀ i, hf.lanes.getLsbD i = true → (halfLane h0 heat hf.unit hx hf.lanes i).causes = [] ∧
      (halfLane h1 heat hf.unit hx hf.lanes i).causes = []) ∧ halfFinds h0 heat hf.unit = [] ∧ halfFinds h1 heat hf.unit = [] :=
  ⟨issues_of heat_fit, lanes_of (by decide +kernel), by decide +kernel, by decide +kernel⟩

theorem test_meets_AcrossLanes_shfl :
    let f := { reg 254 252 31 0 3 with opx := 0#3 }
    let cnt := Wd.count .byTy .int f.ty
    Issues heat hf hx ∧ f.la = 0#4 ∧
    NamedOk heat hf hx heatOnly ⟨span f.d.toNat cnt ++ [f.b.toNat], [], predNamed f.pred⟩ (execLanes hx hf.lanes f.pred) ∧
    beyondHeader (heat.nv hf.unit) (heat.ns hf.unit) ⟨span f.a.toNat cnt, [], []⟩ = false ∧
    ∀ i, i < 32 → pendingIn hx (shflSource 0 ((readOpd hx i false f.b.toNat 1).val % 32) i) ⟨span f.a.toNat cnt, [], []⟩ = false :=
  ⟨issues_of heat_fit, rfl, named_of heat_fit rfl (by decide), by decide +kernel, by decide +kernel⟩

/-- BALLOT into V registers, once into an S register, and the predicate modes. -/
theorem test_meets_AcrossLanes_vote :
    Issues heat hf hx ∧ execLanes hx hf.lanes pt ≠ 0#32 ∧
    NamedOk heat hf hx heatOnly ⟨[255], [], [11]⟩ (execLanes hx hf.lanes pt) ∧
    NamedOk heat hf hx heatOnly ⟨[], [63], [11]⟩ (execLanes hx hf.lanes pt) ∧
    NamedOk heat hf hx heatOnly ⟨[255], [], [11]⟩ (execLanes hx hf.lanes pt) :=
  ⟨issues_of heat_fit, heat_some, named_of heat_fit rfl (by decide), named_of heat_fit rfl (by decide),
    named_of heat_fit rfl (by decide)⟩

theorem test_meets_AcrossLanes_redux :
    Issues heat hf hx ∧ NamedOk heat hf hx heatOnly ⟨span 254 2, span 62 2, []⟩ (execLanes hx hf.lanes pt) ∧
    NamedOk heat hf hx heatOnly ⟨span 254 2 ++ span 252 2, [], []⟩ (execLanes hx hf.lanes pt) :=
  ⟨issues_of heat_fit, named_of heat_fit rfl (by decide), named_of heat_fit rfl (by decide)⟩

/-- A heat bound in pairs of lanes. -/
def bound : State := heat.modStrand hf.unit fun x => { x with g := 1#3 }
theorem bound_fit : fit bound hf = true := by decide +kernel

theorem test_meets_ChainResults :
    let x := strandOf bound hf
    let e := execLanes x hf.lanes pt
    Issues bound hf x ∧ x.g ≠ 0#3 ∧ x.ovfe = false ∧ NamedOk bound hf x heatOnly ⟨[4, 5, 6, 7], [], [11]⟩ e ∧
    ∀ i, i < 32 → ∀ j ∈ groupLanes x i, e.getLsbD j = true :=
  ⟨issues_of bound_fit, by decide +kernel, by decide +kernel, named_of bound_fit rfl (by decide), by decide +kernel⟩

theorem test_meets_LaneBinding :
    (Issues heat hf hx ∧ hf.handler = none ∧ hx.g = 0#3 ∧ execLanes hx hf.lanes pt = 0xFFFFFFFF#32 ∧
      NamedOk heat hf hx heatOnly ⟨[], [], []⟩ 0xFFFFFFFF#32 ∧ (imm 0 0 32).imm.toNat = 2 ^ 5 ∧
      (imm 0 0 2).imm.toNat = 2 ^ 1) ∧
    (let x := strandOf bound hf
     let e := execLanes x hf.lanes pt
     Issues bound hf x ∧ e ≠ 0#32 ∧ x.parkedBelow (x.lane ((lowest e).getD 0)).lpc = false ∧
      (∀ i, i < 32 → (x.lane i).ls ≠ .exited → e.getLsbD i = true) ∧ NamedOk bound hf x heatOnly ⟨[], [], []⟩ e) :=
  ⟨⟨issues_of heat_fit, rfl, by decide +kernel, heat_all, named_of heat_fit rfl (by decide), by decide, by decide⟩,
    issues_of bound_fit, by decide +kernel, by decide +kernel, by decide +kernel, named_of bound_fit rfl (by decide)⟩

theorem heat_at_zero : ∀ i, i < 32 → (hx.lane i).lpc = 0#32 := by decide +kernel
theorem heat_words : heat.codeW hf.unit = 64 := by decide +kernel

/-- BRA and CALL to the first and to the last word. -/
theorem test_meets_Branches :
    Issues heat hf hx ∧ (∀ pc, BranchOk hf hx pt (execLanes hx hf.lanes pt) pc) ∧
    (∀ off ∈ [0#29, 63#29], ∀ i, i < 32 → 0 ≤ ((hx.lane i).lpc.toNat + off.toInt : Int) ∧
      ((hx.lane i).lpc.toNat + off.toInt : Int) < (heat.codeW hf.unit : Int)) ∧
    (∀ i, i < 32 → (hx.lane i).stack.length < 16) ∧ NamedOk heat hf hx {} ⟨[], [], []⟩ (execLanes hx hf.lanes pt) := by
  refine ⟨issues_of heat_fit, fun pc => ⟨rfl, lanes_of ?_, .inl ?_⟩, fun off ho i hi => ?_, ?_,
    named_of heat_fit rfl (by decide)⟩
  · decide +kernel
  · decide +kernel
  · rw [heat_at_zero i hi, heat_words]
    simp only [List.mem_cons, List.not_mem_nil, or_false] at ho
    rcases ho with rfl | rfl <;> decide
  · decide +kernel

def calling : State := heatWith [(3, 63#32)] [] |>.modStrand hf.unit fun x => x.mapLanes laneIds fun _ l => { l with stack := [63#32] }
theorem calling_fit : fit calling hf = true := by decide +kernel

theorem test_meets_Branches_registers :
    let x := strandOf calling hf
    Issues calling hf x ∧ (∀ pc, BranchOk hf x pt (execLanes x hf.lanes pt) pc) ∧
    (∀ i, i < 32 → (readOpd x i false 3 1).val < calling.codeW hf.unit ∧ (readOpd x i false 3 1).taint = .clean) ∧
    (∀ i, i < 32 → (x.lane i).stack ≠ [] ∧ ((x.lane i).stack.headD 0#32).toNat < calling.codeW hf.unit) := by
  refine ⟨issues_of calling_fit, fun pc => ⟨rfl, lanes_of ?_, .inl ?_⟩, ?_, ?_⟩ <;> decide +kernel

/-- A CWAIT of counter 15 for a count of 9, open over every lane of the heat. -/
def windowOp (h : Option Nat) (m : LaneSet) (save : AMap Lane) : LongOp :=
  ⟨.cwait 15 9, 0#32, m, 3, [], [], 0#5, 0#4, save, overNone, [], 0, h⟩
def inWindow (h : Option Nat) (s : State) : State :=
  s.modStrand hf.unit fun x => { x with ops := [windowOp h 0xFFFFFFFF#32 x.lanes] }

theorem test_meets_WordsWithoutResult :
    Issues heat hf hx ∧ execLanes hx hf.lanes pt ≠ 0#32 ∧ hx.inflight = 0 ∧
    NamedOk heat hf hx {} ((addrNamed 255 false false).with [] [] pt) (execLanes hx hf.lanes pt) ∧
    (hx.openIn (execLanes hx hf.lanes pt) = false ∧ hx.due = [] ∧ hx.ops = []) ∧
    (let s := heat.modStrand hf.unit fun x => { x with inflight := 1 }
     Issues s hf (strandOf s hf) ∧ (strandOf s hf).inflight ≠ 0 ∧
     (orderOf 3#3 4#3).rel = true) ∧
    (strandOf (inWindow none heat) hf).openIn (execLanes (strandOf (inWindow none heat) hf) hf.lanes pt) = true ∧
    (let s := heat.modStrand hf.unit fun x => { x with waiting := .fence true false 4 0xFFFFFFFF#32 }
     (s.strand hf.unit).isSome = true ∧ (strandOf s hf).waiting ≠ .none) :=
  ⟨issues_of heat_fit, heat_some, by decide +kernel, named_of heat_fit rfl (by decide), by decide +kernel,
    ⟨issues_of (by decide +kernel), by decide +kernel, by decide⟩, by decide +kernel, by decide +kernel, by decide +kernel⟩

/-- EXIT in a heat, in the pacer, and in a warm-up with codes 0 to 2. -/
theorem test_meets_ExitRetires :
    (Issues heat hf hx ∧ execLanes hx hf.lanes pt ≠ 0#32 ∧ NamedOk heat hf hx anyUnit ⟨[], [], []⟩ (execLanes hx hf.lanes pt) ∧
      heat.mqCause hf = [] ∧ isWarm hf.unit = false ∧ hx.g = 0#3) ∧
    (Issues pacer pf px ∧ execLanes px pf.lanes pt ≠ 0#32 ∧
      NamedOk pacer pf px anyUnit ⟨[], [], []⟩ (execLanes px pf.lanes pt) ∧ pacer.mqCause pf = []) ∧
    (Issues warm wf wx ∧ execLanes wx wf.lanes pt ≠ 0#32 ∧ NamedOk warm wf wx anyUnit ⟨[], [], []⟩ (execLanes wx wf.lanes pt) ∧
      warm.mqCause wf = [] ∧ wf.unit = .warm 0 ∧ (imm 0 0 2).imm.toNat < 3 ∧ 3 ≤ (imm 0 0 3).imm.toNat) ∧
    (fit bound hf = true ∧ isHeat hf.unit = true ∧ (strandOf bound hf).g ≠ 0#3 ∧ bound.mqCause hf = [] ∧
      execLanes (strandOf bound hf) hf.lanes pt ≠ 0#32) :=
  ⟨⟨issues_of heat_fit, heat_some, named_of heat_fit rfl (by decide), by decide +kernel, rfl, by decide +kernel⟩,
    ⟨issues_of pacer_fit, by decide +kernel, named_of pacer_fit rfl (by decide), by decide +kernel⟩,
    ⟨issues_of warm_fit, by decide +kernel, named_of warm_fit rfl (by decide), by decide +kernel, rfl, by decide, by decide⟩,
    by decide +kernel⟩

/-- RECONV, YIELD and YIELD.POINT, where their lanes are held and where they pass. -/
theorem test_meets_HoldsAndYields :
    Issues heat hf hx ∧ hf.handler = none ∧ NamedOk heat hf hx {} ⟨[], [], []⟩ (execLanes hx hf.lanes pt) ∧
    (isHeat hf.unit && hx.parkedBelow (hx.lane 0).lpc) = false ∧ heat.yieldPending hf.unit = false ∧
    (let s := withRelay (fun rl => { rl with squads := [(0, { squadStart 0 0 [0] with yreq := true })] }) heat
     Issues s hf (strandOf s hf) ∧ s.yieldPending hf.unit = true) ∧
    (let s := heat.modStrand hf.unit fun x => x.mapLanes laneIds fun i l =>
       if i = 1 then { l with ls := .parked } else { l with lpc := 1#32 }
     Issues s hf (strandOf s hf) ∧ (strandOf s hf).parkedBelow ((strandOf s hf).lane 0).lpc = true) ∧
    (bound.strand hf.unit).isSome = true ∧ (strandOf bound hf).g ≠ 0#3 ∧
    (∀ i, i < 32 → (hx.lane i).candidate = true) ∧ (1#32 : LaneSet).getLsbD 0 = true ∧ (1#32 : LaneSet).getLsbD 31 = false :=
  ⟨issues_of heat_fit, rfl, named_of heat_fit rfl (by decide), by decide +kernel, by decide +kernel,
    ⟨issues_of (by decide +kernel), by decide +kernel⟩, ⟨issues_of (by decide +kernel), by decide +kernel⟩, by decide +kernel,
    by decide +kernel, by decide +kernel, by decide, by decide⟩

/-- The heat with addresses at the end of the page (V3, S4) and of the scratch (V2), whose second page is resident. -/
def memHeat : State :=
  withRelay (fun rl => { rl with pages := [(1, { pageInit with resident := true })] })
    (heatWith [(3, 0xFFFC#32), (2, 0x1FFC#32)] [(4, 0xFFFC#32), (6, 0xFFF0#32)])
abbrev mx : Strand := strandOf memHeat hf
theorem mem_fit : fit memHeat hf = true := by decide +kernel
theorem mem_some : execLanes mx hf.lanes pt ≠ 0#32 := by decide +kernel
def devLoc : Nat → Loc := fun _ => .dev 0x4FFFC 0#2
def scrLoc : Nat → Loc := fun _ => .scr 0x1FFC

theorem test_meets_LoadWords :
    let e := execLanes mx hf.lanes pt
    let o := loadOrder hf.unit 0#3 0#3
    Issues memHeat hf mx ∧ PredsClean hf mx pt ∧ NamedOk memHeat hf mx {} ⟨[255, 3, 2], [63, 4], []⟩ e ∧
    AccessOk e (fun i => memHeat.devPlan hf.unit mx (mx.creg 0) (memOff mx i (memf 4 3 2)) 4 .r false o true)
      (fun i => (addrOpd mx i 3 false false).taint) devLoc ∧
    AccessOk e (fun i => memHeat.scrPlan hf.unit mx (memOff mx i (memf 4 2 2)) 4 o)
      (fun i => (addrOpd mx i 2 false false).taint) scrLoc := by
  refine ⟨issues_of mem_fit, preds_pt _ _, named_of mem_fit rfl (by decide), lanes_of fun i hi => ⟨⟨0xFFFC, ?_⟩, ?_⟩,
    lanes_of fun i hi => ⟨⟨0x1FFC, ?_⟩, ?_⟩⟩ <;> revert i <;> decide +kernel

theorem test_meets_LoadWords_constants :
    let e := execLanes mx hf.lanes pt
    let base := memHeat.fieldD hf.unit 0 fun fd => fd.code + hdrDataOff fd
    let adr := addrOpd mx 0 4 true false
    AccessOk e (fun i => memHeat.devPlan hf.unit mx (memHeat.codeCap hf.unit)
        (((addrOpd mx i 9 false false).val + 0xEF0 + base : Nat) : Int) 4 .r false Order.data false)
      (fun i => (addrOpd mx i 9 false false).taint) (fun _ => .dev 0x41000 0#2) ∧
    e ≠ 0#32 ∧ adr.taint = .clean ∧
    memHeat.devPlan hf.unit mx (mx.creg 0) (adr.val + (0 : Int)) 4 .r false (orderOf 0#3 0#3) true =
      { fva := 0xFFFC, dev := true, loc := some (.dev 0x4FFFC 0#2) } := by
  refine ⟨lanes_of fun i hi => ⟨⟨0x1000, ?_⟩, ?_⟩, mem_some, ?_, ?_⟩ <;> try revert i
  all_goals decide +kernel

theorem test_meets_Stores :
    let e := execLanes mx hf.lanes pt
    let o := orderOf 0#3 0#3
    let data (i : Nat) := readOpd mx i false 255 1
    Issues memHeat hf mx ∧ PredsClean hf mx pt ∧
    NamedOk memHeat hf mx {} ((addrNamed 3 false false).with (span 255 1) [] pt) e ∧
    AccessOk e (fun i => memHeat.devPlan hf.unit mx (mx.creg 0) (memOff mx i (memf 255 3 2)) 4 .w true o true)
      (fun i => (addrOpd mx i 3 false false).taint.join (data i).taint) devLoc ∧
    AccessOk e (fun i => memHeat.scrPlan hf.unit mx (memOff mx i (memf 255 2 2)) 4 o)
      (fun i => (addrOpd mx i 2 false false).taint.join (data i).taint) scrLoc := by
  refine ⟨issues_of mem_fit, preds_pt _ _, named_of mem_fit rfl (by decide), lanes_of fun i hi => ⟨⟨0xFFFC, ?_⟩, ?_⟩,
    lanes_of fun i hi => ⟨⟨0x1FFC, ?_⟩, ?_⟩⟩ <;> revert i <;> decide +kernel

theorem test_meets_Atomics :
    let e := execLanes mx hf.lanes pt
    let o := orderOf 4#3 4#3
    let b (i : Nat) := readOpd mx i false 254 2
    Issues memHeat hf mx ∧ PredsClean hf mx pt ∧
    NamedOk memHeat hf mx {} ((addrNamed 3 false false).with (span 255 1 ++ span 254 2) [] pt) e ∧
    AccessOk e (fun i => memHeat.devPlan hf.unit mx (mx.creg 0) (addrOpd mx i 3 false false).val 4 .a true o true)
      (fun i => (addrOpd mx i 3 false false).taint.join (b i).taint) devLoc ∧
    AccessOk e (fun i => memHeat.scrPlan hf.unit mx (addrOpd mx i 2 false false).val 4 o)
      (fun i => (addrOpd mx i 2 false false).taint.join (b i).taint) scrLoc := by
  refine ⟨issues_of mem_fit, preds_pt _ _, named_of mem_fit rfl (by decide), lanes_of fun i hi => ⟨⟨0xFFFC, ?_⟩, ?_⟩,
    lanes_of fun i hi => ⟨⟨0x1FFC, ?_⟩, ?_⟩⟩ <;> revert i <;> decide +kernel

theorem test_meets_AddressComputation :
    let c := mx.creg 0
    Issues memHeat hf mx ∧ NamedOk memHeat hf mx {} ((addrNamed 3 false false).with (span 254 2) [] pt) (execLanes mx hf.lanes pt) ∧
    (∀ i, i < 32 → c.tag = true ∧ (addrOpd mx i 3 false false).val = 0xFFFC ∧ 0xFFFC + 4 ≤ c.len ∧ (c.base + 0xFFFC) % 4 = 0) ∧
    (∀ i, i < 32 → (addrOpd mx i 2 false false).val = 0x1FFC ∧ 0x1FFC % 4 = 0 ∧ 0x1FFC < memHeat.fieldD hf.unit 0 scratchRounded) := by
  refine ⟨issues_of mem_fit, named_of mem_fit rfl (by decide), ?_, ?_⟩ <;> decide +kernel

theorem test_meets_Capabilities :
    let o := loadOrder hf.unit 0#3 0#3
    let e := execLanes mx hf.lanes pt
    Issues memHeat hf mx ∧ PredsClean hf mx pt ∧ e ≠ 0#32 ∧ (readOpd mx 0 true 9 1).taint = .clean ∧
    NamedOk memHeat hf mx anyUnit ⟨[], [63], []⟩ e ∧
    (∀ cx, memHeat.ctxOf hf.unit = some cx → (readOpd mx 0 true 9 1).val < cx.capN ∧
      memHeat.vaPlan hf.unit mx ((cx.capRoot + 16 * (readOpd mx 0 true 9 1).val) % 2 ^ 57) 16 false o true =
        { fva := 0, dev := true, loc := some (.dev 0x40000 0#2) }) ∧
    memHeat.devPlan hf.unit mx (mx.creg 0) ((readOpd mx 0 true 6 1).val + (0 : Int)) 16 .l false o true =
      { fva := 0xFFF0, dev := true, loc := some (.dev 0x4FFF0 0#2) } := by
  refine ⟨issues_of mem_fit, preds_pt _ _, mem_some, ?_, named_of mem_fit rfl (by decide), fun cx hc => ?_, ?_⟩
  · decide +kernel
  · have : memHeat.ctxOf hf.unit = some probeCtx := by decide +kernel
    rw [this] at hc
    cases hc
    decide +kernel
  · decide +kernel

/-- CNARROW to the last byte of the capability, every permission kept. -/
theorem test_meets_Capabilities_narrow :
    let s := heatWith [] [(4, 0xFFFF#32), (6, 1#32), (8, 15#32)]
    let x := strandOf s hf
    Issues s hf x ∧ execLanes x hf.lanes pt ≠ 0#32 ∧ (readOpd x 0 true 4 2).taint = .clean ∧
    (readOpd x 0 true 6 2).taint = .clean ∧ (readOpd x 0 true 8 1).taint = .clean ∧ (readOpd x 0 true 8 1).val < 16 ∧
    (x.creg 0).tag = true ∧ (readOpd x 0 true 4 2).val + (readOpd x 0 true 6 2).val ≤ (x.creg 0).len ∧
    NamedOk s hf x {} ⟨[], span 4 2 ++ span 6 2 ++ [8], []⟩ (execLanes x hf.lanes pt) := by
  have h : fit (heatWith [] [(4, 0xFFFF#32), (6, 1#32), (8, 15#32)]) hf = true := by decide +kernel
  refine ⟨issues_of h, ?_, ?_, ?_, ?_, ?_, ?_, ?_, named_of h rfl (by decide)⟩ <;> decide +kernel

/-- Bank 1 with a filled slot and a held one at each end, and bank 3 with nothing filled and nothing free. -/
def fifo : State :=
  withRelay (fun rl => { rl with banks := put (put rl.banks 1 { rl.bank 1 with
      free := 30, filled := 1, prod := 2, heldP := [1], cons := 0, heldC := [31] }) 3 { rl.bank 3 with free := 0 } }) heat
abbrev fx : Strand := strandOf fifo hf
theorem fifo_fit : fit fifo hf = true := by decide +kernel

theorem test_meets_FifoSlots :
    ∃ rl, find fifo.relays 0 = some rl ∧ unitRelay hf.unit = some 0 ∧ Issues fifo hf fx ∧
    execLanes fx hf.lanes pt ≠ 0#32 ∧ NamedOk fifo hf fx {} ⟨[], [63], []⟩ (execLanes fx hf.lanes pt) ∧
    3 < fifo.owned hf.unit ∧ (rl.bank 1).mode = .fifo ∧ (rl.bank 3).mode = .fifo ∧ (rl.bank 1).filled ≠ 0 ∧
    (rl.bank 1).free ≠ 0 ∧ (rl.bank 3).filled = 0 ∧ (rl.bank 3).free = 0 ∧ (rl.bank 1).heldC = 31 :: [] ∧
    (rl.bank 1).heldP = 1 :: [] ∧ rl.dry true 1 (some hf.unit) = false ∧ rl.dry false 1 (some hf.unit) = false ∧
    rl.dry true 3 (some hf.unit) = true ∧ rl.dry false 3 (some hf.unit) = true := by
  refine ⟨(find fifo.relays 0).getD relay0, ?_, rfl, issues_of fifo_fit, ?_, named_of fifo_fit rfl (by decide), ?_⟩
  all_goals decide +kernel

/-- The last bank from FIFO to cache mode, and the query. -/
theorem test_meets_BankModes :
    let s := heatWith [] [(5, 3#32), (6, 0x0#32)]
    let x := strandOf s hf
    ∃ rl, find s.relays 0 = some rl ∧ Issues s hf x ∧ PredsClean hf x pt ∧ execLanes x hf.lanes pt ≠ 0#32 ∧
    (readOpd x 0 true 5 1).taint = .clean ∧ (readOpd x 0 true 5 1).val < s.owned hf.unit ∧
    NamedOk s hf x {} ⟨[], [63, 5, 6], []⟩ (execLanes x hf.lanes pt) ∧ (readOpd x 0 true 6 1).taint = .clean ∧
    bankWord (readOpd x 0 true 6 1).val = some (.cache, 0) ∧ ¬((rl.bank 3).mode = .cache ∧ (rl.bank 3).slot = 0) ∧
    rl.modeCauses (s.fieldD hf.unit 0 scratchPages) 3 .cache 0 = [] ∧ (rl.bank 3).mode = .fifo ∧
    rl.storesAhead hf.unit x 3 = false ∧
    rl.storesAhead hf.unit { x with ops := [{ windowOp none 1#32 [] with late := [.store 0 (.scr (fifoBase + 3 * bankBytes)) 4 0 Order.data (x.lane 0) 0 none] }] } 3 = true := by
  have h : fit (heatWith [] [(5, 3#32), (6, 0x0#32)]) hf = true := by decide +kernel
  refine ⟨(find (heatWith [] [(5, 3#32), (6, 0x0#32)]).relays 0).getD relay0, ?_, issues_of h, preds_pt _ _, ?_, ?_, ?_,
    named_of h rfl (by decide), ?_⟩
  all_goals decide +kernel

theorem test_meets_PagePins :
    let s := heatWith [] [(4, 1#32), (5, 1#32)]
    let x := strandOf s hf
    ∃ rl, find s.relays 0 = some rl ∧ Issues s hf x ∧ PredsClean hf x pt ∧ execLanes x hf.lanes pt ≠ 0#32 ∧
    (readOpd x 0 true 4 1).taint = .clean ∧ (readOpd x 0 true 5 1).taint = .clean ∧ (readOpd x 0 true 5 1).val ≠ 0 ∧
    (readOpd x 0 true 4 1).val + (readOpd x 0 true 5 1).val ≤ s.fieldD hf.unit 0 scratchPages ∧
    pinOk (s.fieldD hf.unit 0 scratchPages) rl.sbanks
      (rl.pinned + ((span 1 1).filter fun n => !(rl.page n).pinned).length) = true ∧
    NamedOk s hf x {} ⟨[], [4, 5], []⟩ (execLanes x hf.lanes pt) := by
  have h : fit (heatWith [] [(4, 1#32), (5, 1#32)]) hf = true := by decide +kernel
  refine ⟨(find (heatWith [] [(4, 1#32), (5, 1#32)]).relays 0).getD relay0, ?_, issues_of h, preds_pt _ _, ?_, ?_, ?_, ?_, ?_, ?_,
    named_of h rfl (by decide)⟩
  all_goals decide +kernel

/-- BAR, BARA, BARW and RBAR on the last barrier; RDV of a heat and of the pacer under the last tag. -/
theorem test_meets_BarriersAndRendezvous :
    (Issues heat hf hx ∧ hf.handler = none ∧ (imm 0 0 15).imm.toNat < 16 ∧
      (imm 0 0 15).imm.toNat < heat.fieldD hf.unit 0 hdrBarriers ∧ NamedOk heat hf hx heatOnly ⟨[], [], []⟩ (execLanes hx hf.lanes pt)) ∧
    (∃ rl, find pacer.relays 0 = some rl ∧ Issues pacer pf px ∧ execLanes px pf.lanes pt ≠ 0#32 ∧ pacer.mqCause pf = [] ∧
      NamedOk pacer pf px {} ⟨[], [], []⟩ (execLanes px pf.lanes pt) ∧ rl.rdvTag = none) ∧
    (let s := focused hf pacer
     ∃ rl, find s.relays 0 = some rl ∧ Issues s hf (strandOf s hf) ∧ rl.pacerState ≠ .idle ∧ rl.pacerState ≠ .draining ∧
      rl.rdvTag = none ∧ s.mqCause hf = [] ∧ (imm 0 0 255).imm.toNat ≤ 255) ∧
    (let s := focused hf (withRelay (fun rl => { rl with rdvTag := some 3 }) pacer)
     ∃ rl, find s.relays 0 = some rl ∧ Issues s hf (strandOf s hf) ∧ rl.rdvTag = some 3 ∧ 3 ≠ (imm 0 0 255).imm.toNat ∧
      (strandOf s hf).g = 0#3 ∧ s.mqCause hf = [] ∧ execLanes (strandOf s hf) hf.lanes pt ≠ 0#32) := by
  refine ⟨⟨issues_of heat_fit, rfl, by decide, by decide +kernel, named_of heat_fit rfl (by decide)⟩,
    ⟨(find pacer.relays 0).getD relay0, ?_, issues_of pacer_fit, ?_, ?_, named_of pacer_fit rfl (by decide), ?_⟩,
    ⟨(find pacer.relays 0).getD relay0, ?_, issues_of (by decide +kernel), ?_, ?_, ?_, ?_, by decide⟩,
    { (find pacer.relays 0).getD relay0 with rdvTag := some 3 }, ?_, issues_of (by decide +kernel), ?_, by decide, ?_, ?_, ?_⟩
  all_goals decide +kernel

/-- A phase that is done and one that is not; a rendezvous that is done and one that is not. -/
theorem test_meets_JointCompletion :
    let all (f : Lane → Lane) (rl : Relay) : Relay :=
      { rl with heats := rl.heats.map fun e => (e.1, e.2.mapLanes laneIds fun _ l => f l) }
    relay0.phaseDone (.squad 0 15) = false ∧ (all (fun l => { l with arrived := 1#16 <<< 15 }) relay0).phaseDone (.squad 0 15) = true ∧
    relay0.rdvDone = false ∧ (find relay0.heats 0).isSome = true ∧
    (all (fun l => l.heldAt (.rdv 255)) { relay0 with
      rdvTag := some 255, pacerState := .atRdv,
      pacer := some (strandStart [(0, (laneStart 0).heldAt (.rdv 255))] [] []) }).rdvDone = true := by decide +kernel

theorem test_meets_ForkStartsThePacer :
    let s := heatWith [] [(2, 7#32)]
    let x := strandOf s hf
    ∃ rl p, find s.relays 0 = some rl ∧ rl.pacer = some p ∧ rl.pacerState = .idle ∧ Issues s hf x ∧ hf.handler = none ∧
    execLanes x hf.lanes pt ≠ 0#32 ∧ (imm 0 56 8).imm.toNat ≤ 8 ∧ 56 + 8 ≤ 64 ∧ 8 ≤ s.fieldD hf.unit 0 hdrPSregs ∧
    s.fieldD hf.unit false hdrHasPacer = true ∧ NamedOk s hf x { pacer := false } ⟨[], span 56 8, []⟩ (execLanes x hf.lanes pt) := by
  have h : fit (heatWith [] [(2, 7#32)]) hf = true := by decide +kernel
  refine ⟨(find (heatWith [] [(2, 7#32)]).relays 0).getD relay0,
    ((find (heatWith [] [(2, 7#32)]).relays 0).bind fun rl => rl.pacer).getD (strandStart [] [] []), ?_, ?_, ?_, issues_of h, rfl,
    ?_, by decide, by decide, ?_, ?_, named_of h rfl (by decide)⟩
  all_goals decide +kernel

theorem test_meets_FaultingLanesPark :
    let o : Nat → LaneOut := fun i => { laneFaults [0x22, 0x21] with replay := false, fva := i }
    Issues heat hf hx ∧ hf.handler = none ∧ isWarm hf.unit = false ∧ hx.g = 0#3 ∧ hx.ops = [] ∧
    (∀ i, (5#32).getLsbD i = true → hf.lanes.getLsbD i = true) ∧ pickCause (o 2).causes = some 0x21 ∧
    heat.coreOf hf.unit = some 0 ∧ 3 ≤ ((List.range 256).filter fun n => !(heat.usedFids 0).contains n).length := by
  refine ⟨issues_of heat_fit, rfl, rfl, ?_, ?_, lanes_of ?_, ?_, ?_, ?_⟩
  all_goals decide +kernel

/-- TRAP, BKPT with DBGEN set, and the handler's words outside a handler; BKPT with DBGEN clear. -/
theorem test_meets_TrapsAndHandlerOnly :
    (Issues heat hf hx ∧ hf.handler = none ∧ hx.g = 0#3 ∧ hx.ops = [] ∧ heat.allocFid hf.unit < 0x100 ∧
      find hx.frags (heat.allocFid hf.unit) = none ∧ execLanes hx hf.lanes pt ≠ 0#32 ∧
      NamedOk heat hf hx {} ⟨[], [], []⟩ (execLanes hx hf.lanes pt) ∧ NamedOk heat hf hx {} ⟨[255, 254], [63], []⟩ (execLanes hx hf.lanes pt) ∧
      ∀ cx, heat.ctxOf hf.unit = some cx → cx.dbgEn = false) ∧
    (let s : State := { heat with ctxs := [(0, { probeCtx with dbgEn := true })] }
     Issues s hf (strandOf s hf) ∧ ∃ cx, s.ctxOf hf.unit = some cx ∧ cx.dbgEn = true) := by
  have hc : heat.ctxOf hf.unit = some probeCtx := by decide +kernel
  refine ⟨⟨issues_of heat_fit, rfl, ?_, ?_, ?_, ?_, heat_some, named_of heat_fit rfl (by decide),
    named_of heat_fit rfl (by decide), fun cx h => ?cl⟩, issues_of (by decide +kernel), { probeCtx with dbgEn := true }, ?_, rfl⟩
  case cl =>
    rw [hc] at h
    cases h
    rfl
  all_goals decide +kernel

/-- Lane 3 in the handler of its fragment, entry 5, and one lane beside it in the same fragment. -/
def gf : Focus := ⟨.heat 0 0 0, 8#32, some 5⟩
def frag5 : Frag := ⟨0#4, false, false, 0x22#7, .handler 32#32 3, 0, 0#32⟩
def handling (s : State) : State :=
  focused gf (s.modStrand hf.unit fun x =>
    { (x.mapLanes [3, 4] fun _ l => { l with ls := .parked, frag := some 5, own := 0x22#7 }) with frags := [(5, frag5)] })
def inHandler : State := handling (heatWith [(4, 0x12345678#32)] [(1, 31#32), (2, 4#32)])
abbrev gx : Strand := strandOf inHandler gf
theorem handler_fit : fit inHandler gf = true := by decide +kernel
theorem handler_one : execLanes gx gf.lanes pt = 8#32 := by decide +kernel

theorem test_meets_HandlerEnds :
    Issues inHandler gf gx ∧ gf.handler = some 5 ∧ execLanes gx gf.lanes pt ≠ 0#32 ∧
    NamedOk inHandler gf gx {} ⟨[], [], []⟩ (execLanes gx gf.lanes pt) :=
  ⟨issues_of handler_fit, rfl, by rw [handler_one]; decide, named_of handler_fit rfl (by decide)⟩

theorem test_meets_HandlerEscalates :
    Issues inHandler gf gx ∧ gf.handler = some 5 ∧ find gx.frags 5 = some frag5 ∧ execLanes gx gf.lanes pt ≠ 0#32 ∧
    NamedOk inHandler gf gx heatOnly ⟨[], [], []⟩ (execLanes gx gf.lanes pt) ∧ (imm 0 0 0).imm = 0#29 ∧ (imm 0 0 0).a = 0#8 :=
  ⟨issues_of handler_fit, rfl, by decide +kernel, by rw [handler_one]; decide, named_of handler_fit rfl (by decide), rfl, rfl⟩

theorem test_meets_HandlerCounter :
    Issues inHandler gf gx ∧ gf.handler = some 5 ∧ find gx.frags 5 = some frag5 ∧ frag5.phase = .handler 32#32 3 ∧
    lowest gf.lanes = some 3 ∧ (gx.lane 3).held = none ∧ NamedOk inHandler gf gx {} ⟨[], [], []⟩ (execLanes gx gf.lanes pt) ∧
    gx.g = 0#3 ∧ (∀ i, gf.lanes.getLsbD i = true → (gx.lane i).predTaint pt = .clean) ∧ inHandler.codeW gf.unit = 64 ∧
    (0 : Int) ≤ ((32#32 : Word32).toNat : Int) + (31#29 : BitVec 29).toInt ∧
    ((32#32 : Word32).toNat : Int) + (31#29 : BitVec 29).toInt < 64 := by
  refine ⟨issues_of handler_fit, rfl, ?_, rfl, by decide, ?_, named_of handler_fit rfl (by decide), ?_, lanes_of ?_, ?_,
    by decide, by decide⟩
  all_goals decide +kernel

/-- XRV of lane 31, every selector; XWV of a register, a predicate and LPC of lane 4, and its exit. -/
theorem test_meets_HandlerReach :
    (Issues inHandler gf gx ∧ gf.handler.isSome = true ∧ laneCauses gf (gx.sreg 1).val.toNat = [] ∧
      (∀ n ∈ [⟨[255], [], []⟩, ⟨[], [], [11]⟩, ⟨[], [], []⟩],
        namedCauses inHandler gf.unit gx (gx.sreg 1).val.toNat n = []) ∧
      NamedOk inHandler gf gx {} ⟨span 254 2, [1], []⟩ (execLanes gx gf.lanes pt) ∧
      ∀ o ∈ [windowOp (some 5) 0x80000000#32 []], o.opens (1#32 <<< 31) = true ∧ o.handler = gf.handler) ∧
    (gf.handler = some 5 ∧ lanesOf (execLanes gx gf.lanes pt) = [3] ∧ (gx.sreg 2).val.toNat = 4 ∧ laneCauses gf 4 = [] ∧
      NamedOk inHandler gf gx {} ⟨[4], [2], []⟩ (execLanes gx gf.lanes pt) ∧
      (∀ n ∈ [⟨[255], [], []⟩, ⟨[], [], [11]⟩, ⟨[], [], []⟩], namedCauses inHandler gf.unit gx 4 n = []) ∧
      (gx.lane 4).ls ≠ .exited ∧ (gx.lane 4).frag = some 5 ∧
      (((gx.lane 3).reg 4).taint.join (gx.sreg 2).taint).join ((gx.lane 3).predTaint pt) = .clean ∧ frag5.bound = false ∧
      find gx.frags 5 = some frag5) := by
  refine ⟨⟨issues_of handler_fit, rfl, ?_, ?_, named_of handler_fit rfl (by decide), ?_⟩, rfl, ?_, ?_, by decide,
    named_of handler_fit rfl (by decide), ?_⟩
  all_goals decide +kernel

theorem test_meets_SlotWrites :
    Issues heat hf hx ∧ execLanes hx hf.lanes pt ≠ 0#32 ∧ (readOpd hx 0 true 62 2).taint = .clean ∧
    (reg 3 62 0 0 0).d.toNat < 4 ∧ NamedOk heat hf hx {} ⟨[], span 62 2, []⟩ (execLanes hx hf.lanes pt) ∧ (3#8 : Byte).toNat < 4 :=
  ⟨issues_of heat_fit, heat_some, by decide +kernel, by decide, named_of heat_fit rfl (by decide), by decide⟩

/-- Slots for 16 rows of 128 bytes, 128 apart on both sides. -/
def slots (k0 k1 k3 : Word64) : AMap KSlot :=
  [(0, ⟨k0, .clean⟩), (1, ⟨k1, .clean⟩), (2, ⟨0x0100080000200008#64, .clean⟩), (3, ⟨k3, .clean⟩)]
def placing (k : AMap KSlot) (s : State) : State :=
  s.modStrand hf.unit fun x => { x with k := k, kset := true }

/-- A tensor of R186. -/
def tens (fmt loc rows cols stride : Nat) : Tensor :=
  ⟨BitVec.ofNat 256 (2 ^ 64 * stride + 2 ^ 96 * cols + 2 ^ 112 * rows + 2 ^ 192 * fmt + 2 ^ 196 * loc + 2 ^ 207), capNull⟩

/-- A copy from device memory to scratch by queue 0, one into the B store by queue 7, a gather of the same rows by queue 8,
and a collective by queue 9. -/
theorem test_meets_CommandPlacement :
    ∀ row ∈ [(0, slots 0#64 0x1000000000000000#64 0xF800#64),
        (7, put (slots 0#64 0x3000000000000007#64 0#64) 2 ⟨0x0800040000200008#64, .clean⟩),
        (8, slots 0#64 0x1000000000000000#64 0x080000000800#64),
        (9, slots 0#64 0x1000000000000000#64 0x0000#64)],
      let s := placing row.2 { heat with ctxs := [(0, { probeCtx with tensors := [(7, tens 0 3 64 128 0)] })] }
      let u := hf.unit
      let x := strandOf s hf
      let kv (i : Nat) : Nat := (x.kslot i).val.toNat
      let rows := if bits (kv 2) 63 52 = 0 then 4096 else bits (kv 2) 63 52
      let rb := if bits (kv 2) 51 36 = 0 then 65536 else bits (kv 2) 51 36
      let src := s.side u x (kv 0) rows rb (16 * bits (kv 2) 35 18) (bits (kv 3) 5 3) true (row.1 = 8)
      let dst := s.side u x (kv 1) rows rb (16 * bits (kv 2) 17 0) (bits (kv 3) 5 3) false false
      let aux := bits (kv 3) 63 40
      fit s hf = true ∧ execLanes x hf.lanes pt ≠ 0#32 ∧ x.kset = true ∧ row.1 ≤ 9 ∧
      (∀ i, i < 32 → (x.lane i).predTaint pt = .clean) ∧ (match dst.place with
        | .bstore _ => decide (row.1 = 7)
        | _ => decide (row.1 ≠ 7)) = true ∧
      (∀ i, i < 4 → (x.kslot i).taint = .clean) ∧ rb % 16 = 0 ∧ bits (kv 3) 39 16 = 0 ∧ bits (kv 3) 1 0 = 0 ∧
      (row.1 ≠ 9 → bit (kv 3) 2 = false) ∧ (row.1 < 8 → aux = 0) ∧ (8 ≤ row.1 → bits (kv 0) 63 60 ≠ 2) ∧
      (row.1 = 8 → aux % 8 = 0 ∧ aux / 2 + 4 * rows ≤ s.fieldD u 0 scratchRounded) ∧ src.causes = [] ∧ dst.causes = [] ∧
      s.commandRoom u = true ∧ cqgoReserved row.1 = false := by decide +kernel

/-- A command that moves one unit within the scratch, counted by nothing. -/
def oneUnit : Command :=
  { src := .scratch 0, dst := .scratch 0, rows := 1, rowBytes := 16, sstride := 0, dstride := 0, sswz := 0, swz := 0, sscale := none,
    dscale := none, idxOff := 0, cgrp := 0, cop := 0, cfmt := 0, ctrap := false, cnt := none, guard := none, squad := some 0,
    group := [], done := 0, row := 0, srcHeld := [], dstHeld := [], srcBack := 0, dstBack := 0, got := [], result := none,
    ruled := none, aborted := none }

/-- With 1024 commands of the core placed there is no room. -/
theorem test_meets_CommandPlacement_full :
    let s := withRelay (fun rl => rl.setQueue 0 { rl.queue 0 with items := (List.range 1024).map fun _ => .command oneUnit })
      (placing (slots 0#64 0x1000000000000000#64 0#64) heat)
    fit s hf = true ∧ s.commandRoom hf.unit = false := by decide +kernel

/-- CWAIT reached and not reached on counter 15; MWAIT with no group open and with one. -/
def waiting : State := withRelay (fun rl => { rl with counters := [(15, 5#64)], groups := [(1, 1)] }) pacer
theorem test_meets_CounterWaits :
    let s := pacerWith [(62, 5#32)] waiting
    let t := pacerWith [(62, 6#32)] waiting
    (∃ rl, find s.relays 0 = some rl ∧ fit s pf = true ∧ (readOpd (strandOf s pf) 0 true 62 2).val ≤ bits (rl.counter 15).toNat 47 0 ∧
      bit (rl.counter 15).toNat 63 = false ∧ (readOpd (strandOf s pf) 0 true 62 2).val < 2 ^ 48 ∧ rl.groups.length ≤ 1 ∧
      0 < rl.groups.length ∧ s.mqCause pf = [] ∧ execLanes (strandOf s pf) pf.lanes pt ≠ 0#32) ∧
    (∃ rl, find t.relays 0 = some rl ∧ fit t pf = true ∧ ¬(readOpd (strandOf t pf) 0 true 62 2).val ≤ bits (rl.counter 15).toNat 47 0) := by
  refine ⟨⟨(find (pacerWith [(62, 5#32)] waiting).relays 0).getD relay0, ?_⟩,
    (find (pacerWith [(62, 6#32)] waiting).relays 0).getD relay0, ?_⟩ <;> decide +kernel

/-- GSET of guard 15 to each state; QFENCE of all queues, idle and with work. -/
theorem test_meets_GuardsAndFences :
    let s := heatWith [] [(2, 15#32)]
    let b := withRelay (fun rl => rl.setQueue 9 { rl.queue 9 with items := [.command oneUnit] }) s
    fit s hf = true ∧ (∀ i, i < 32 → ((strandOf s hf).lane i).predTaint pt = .clean) ∧ (strandOf s hf).sreg 2 = ⟨15#32, .clean⟩ ∧ execLanes (strandOf s hf) hf.lanes pt ≠ 0#32 ∧
    (imm 0 2 2).imm.toNat ≤ 2 ∧ (imm 0 0 2047).imm.toNat < 2048 ∧
    ((find s.relays 0).map fun rl => (rl.queues, rl.mq)) = some ([], []) ∧ fit b hf = true ∧
    ((find b.relays 0).map fun rl => ((rl.queue 9).items, rl.mq)) = some ([.command oneUnit], []) := by decide +kernel

theorem test_meets_MatrixWords_mzero :
    (∃ rl, find pacer.relays 0 = some rl ∧ Issues pacer pf px ∧ PredsClean pf px pt ∧ pacer.mqCause pf = [] ∧ execLanes px pf.lanes pt ≠ 0#32 ∧
      NamedOk pacer pf px pacerOnly ⟨[], [63], []⟩ (execLanes px pf.lanes pt) ∧ (31#8 : Byte).toNat < 32 ∧ mentries rl < 64 ∧
      rl.groups.length < 64) ∧
    (let e : MEntry := ⟨.mzero 0, some 1, 0, 0, false, [], []⟩
     let s := withRelay (fun rl => { rl with
       mq := (List.range 64).map fun _ => .entry e, groups := (List.range 64).map fun i => (i, 1) }) pacer
     ∃ rl, find s.relays 0 = some rl ∧ fit s pf = true ∧ 64 ≤ mentries rl ∧ 64 ≤ rl.groups.length) := by
  refine ⟨⟨(find pacer.relays 0).getD relay0, ?_, issues_of pacer_fit, preds_pt _ _, ?_, ?_, named_of pacer_fit rfl (by decide), ?_⟩,
    (find (withRelay (fun rl => { rl with
       mq := (List.range 64).map fun _ => .entry ⟨.mzero 0, some 1, 0, 0, false, [], []⟩,
       groups := (List.range 64).map fun i => (i, 1) }) pacer).relays 0).getD relay0, ?_⟩
  all_goals decide +kernel

/-- MLDA and MSTORE of F32 accumulators, MMA of E4M3 with K = 32, at their last ACC. -/
theorem test_meets_MatrixWords_tensors :
    let s := pacerWith [(2, 32#32)] { pacer with ctxs := [(0, { probeCtx with
      tensors := [(2, tens 6 1 128 128 512), (3, tens 0 1 128 64 64), (7, tens 0 3 64 128 0)] })] }
    let x := strandOf s pf
    fit s pf = true ∧ (∀ i, i < 32 → (x.lane i).predTaint pt = .clean) ∧ (x.sreg 2).taint = .clean ∧ s.mqCause pf = [] ∧ mldaCauses (s.tensor pf.unit 2) = [] ∧
    mstoreCauses (s.tensor pf.unit 2) = [] ∧ mmaCauses (s.tensor pf.unit 3) (s.tensor pf.unit 7) (x.sreg 2).val.toNat = [] ∧
    unitCauses pf.unit pacerOnly = [] ∧ beyondHeader 256 64 ⟨[], [2], []⟩ = false := by decide +kernel

/-- TDESC of a scratch tensor from S58 to S63 and of one in device memory, and TINV. -/
theorem test_meets_TensorTable :
    let s := heatWith [] [(60, 64#32), (61, 0x00800040#32)]
    let x := strandOf s hf
    fit s hf = true ∧ (s.fieldOf hf.unit).isSome = true ∧ execLanes x hf.lanes pt ≠ 0#32 ∧
    (∀ k, k < 6 → (x.sreg (58 + k)).taint = .clean) ∧ (∀ i, i < 32 → (x.lane i).predTaint pt = .clean) ∧
    beyondHeader 256 64 ⟨[], span 58 6, []⟩ = false ∧
    ∀ hi ∈ [0x10, 0x00], (
      let w (k : Nat) : Nat := (x.sreg (58 + k)).val.toNat
      let b := w 4 + 2 ^ 32 * w 5 + 2 ^ 64 * w 2 + 2 ^ 96 * w 3 + 2 ^ 128 * w 0 + 2 ^ 160 * w 1 + 2 ^ 192 * hi
      let t : Tensor := ⟨BitVec.ofNat 256 (b + 2 ^ 207), if bits b 197 196 = 0 then x.creg (bits b 203 200) else capNull⟩
      bit b 207 = false ∧ t.writeCauses = []) := by decide +kernel

/-- SRD of a flag register and of a counter, per lane and uniform; SWR of the last counter, of MRETRY by the pacer, and of a
warm-up's parameter and FDIMX. -/
theorem test_meets_SpecialRegisters :
    (fit heat hf = true ∧ flagSr 0x10 = true ∧ hx.ops = [] ∧ heat.srCauses hf.unit 0x10 = [] ∧ heat.srCauses hf.unit 0x3F = [] ∧
      (find heat.relays 0).isSome = true ∧ (find heat.fields 0).isSome = true ∧ unitCauses hf.unit anyUnit = [] ∧
      beyondHeader 256 64 ⟨span 254 2, span 62 2, []⟩ = false ∧ (readOpd hx 0 true 62 2).taint = .clean ∧
      (∀ i, i < 32 → (hx.lane i).predTaint pt = .clean) ∧ isHeat hf.unit = true ∧ execLanes hx hf.lanes pt ≠ 0#32) ∧
    (fit pacer pf = true ∧ isHeat pf.unit = false ∧ (readOpd px 0 true 4 1).taint = .clean ∧ execLanes px pf.lanes pt ≠ 0#32 ∧
      (px.lane 0).predTaint pt = .clean) ∧
    (let s := warm.modStrand wf.unit fun x => x.setSreg 4 ⟨1#32, .clean⟩
     let x := strandOf s wf
     fit s wf = true ∧ (find s.warms 0).isSome = true ∧ unitCauses wf.unit { warm := true } = [] ∧ (x.sreg 4) = ⟨1#32, .clean⟩ ∧
      execLanes x wf.lanes pt ≠ 0#32 ∧ (x.lane 0).predTaint pt = .clean ∧
      ((find s.warms 0).map fun w => w.proto.dimX) = some 1 ∧ (0x80000001 : Nat) % 2 ^ 31 = 1) := by decide +kernel

/-! ### Power, start, hosts -/

theorem test_meets_PowerWords :
    let s := heatWith [] [(5, 4#32), (6, 1#32), (7, 3#32), (8, 0x810001FF#32), (9, 7#32), (10, 5#32)]
    let x := strandOf s hf
    let n (i : Nat) : Nat := (x.sreg i).val.toNat
    fit s hf = true ∧ execLanes x hf.lanes pt ≠ 0#32 ∧ (∀ i, i < 32 → (x.lane i).predTaint pt = .clean) ∧
    (∀ i, i < 16 → (x.sreg i).taint = .clean) ∧ n 5 ≤ 4 ∧ n 6 ≠ 0 ∧ n 7 ≤ 3 ∧
    n 9 ≤ 7 ∧ n 7 < 4 ∧ n 10 = 5 ∧ beyondHeader 256 64 ⟨[], span 62 2 ++ [5, 6, 7, 8, 9, 10], []⟩ = false ∧
    2 ^ 31 + 2 ^ 24 * kindNum .link + 17 < 2 ^ 32 ∧ 17 < kindCount .link ∧ s.fieldD hf.unit false (fun f => f.priv) = true := by
  decide +kernel

/-- A record whose copies both check: the one a new unit is given. -/
theorem test_meets_ResetAndStart :
    let p : WearPair := ⟨wearNew .link 17, { wearNew .link 17 with seq := 0#32 }⟩
    let s : State := { State.reset with wear := [(wearKey .link 17, p)] }
    17 < kindCount .link ∧ find s.wear (wearKey .link 17) = some p ∧ p.a.checks .link 17 = true ∧ p.b.checks .link 17 = true ∧
    State.reset.dev.startState = 0 ∧ bits (7#64 : Word64).toNat 31 3 = 0 ∧ bits (8#64 : Word64).toNat 31 3 ≠ 0 := by
  decide +kernel

theorem test_meets_QueueControl :
    let s : State := { base with queues := [(0, { probeQueue with resetting := true })] }
    queuePort (bits (0x100000000#64 : Word64).toNat 14 0) = .p0 ∧ find base.queues 0 = some probeQueue ∧
    (base.port .p0).iface ≠ .error ∧ queuePort (bits (0x4000#64 : Word64).toNat 14 0) ≠ .p0 ∧
    bits (0x10000000#32 : Word32).toNat 31 30 = 0 ∧ bits (0x20008000#32 : Word32).toNat 31 30 = 0 ∧
    bits (0x10000000#32 : Word32).toNat 29 28 = 1 ∧ bits (0x20008000#32 : Word32).toNat 29 28 = 2 ∧
    bits (0x20008000#32 : Word32).toNat 14 0 = 0 ∧ (find s.queues 0).map (fun q => q.resetting) = some true ∧
    bits (0x100000000#64 : Word64).toNat 31 15 = 0 ∧ bits (0x100008000#64 : Word64).toNat 31 15 ≠ 0 ∧
    queuePort (bits (0x100008000#64 : Word64).toNat 14 0) = .p0 ∧ ({ base with relays := [] } : State).relays = [] := by decide +kernel

/-- Port 0 with a command submitted, after the start. -/
def host (cmds : List (Nat × Word64)) (s : State) : State :=
  { s with dev := { s.dev with startState := 3 }, port0 := { portInit with hcmd := cmds, done := false } }

theorem command_of {s : State} {p : Port} {op : Nat} {fs : List (List (Nat × Nat))} {c : Bool}
    (h : decide ((s.port p).done = false ∧ (s.port p).performed = false ∧ (s.port p).op = op ∧ (s.port p).iface ≠ .error ∧
      s.dev.startState = 3 ∧ (s.port p).cmdClean fs = true ∧ (c && s.foreign p (s.port p).cmdCtx) = false) = true) :
    CommandOk s p op fs c := by
  have := of_decide_eq_true h
  exact ⟨⟨this.1, this.2.1, this.2.2.1⟩, this.2.2.2.1, this.2.2.2.2.1, this.2.2.2.2.2.1, this.2.2.2.2.2.2⟩

/-- Every host command in ERROR, and before the start. -/
theorem test_meets_HostCommands_refused : ∀ op, op ≤ 10 → 1 ≤ op →
    let s : State := { (host [(0, BitVec.ofNat 64 op)] base) with dev := base.dev }
    Submitted s .p0 op ∧ (s.port .p0).iface ≠ .error ∧ s.dev.startState ≠ 3 ∧
    (let t := s.modPort .p0 fun ps => { ps with iface := .error }
     Submitted t .p0 op ∧ (t.port .p0).iface = .error) := by
  unfold Submitted
  decide +kernel

theorem test_meets_CtxCreate :
    let s := host [(0, 0x00050001#64), (1, 0x20000#64), (2, 0x10#64), (3, 0xFFFF#64)] base
    CommandOk s .p0 1 [[(47, 12)], [(56, 0)], [(15, 0)]] true ∧ find s.ctxs 5 = none ∧ (s.port .p0).cmdCtx = 5 ∧
    (s.frame ((s.port .p0).cmd 1 / 65536)).owner = .host .p0 ∧ (s.port .p0).cmd 2 % 16 = 0 ∧ (s.port .p0).cmd 3 ≠ 0 :=
  ⟨command_of (by decide +kernel), by decide +kernel⟩

/-- CTX_END of a context with a queue and of one without; TLB_INVAL of the same context. -/
theorem test_meets_CtxEnd :
    let s := host [(0, 2#64)] base
    let t : State := { s with queues := [] }
    let i := host [(0, 9#64), (1, 0#64), (2, 0x1000#64)] base
    CommandOk s .p0 2 [] true ∧ CommandOk t .p0 2 [] true ∧ CommandOk i .p0 9 [[(56, 0)], [(56, 0)]] true ∧
    (find s.ctxs 0).isSome = true ∧ s.queuesOf 0 ≠ [] ∧ t.queuesOf 0 = [] :=
  ⟨command_of (by decide +kernel), command_of (by decide +kernel), command_of (by decide +kernel), by decide +kernel⟩

/-- The page at virtual address 0 as a capability page with a capability in its table's entry 0. -/
def capState : State :=
  ((base.writeMem 0x20000 8 0x4001B).writeMem 0x40000 16 cap0.data.toNat).setTag 0x40000 true

theorem test_meets_QCreate :
    let s := host [(0, 3#64), (1, 0x1800000000000000#64), (2, 0x55000000#64), (3, 1#64)] capState
    let q0 := (s.port .p0).cmd 1
    let q1 := (s.port .p0).cmd 2
    s.entryBusy 0 (bits ((s.port .p0).cmd 2) 47 32) = false ∧
    CommandOk s .p0 3 [[(63, 0)], [(63, 0)], [(14, 0)]] false ∧ queuePort ((s.port .p0).cmd 3) = .p0 ∧ bit q1 21 = false ∧
    find s.ctxs (bits q1 14 0) = some probeCtx ∧ queueOk q0 q1 = true ∧ bits q1 47 32 < probeCtx.capN ∧
    find s.queues ((s.port .p0).cmd 3) = none ∧
    frontCauses (s.entryNow 0 0) (bits q0 56 0) (2 ^ bits q0 61 57) [.r, .w] = [] :=
  ⟨by decide +kernel, command_of (by decide +kernel), by decide +kernel⟩

theorem test_meets_QDestroy :
    let s := host [(0, 4#64), (1, 0#64)] { base with queues := [(0, { probeQueue with resetDone := true })] }
    CommandOk s .p0 4 [[(14, 0)]] false ∧ queuePort ((s.port .p0).cmd 1) = .p0 ∧
    (find s.queues 0).map (fun q => (q.resetDone, q.resetting)) = some (true, false) :=
  ⟨command_of (by decide +kernel), by decide +kernel⟩

theorem test_meets_CapSet :
    let s := host [(0, 8#64), (1, 0#64), (2, 0#64), (3, 0x0200000000010000#64)] capState
    CommandOk s .p0 8 [[(15, 0)], [(63, 0)], [(63, 0)]] true ∧ find s.ctxs (s.port .p0).cmdCtx = some probeCtx ∧
    (s.port .p0).cmd 1 < probeCtx.capN ∧
    s.walk 0 probeCtx 0 = .leaf ⟨0, 0, 0x10000, 0x40000, true, true, 0#2⟩ ∧ s.beingZeroed 0x40000 = false :=
  ⟨command_of (by decide +kernel), by decide +kernel⟩

/-- CGRP_SET with one participant, its list in a frame of the host, and with none. -/
theorem test_meets_CgrpSet :
    let s := host [(0, 10#64), (1, 0x0001FFFF#64), (2, 0x1F000#64)] base
    let t := host [(0, 10#64), (1, 0xFFFF#64)] base
    CommandOk s .p0 10 [[(15, 0), (28, 16)], [(47, 0)]] true ∧ CommandOk t .p0 10 [[(15, 0), (28, 16)], [(47, 0)]] true ∧
    find s.ctxs (s.port .p0).cmdCtx = some probeCtx ∧ bits ((s.port .p0).cmd 1) 28 16 = 1 ∧ bits ((t.port .p0).cmd 1) 28 16 = 0 ∧
    (s.port .p0).cmd 2 % 8 = 0 ∧ listOk [s.readMem 0x1F000 8] = true ∧ (s.frame (0x1F000 / 65536)).owner = .host .p0 ∧ s.beingZeroed 0x1F000 = false :=
  ⟨command_of (by decide +kernel), command_of (by decide +kernel), by decide +kernel⟩

theorem test_meets_HostCommandDone :
    let s := (host [(0, 3#64)] base).modPort .p0 fun ps => { ps with performed := true }
    (s.port .p0).done = false ∧ (s.port .p0).performed = true ∧ (s.port .p0).op ≠ 9 := by decide +kernel

/-- One frame beyond those in use given to context 0 and to the port; the frame of context 0 taken back; a quarantined frame
scrubbed. -/
theorem test_meets_FrameCommands :
    let s := host [(0, 5#64), (1, 0x80000#64), (2, 1#64)] base
    let p := host [(0, 0x7FFF0005#64), (1, 0x80000#64), (2, 1#64)] base
    let r := host [(0, 6#64), (1, 0x40000#64), (2, 1#64)] base
    let q := host [(0, 7#64), (1, 0x80000#64), (2, 1#64)] (base.setFrame 8 { frameInit with quarantined := true })
    CommandOk s .p0 5 [[(47, 16)], [(33, 0)]] true ∧ CommandOk p .p0 5 [[(47, 16)], [(33, 0)]] true ∧
    CommandOk r .p0 6 [[(47, 16)], [(31, 0)]] true ∧ CommandOk q .p0 7 [[(47, 16)], [(31, 0)]] true ∧
    (find s.ctxs (s.port .p0).cmdCtx).isSome = true ∧ (p.port .p0).cmdCtx = 0x7FFF ∧ s.framesNamed (s.port .p0) = true ∧
    (s.port .p0).frameList = [8] ∧ (s.frame 8).owner = .none ∧ (s.frame 8).quarantined = false ∧ r.framesNamed (r.port .p0) = true ∧
    (r.port .p0).frameList = [4] ∧ (r.frame 4).owner = ownerOf .p0 (r.port .p0).cmdCtx ∧ (r.frame 4).quarantined = false ∧
    q.framesNamed (q.port .p0) = true ∧ (q.port .p0).frameList = [8] ∧ (q.frame 8).quarantined = true :=
  ⟨command_of (by decide +kernel), command_of (by decide +kernel), command_of (by decide +kernel), command_of (by decide +kernel),
    by decide +kernel⟩

theorem test_meets_HostRegisters :
    let r := base.modPort .p0 fun ps => { ps with iface := .run }
    (base.port .p0).frozen = false ∧ (r.port .p0).frozen = true ∧ bits (0x10000#32 : Word32).toNat 31 19 = 0 ∧
    bit (0x10000#32 : Word32).toNat 15 = false ∧ find base.ctxs 0 = some probeCtx ∧ 0 ∈ base.queuesOf 0 ∧ queuePort 0 = .p0 ∧
    (base.port .p0).done = true ∧ ((host [] base).port .p0).done = false ∧ lockFreezes (.config 63) = true ∧
    lockFreezes .flogr = false := by decide +kernel

theorem test_meets_InterfacesAndAttestation :
    (∀ i, i < 16 → base.beingZeroed (0xFFFF8 + i) = false) ∧
    (∀ f ∈ [Iface.locked, .run, .error, .unlocked], ((base.modPort .p0 fun ps => { ps with iface := f, sessions := 1 }).port .p0).iface = f) ∧
    (base.port .p0).sessions = 0 ∧ ((base.modPort .p0 fun ps => { ps with sessions := 1 }).port .p0).sessions ≠ 0 ∧
    base.linkUp 17 = false ∧ (host [] base).linkUp 17 = true ∧
    base.dev.linkGen = none ∧ (0x8000#16 - BitVec.ofNat 16 0).toNat = 2 ^ 15 ∧ (0x7FFF#16 - BitVec.ofNat 16 0).toNat < 2 ^ 15 := by
  decide +kernel

/-! ### Steps, decoding, reset -/

def readyInstr (o : Option (Focus × Fetched × Strand)) : Bool :=
  match o with
  | some (_, .instr _ _, _) => true
  | _ => false

theorem ready_of {o : Option (Focus × Fetched × Strand)} (h : readyInstr o = true) : ∃ F i n x, o = some (F, .instr i n, x) := by
  unfold readyInstr at h
  split at h
  · exact ⟨_, _, _, _, rfl⟩
  · cases h

/-- An event, a pacer's word, a warm-up's word, a heat's word, a core whose four ports are taken, and nothing to do. -/
theorem test_meets_StepRunsDecodedInstruction :
    isEvent .deviceReset = true ∧
    (∀ row ∈ [(pacer, UnitRef.pacer 0), (warm, .warm 0)],
      let s1 := ({ row.1 with agenda := [] } : State).settleUnit row.2
      ∃ r, s1.ready row.2 = some r ∧ readyInstr (some r) = true ∧ s1.givesWay row.2 r = false) ∧
    base.agenda = .core 0 :: [] ∧
    (let s : State := { base with agenda := [] }
     let s1 := (s.heatsOn 0).foldl (fun s h => s.settleUnit h.unit) s
     (s1.core 0).chosen.length < 4 ∧
     ∃ h F i n x, bestHeat (s1.core 0).rr ((s1.heatsOn 0).filter fun h =>
       !(s1.core 0).chosen.contains h.slot && ((s1.ready h.unit).isSome && s1.goes h.unit)) = some h ∧
       s1.ready h.unit = some (F, .instr i n, x)) ∧
    (let s : State := (base.setCore 0 { base.core 0 with chosen := [60, 61, 62, 63] })
     let s1 := (s.heatsOn 0).foldl (fun s h => s.settleUnit h.unit) s
     4 ≤ (s1.core 0).chosen.length) ∧
    State.reset.agenda = [] ∧ State.reset.engineWaits .deviceReset = false := by
  have some_of {α : Type} (p : α → Bool) (o : Option α) (h : o.any p = true) : ∃ r, o = some r ∧ p r = true := by
    cases o with
    | none => cases h
    | some r => exact ⟨r, rfl, h⟩
  refine ⟨by decide +kernel, fun row hr => ?_, by decide +kernel, ⟨by decide +kernel, ?_⟩, by decide +kernel, rfl, by decide +kernel⟩
  · have hk : ∀ row ∈ [(pacer, UnitRef.pacer 0), (warm, .warm 0)],
        ((({ row.1 with agenda := [] } : State).settleUnit row.2).ready row.2).any (fun r =>
          readyInstr (some r) && !((({ row.1 with agenda := [] } : State).settleUnit row.2).givesWay row.2 r)) = true := by
      decide +kernel
    obtain ⟨r, h1, h2⟩ := some_of _ _ (hk row hr)
    simp only [Bool.and_eq_true, Bool.not_eq_eq_eq_not, Bool.not_true] at h2
    exact ⟨r, h1, h2⟩
  · have hb : (let s : State := { base with agenda := [] }
        let s1 := (s.heatsOn 0).foldl (fun s h => s.settleUnit h.unit) s
        bestHeat (s1.core 0).rr ((s1.heatsOn 0).filter fun h =>
          !(s1.core 0).chosen.contains h.slot && ((s1.ready h.unit).isSome && s1.goes h.unit))) =
        some ⟨.heat 0 0 0, 0, 0, 1, 0, 0⟩ := by
      decide +kernel
    obtain ⟨F, i, n, x, hr⟩ := ready_of (o := (let s : State := { base with agenda := [] }
      ((s.heatsOn 0).foldl (fun s h => s.settleUnit h.unit) s).ready (.heat 0 0 0))) (by decide +kernel)
    exact ⟨⟨.heat 0 0 0, 0, 0, 1, 0, 0⟩, F, i, n, x, hb, hr⟩

/-- A word behind a CWAIT whose window is open, of the pacer, of a warm-up and of a heat. -/
def readyLater (o : Option Offer) : Bool :=
  match o with
  | some (_, .later _ _, _) => true
  | _ => false

/-- A window whose words have written S0. -/
def written (o : LongOp) : LongOp := { o with laid := ⟨[(0, ⟨1#32, .clean⟩)], [], [], false⟩ }

theorem test_meets_StepRunsDecodedInstruction_window :
    (∀ row ∈ [(pacer, UnitRef.pacer 0), (warm, .warm 0)],
      let s := row.1.modStrand row.2 fun x => { x with ops := [written (windowOp none 1#32 x.lanes)] }
      let s1 := ({ s with agenda := [] } : State).settleUnit row.2
      readyLater (s1.ready row.2) = true ∧ ((s1.ready row.2).any fun r => !s1.givesWay row.2 r) = true) ∧
    (let s : State := { base.modStrand hf.unit fun x => { x with ops := [written (windowOp none 0xFFFFFFFF#32 x.lanes)] } with agenda := [] }
     let s1 := (s.heatsOn 0).foldl (fun s h => s.settleUnit h.unit) s
     bestHeat (s1.core 0).rr ((s1.heatsOn 0).filter fun h =>
       !(s1.core 0).chosen.contains h.slot && ((s1.ready h.unit).isSome && s1.goes h.unit)) =
       some ⟨.heat 0 0 0, 0, 0, 1, 0, 0⟩ ∧ readyLater (s1.ready (.heat 0 0 0)) = true) := by decide +kernel

theorem test_meets_FetchDecodesTheWord :
    let u : UnitRef := .heat 0 0 0
    base.fieldOf u = some field0 ∧ base.fetchBound u field0 0 = false ∧
    base.codeAddr field0 0 = .hit 0x40100 ⟨0, 0, 0x10000, 0x40000, true, false, 0#2⟩ ∧
    decodeWords (BitVec.ofNat 64 (base.readMem 0x40100 8)) (some (base.codeWord field0 1)) = .instr (.iadd (reg 4 3 7 0 2)) 1 ∧
    base.beingZeroed 0x40100 = false ∧
    (let s := base.writeMem 0x40108 8 0x0B3000201FFFFFFF
     s.fetchBound u field0 1 = false ∧ s.codeAddr field0 1 = .hit 0x40108 ⟨0, 0, 0x10000, 0x40000, true, false, 0#2⟩ ∧
      s.readMem 0x40108 8 / 2 ^ 62 ≠ 2 ∧ (s.codeWord field0 0).toNat / 2 ^ 62 ≠ 2 ∧ s.beingZeroed 0x40108 = false ∧
      decodeWords (BitVec.ofNat 64 (s.readMem 0x40108 8)) none = .instr (.movi (imm 1 0 0x1FFFFFFF#29)) 1) := by
  decide +kernel

theorem test_meets_DecodeInvertsEncode :
    (WellFormed (.iadd (reg 4 5 6 0 2)) = true ∧ (encode (.iadd (reg 4 5 6 0 2))).length = 1) ∧
    (WellFormed (.tdesc ⟨pt, 3#8, 8#8, 0x10#64⟩) = true ∧ (encode (.tdesc ⟨pt, 3#8, 8#8, 0x10#64⟩)).length = 2) ∧
    decodeWords 0x80F0006100000000#64 (some 0x10#64) = .instr (.tdesc ⟨pt, 3#8, 8#8, 0x10#64⟩) 2 := by
  decide +kernel

theorem test_meets_StepKeepsMemoryCanonical :
    (∃ t, step base = .next t) ∧ Memory.wf base.mem = true ∧ State.reset.Inv := by
  refine ⟨?_, by decide +kernel, show Memory.wf State.reset.mem = true from by decide⟩
  have h : (match step base with
    | .next _ => true
    | _ => false) = true := by decide +kernel
  split at h
  · rename_i t ht
    exact ⟨t, ht⟩
  · cases h

/-! ### The front end -/

/-- The header of a program without pacer in memory, one packet in a ring of 64 at offset 0x1000, and its doorbell rung. -/
def packet (q0 q1 q2 q3 : Nat) : Nat := q0 + 2 ^ 64 * q1 + 2 ^ 128 * q2 + 2 ^ 192 * q3
def ringQueue : Queue := { probeQueue with q0 := 0x1800000000001000#64, widx := 1#32 }
def front (p : Nat) : State :=
  let s := (probeHeader.zip (List.range 12)).foldl (fun s e => s.writeMem (0x40000 + 8 * e.2) 8 e.1.toNat) base
  { s.writeMem 0x41000 64 p with queues := [(0, ringQueue)] }

def verdict (s : State) : Option Verdict :=
  match s.readBatch 0 ringQueue with
  | (s1, .ok b) => some (s1.checkBatch 0 ringQueue b).2
  | _ => none

theorem verdict_some {s : State} {v : Verdict} (h : verdict s = some v) :
    ∃ s1 b s2, s.readBatch 0 ringQueue = (s1, .ok b) ∧ s1.checkBatch 0 ringQueue b = (s2, v) := by
  unfold verdict at h
  split at h
  · rename_i s1 b hb
    exact ⟨s1, b, _, hb, Prod.ext rfl (Option.some.inj h)⟩
  · cases h

/-- A SIGNAL is accepted, a packet of type 8 is malformed, a LAUNCH of no relay is refused for reason 2. -/
theorem test_meets_FrontEnd_validation :
    (∃ s1 b s2, (front (packet 0x304 0x2000 1 0)).readBatch 0 ringQueue = (s1, .ok b) ∧
      s1.checkBatch 0 ringQueue b = (s2, .accepted [])) ∧
    (∃ s1 b s2, (front (packet 0x70008 0 0 0)).readBatch 0 ringQueue = (s1, .ok b) ∧
      s1.checkBatch 0 ringQueue b = (s2, .malformed 0 7)) ∧
    (∃ s1 b s2, (front (packet 0x70101 0 0 0xFFFFFFFF)).readBatch 0 ringQueue = (s1, .ok b) ∧
      s1.checkBatch 0 ringQueue b = (s2, .refused 0 7 2)) ∧
    (∀ p ∈ [packet 0x304 0x2000 1 0, packet 0x70008 0 0 0],
      let s := (front p).flushOwed 0
      find s.queues 0 = some ringQueue ∧ ringQueue.resetting = false ∧ s.heldBefore 0 s.nextId 0 = false ∧ s.walks = []) ∧
    (∃ s1 b s2, ({ front (packet 0x70008 0 0 0) with relays := [] } : State).readBatch 0 ringQueue = (s1, .ok b) ∧
      s1.checkBatch 0 ringQueue b = (s2, .malformed 0 7)) :=
  ⟨verdict_some (by decide +kernel), verdict_some (by decide +kernel), verdict_some (by decide +kernel), by decide +kernel,
    verdict_some (by decide +kernel)⟩

def meet0 (p : Nat) : Meet :=
  { queue := 0, packets := [p], protos := [(0, field0)], grouped := false, pos := 0, begun := true, states := [], fields := [],
    nfield := [], launchOpen := [], compl := 0, tag := 0, index := 0, recorded := false, fate := [], suspect := false, copied := [] }
def atMeet (m : Meet) (s : State) : State :=
  { s with meets := [(7, m)], queues := [(0, { ringQueue with pending := [7] })], nextId := 8 }
def launchPacket : Nat := packet 0x101 0 0x0001000100000001 0xFFFFFFFF

theorem test_meets_FrontEnd_dispatch :
    let s := atMeet { meet0 launchPacket with begun := false } base
    (find s.queues 0).map (fun q => (q.pending, q.resetting)) = some ([7], false) ∧
    (find s.meets 7).map (fun m => m.begun) = some false ∧ s.heldBefore 0 7 0 = false ∧
    (let l := atMeet (meet0 launchPacket) base
     l.atFree 0 = some (7, meet0 launchPacket, launchPacket) ∧ (find l.queues field0.queue).map (fun q => (q.quar, q.cleared)) = some (false, false) ∧ find (meet0 launchPacket).protos 0 = some field0 ∧
      find l.warms 0 = none ∧ lWoff launchPacket = noWarm) ∧
    (let p := packet 0x101 0 0x0001000100000001 0
     let l := atMeet (meet0 p) base
     l.atFree 0 = some (7, meet0 p, p) ∧ find l.warms 0 = none ∧ lWoff p ≠ noWarm ∧ l.readParams 0 p = (l, .ok []) ∧
      l.launchCaps (.front 0) field0.ctx field0.capBase field0.ncap = (l, some [])) := by
  refine ⟨by decide +kernel, by decide +kernel, by decide +kernel, by decide +kernel, by decide +kernel, by decide +kernel,
    by decide +kernel, rfl, rfl⟩

/-- The warm-up of a LAUNCH at its EXIT, and its meet after the LAUNCH has passed with no field left. -/
theorem test_meets_ExitRetires_warm :
    let p := packet 0x101 0 0x0001000100000001 0
    let s : State := { atMeet (meet0 p) base with warms := [(0, { warmStart field0 0 [] [] with start := 0 })] }
    s.atPacket 0 = some (7, meet0 p, p) ∧ (find s.warms 0).isSome = true ∧ (meet0 p).crowded = false ∧
    ({ meet0 p with fields := List.range 255 } : Meet).crowded = true ∧ find s.meets 7 = some (meet0 p) ∧
    (find s.queues field0.queue).map (fun q => (q.quar, q.cleared)) = some (false, false) ∧
    (meet0 p).isDone 0 = false ∧ (meet0 p).grouped = false ∧ pType ((meet0 p).packet 0) = tLaunch ∧ (meet0 p).pos ≤ 0 ∧
    find (meet0 p).fate 0 = none ∧
    (let m : Meet := { meet0 p with pos := 1 }
     find (atMeet m base).meets 7 = some m ∧ m.isDone 0 = false ∧ 0 < m.pos ∧ getD 0 m.launchOpen 0 = 0 ∧
      m.recorded = false) := by decide +kernel

/-- WAIT on a word that is 0: at least 0 holds, at least 1 does not. -/
theorem test_meets_FrontEnd_wait : ∀ v ∈ [0, 1],
    let p := packet 0x005 0x2000 v 0
    let s := atMeet (meet0 p) base
    s.atFree 0 = some (7, meet0 p, p) ∧ pType p = tWait ∧ (s.frontRead 0 (bits (pq p 1) 56 0) 8).2 = .val 0 := by
  decide +kernel

/-- SIGNAL that is due, without VOUCH and with it, while a field is suspect, while its units are provisional, and neither. -/
theorem test_meets_FrontEnd_signal :
    let p := packet 0x704 0x2000 1 0
    let m : Meet := { meet0 p with states := [(0, .armed)] }
    let s (f : Field) : State := { atMeet m base with fields := [(0, f)] }
    let f : Field := { field0 with ended := .retired }
    pType p = tSignal ∧ m.state 0 = .armed ∧ bit p 10 = true ∧
    (∀ g ∈ [f, { f with suspect := true }, { f with used := [(.core 0, 0)] }], (s g).signalDue 7 m p = true ∧ (s g).underWay 7 0 m = true ∧
      (s g).signalled 7 m = [(0, g)]) ∧ ((s f).frontRead 0 0x2000 8).2 = .val 0 ∧
    (((s f).frontRead 0 0x2000 8).1.frontWrite 0 0x2000 8 1).2 = .val 0 := by decide +kernel

/-- COPY of two units, into the page, past its end, and into one the host may still map. -/
theorem test_meets_FrontEnd_copy :
    let p := packet 6 0x2000 0x3000 32
    let m : Meet := { meet0 p with states := [(0, .armed)] }
    let s := atMeet m base
    pType p = tCopy ∧ s.underWay 7 0 m = true ∧ s.heldBefore 0 7 0 = false ∧ (find s.queues 0).map (fun q => q.resetting) = some false ∧
    s.earlier 0 7 = [(0, field0)] ∧
    (s.copyUnits 0 0x2000 0x3000 2 0).2 = (2, .val 0) ∧ (s.copyUnits 0 0x2000 0x10000 2 0).2 = (0, .cause 0x10) ∧
    (let t := s.writeMem 0x20008 8 0x80
     (t.copyUnits 0 0x2000 0x10000 2 0).2 = (0, .wait)) ∧
    (({ s with fields := [] } : State).earlier 0 7).all (fun e => e.2.ended ≠ .live) = true := by decide +kernel

/-! ### Faults before the host, the distributor -/

/-- An escalated fragment of lanes 3 and 4 with its entry in the log of port 0, of the right generation and of a later one;
and an entry of a context. -/
def escalated (gen : BitVec 4) (s : State) : State :=
  (s.modStrand hf.unit fun x =>
    { (x.mapLanes [3, 4] fun _ l => { l with ls := .parked, frag := some 5, own := 0x22#7 }) with
      frags := [(5, { frag5 with phase := .escalated, gen := gen })] }).modPort .p0 fun ps =>
    { ps with flog := 0x2000000000000000#64, flogW := 1#32, log := [(0, ⟨1, 0, some hf.unit, 5, 0#4⟩)] }

theorem test_meets_FaultControl : ∀ op ∈ [1, 2, 3], ∀ gen ∈ [0#4, 1#4],
    let s := escalated gen base
    let x := strandOf s hf
    s.fctl .p0 (2 ^ 61 * op) = some (op, ⟨1, 0, some hf.unit, 5, 0#4⟩) ∧ (s.strand hf.unit).isSome = true ∧
    (find x.frags (x.fidOf 5)).map (fun fr => (fr.phase, fr.gen)) = some (.escalated, gen) ∧ s.unitLost hf.unit = false ∧
    (x.fragLanes (x.fidOf 5)).getLsbD 3 = true ∧ (∀ i, i < 32 → (x.lane i).held = none) ∧
    s.stepping ⟨hf.unit, 0#32, none⟩ = false := by decide +kernel

theorem test_meets_HostTeardown :
    (escalated 0#4 base).fctl .p0 (2 ^ 63) = some (4, ⟨1, 0, some hf.unit, 5, 0#4⟩) ∧
    (find (escalated 0#4 base).ctxs 0).isSome = true := by decide +kernel

/-- A field of one relay on a device with nothing resident; its context's map names cluster 0 alone. -/
def toPlace : State := { base with relays := [], fields := [(0, { field0 with placed := [] })] }

theorem fit_some (s : State) (f : Field) (squads : List (Nat × List Nat)) (r : Option Nat)
    (hr : s.clusterRoom 0 f r = true)
    (h : ∀ k, k < (s.coresOf 0).length + 1 → (seats f squads
      (((s.coresOf 0).drop k ++ (s.coresOf 0).take k).map fun p => s.coreUse r p)).isSome = true) :
    ∃ a, s.fitOn 0 f squads r = some a := by
  have hk := h (s.freeNat 6 % ((s.coresOf 0).length + 1)) (Nat.mod_lt _ (by omega))
  rw [Option.isSome_iff_exists] at hk
  obtain ⟨a, ha⟩ := hk
  exact ⟨a, by rw [State.fitOn, if_pos hr]; exact ha⟩

theorem only_cluster_zero {s : State} {f : Field} (h : find s.ctxs f.ctx = some probeCtx) {d : Nat}
    (hm : (s.mapped f d).isSome = true) : d = 0 := by
  simp only [State.mapped, h, probeCtx, List.find?_cons, List.find?_nil, Option.isSome_map] at hm
  by_cases hd : (0 : Nat) = d
  · exact hd.symm
  · simp [hd] at hm

theorem chooses_of (s : State) (f : Field) (squads : List (Nat × List Nat)) (r : Option Nat)
    (hc : find s.ctxs f.ctx = some probeCtx) (hm : (s.mapped f 0).isSome = true) (he : s.eligible 0 f r = true)
    (hr : s.clusterRoom 0 f r = true)
    (h : ∀ k, k < (s.coresOf 0).length + 1 → (seats f squads
      (((s.coresOf 0).drop k ++ (s.coresOf 0).take k).map fun p => s.coreUse r p)).isSome = true) :
    ∃ a, s.Chooses f squads r 0 a := by
  obtain ⟨a, ha⟩ := fit_some s f squads r hr h
  exact ⟨a, ⟨by decide, hm, he⟩, ha, fun d hd _ hn => absurd (only_cluster_zero hc hd.2.1) hn⟩

theorem test_meets_Placement_first :
    let f : Field := { field0 with placed := [] }
    let s := toPlace
    find toPlace.fields 0 = some f ∧ (toPlace.evicted 0).find? (fun e => decide (e.2.linear = 0)) = none ∧
    toPlace.mayPlace 0 f 0 = true ∧ toPlace.mayPlace 0 f 1 = false ∧
    (∃ a, s.Chooses f ((List.range (hdrRelay f)).map fun q => (q, [])) none 0 a) ∧
    s.launchCaps (.place 0) f.ctx f.capBase f.ncap = (s, some []) ∧
    ∀ a, s.holdsRegions f (relayStart 0 f 0 ((s.mapped f 0).getD 0) 0 (listed a ((s.mapped f 0).getD 0)) []) = true := by
  have hr : toPlace.holdsRegions { field0 with placed := [] } (relayStart 0 { field0 with placed := [] } 0 0 0 [] []) = true := by
    decide +kernel
  refine ⟨by decide +kernel, by decide +kernel, by decide +kernel, by decide +kernel, ?_, rfl, fun a => hr⟩
  exact chooses_of _ _ _ _ (by decide +kernel) (by decide +kernel) (by decide +kernel) (by decide +kernel) (by decide +kernel)

/-- The same relay evicted, and returning. -/
theorem test_meets_Placement_return :
    let s := withRelay (fun rl => { rl with place := none }) base
    let rl : Relay := { relay0 with place := none }
    find s.fields 0 = some field0 ∧ (s.evicted 0).find? (fun e => decide (e.2.linear = 0)) = some (0, rl) ∧
    s.mayReturn 0 field0 rl = true ∧ field0.mode ≠ 2 ∧ rl.save.bad = false ∧
    (let b : Relay := { rl with save := { rl.save with bad := true } }
     b.save.bad = true ∧ (withRelay (fun _ => b) base).mayReturn 0 field0 b = true) ∧ ∃ a, s.Chooses field0 rl.toSeat (some 0) 0 a := by
  refine ⟨by decide +kernel, by decide +kernel, by decide +kernel, by decide, rfl, by decide +kernel, ?_⟩
  exact chooses_of _ _ _ _ (by decide +kernel) (by decide +kernel) (by decide +kernel) (by decide +kernel) (by decide +kernel)

theorem best_some {s : State} {f : Field} {squads : List (Nat × List Nat)} {r : Option Nat} {ok : Nat → Bool} {c : Nat}
    {a : List (Nat × Nat × List Nat)} (hc : c ∈ clusterIds) (ho : ok c = true) (he : s.eligible c f r = true)
    (ha : s.fitOn c f squads r = some a) : ∃ b, s.best f squads r ok = some b := by
  rw [← Option.isSome_iff_exists, State.best, Option.isSome_map]
  generalize hF : (fun (best : Option (Int × Nat × List (Nat × Nat × List Nat))) d => _) = F
  have keep : ∀ b d, b.isSome = true → (F b d).isSome = true := by
    intro b d hb
    subst hF
    dsimp only
    split
    · exact hb
    · split
      · exact hb
      · split
        · split <;> simp_all
        · rfl
  have keeps : ∀ l b, b.isSome = true → (List.foldl F b l).isSome = true := by
    intro l
    induction l with
    | nil => exact fun b hb => hb
    | cons d l ih => exact fun b hb => ih _ (keep b d hb)
  have takes : ∀ b, (F b c).isSome = true := by
    intro b
    subst hF
    simp only [ho, he, ha, Bool.not_true, Bool.or_self, Bool.false_eq_true, if_false]
    split
    · split <;> rfl
    · rfl
  have all : ∀ l b, c ∈ l → (List.foldl F b l).isSome = true := by
    intro l
    induction l with
    | nil => exact fun b h => by cases h
    | cons d l ih =>
      intro b h
      rcases List.mem_cons.mp h with rfl | h
      · exact keeps l (F b c) (takes b)
      · exact ih _ h
  exact all _ _ hc

/-- The relay of a concurrent field evicted: it returns with the cluster free, and not while its context's map names none. -/
theorem test_meets_Placement_together :
    let f : Field := { field0 with mode := 2 }
    let rl : Relay := { relay0 with place := none }
    let s : State := { withRelay (fun rl => { rl with place := none }) base with fields := [(0, f)] }
    (s.evicted 0).find? (fun e => decide (e.2.linear = 0)) = some (0, rl) ∧ s.mayReturn 0 f rl = true ∧
    (∃ t, s.returnAll f (s.evicted 0) = some t) ∧ (∀ e ∈ s.evicted 0, find s.relays e.1 = some e.2 ∧ e.2.save.bad = false) ∧
    (let n : State := { s with ctxs := [(0, { probeCtx with lmap := [] })] }
     n.returnAll f (n.evicted 0) = none) := by
  intro f rl s
  have he : s.evicted 0 = [(0, rl)] := by decide +kernel
  refine ⟨by decide +kernel, by decide +kernel, ?_, by decide +kernel, by decide +kernel⟩
  obtain ⟨a, ha⟩ := fit_some s f rl.toSeat (some 0) (by decide +kernel) (by decide +kernel)
  obtain ⟨b, hb⟩ : ∃ b, s.best f rl.toSeat (some 0) (fun c => (s.mapped f c).isSome) = some b :=
    best_some (by decide +kernel) (by decide +kernel) (by decide +kernel) ha
  exact ⟨_, by rw [he, State.returnAll, hb]; rfl⟩

theorem test_meets_Placement_rest :
    (let s := withRelay (fun rl => { rl with heats := rl.heats.map fun e => (e.1, e.2.mapLanes laneIds fun _ l => { l with ls := .exited }) }) base
     (find s.relays 0).map (fun rl => (rl.quiet, rl.stopped, rl.place)) = some (true, false, some 0)) ∧
    (let f : Field := { field0 with mode := 2, dimX := 200 }
     let s : State := { base with fields := [(0, f)] }
     let room := ((s.partition f).filter fun c => (s.mapped f c).isSome).length
     f.ended = .live ∧ capOf f 3 * room < f.total ∧ f.stopped = false ∧ ({ f with stopped := true } : Field).stopped = true) ∧
    (let f : Field := { field0 with mode := 2 }
     let s : State := { base with fields := [(0, f)] }
     let room := ((s.partition f).filter fun c => (s.mapped f c).isSome).length
     f.total ≤ capOf f 3 * room) ∧
    (let s := withRelay (fun rl => { rl with place := some 1 }) base
     let hot := s.setCluster 1 { s.cluster 1 with coreT := [(2, 95)] }
     s.mustMove { relay0 with place := some 1 } field0 1 = false ∧ hot.mustMove { relay0 with place := some 1 } field0 1 = true ∧
      hot.eligible 0 field0 (some 0) = true ∧ (hot.mapped field0 0).isSome = true ∧
      (∃ a, hot.fitOn 0 field0 relay0.toSeat (some 0) = some a)) ∧
    (∀ e ∈ base.relays, find base.relays e.1 = some e.2) ∧
    (relay0.squadRetired 0 = false ∧ (find relay0.squads 0).map (fun k => k.expired) = some none) ∧
    (find (find (withRelay (fun rl => { rl with squads := [(0, { squadStart 0 0 [0] with evicting := true })] }) base).relays 0
      |>.getD relay0).squads 0).map (fun k => k.evicting) = some true := by
  refine ⟨by decide +kernel, by decide +kernel, by decide +kernel, ⟨by decide +kernel, by decide +kernel, by decide +kernel, by decide +kernel, ?_⟩,
    by decide +kernel, by decide +kernel, by decide +kernel⟩
  exact fit_some _ _ _ _ (by decide +kernel) (by decide +kernel)

/-- A relay that waits while its context's map names no cluster, and one that fits where it is. -/
theorem test_meets_Placement_preemption :
    let f : Field := { field0 with placed := [] }
    let s : State := { toPlace with ctxs := [(0, { probeCtx with lmap := [] })] }
    let squads := (List.range (hdrRelay f)).map fun q => (q, ([] : List Nat))
    find s.fields 0 = some f ∧ (s.evicted 0).find? (fun e => decide (e.2.linear = 0)) = none ∧ s.mayPlace 0 f 0 = true ∧
    (s.best f squads none fun c => (s.mapped f c).isSome).isSome = false ∧ s.migrationHelps (f, squads, none) = false ∧
    s.mayPlace 0 f 1 = false := by decide +kernel

/-! ### Wear, rotation, memory events, engines, collectives -/

/-- A record at its cap crosses whatever the firmware's thresholds are; a new one crosses only a threshold of 0. -/
theorem test_meets_WearAndClocks_integration :
    (let r : WearRec := { wearInit false with bti := 2 ^ 48 - 1 }
     r.state = 0 ∧ (r.integrate (incs .core 0 0 (min 0 256)) 0).crosses .core = true) ∧
    (State.reset.wearRec .core 415 = wearInit true ∧ 415 < kindCount .core ∧ (State.reset.wearRec .core 0).state = 0 ∧
      State.reset.resting .core 0 = false ∧ State.reset.justExchanged .core 0 = false ∧ State.reset.justDecided .core 0 = false ∧
      ((∀ m, m < 3 → (Config.wearMax 0 m).toNat ≠ 0) → (Config.monMax 0).toNat ≠ 0 →
        ((wearInit false).integrate (incs .core 0 0 (min 0 256)) 0).crosses .core = false)) := by
  refine ⟨⟨rfl, ?_⟩, by decide +kernel, by decide, by decide +kernel, by decide +kernel, by decide +kernel, by decide +kernel, fun h hm => ?_⟩
  · have := (Config.wearMax 0 0).isLt
    simp [WearRec.crosses, WearRec.integrate, incs, wearCap, kindNum]
    omega
  · have h0 := h 0 (by decide)
    have h1 := h 1 (by decide)
    have h2 := h 2 (by decide)
    simp [WearRec.crosses, WearRec.integrate, incs, wearCap, kindNum, wearInit]
    omega

theorem test_meets_WearAndClocks_rotation :
    let g : RotGroup := ⟨false, 0, [3, 7, 11], 3, true⟩
    let h : RotGroup := ⟨true, 0, [0, 1], 1, false⟩
    let s : State := { base with rot := [(0, g), (1, h), (2, { g with scanning := false })] }
    find s.rot 0 = some g ∧ g.scanning = true ∧ g.current = 3 ∧ 3 ∈ g.members ∧ find s.rot 1 = some h ∧ h.scanning = false ∧
    h.members = [0] ++ h.current :: [] ∧ h.current ∉ [0] ∧ ([] ++ [0] ++ [h.current]).head? = some 0 ∧
    g.members = [] ++ g.current :: [7, 11] ∧ g.current ∉ ([] : List Nat) ∧ ([7, 11] ++ [] ++ [g.current]).head? = some 7 ∧
    (s.coreUse none 7).slots = [] ∧ (s.coreUse none 0).slots ≠ [] ∧
    (base.cluster 103).status ≠ .active ∧ (base.cluster 101).status = .active ∧
    (∀ e ∈ base.residents 101 none, e.2.pacer = none) ∧ (base.cluster 101).arrayDue = false ∧
    (base.setCluster 101 { base.cluster 101 with cyc := 0x80000000#64 } |>.cluster 101).arrayDue = true := by decide +kernel

theorem test_meets_WearAndClocks_boost :
    let cl : Cluster := { clusterInit 1 with grant := some ⟨4, 1, none, 0⟩ }
    let s : State := { base with clusters := [(1, cl)] }
    (s.cluster 1).grant = some ⟨4, 1, none, 0⟩ ∧ cl.status = .active ∧ 1 < 104 := by decide +kernel

/-- A walk of a waiting fragment that maps, that asks, that ends in a cause, and one the host has been asked for. -/
def walking (pte : Nat) (asked : Bool) : State :=
  let s := (base.writeMem 0x20000 8 pte).modStrand hf.unit fun x =>
    { (x.mapLanes [3, 4] fun _ l => { l with ls := .parked, frag := some 5, own := 0x10#7, fva := 0x20#57 }) with
      frags := [(5, { frag5 with replay := true, phase := .waiting, fcause := 0x10#7 })] }
  { s with walks := [(9, ⟨0, 0x20, false, .fragment hf.unit 5, asked, false⟩)] }

def leafOf : Walked → Bool
  | .leaf _ => true
  | _ => false

theorem leaf_of {w : Walked} (h : leafOf w = true) : ∃ e, w = .leaf e := by
  cases w with
  | leaf e => exact ⟨e, rfl⟩
  | _ => cases h

theorem test_meets_MemoryEvents_walks :
    let w (a : Bool) : Walk := ⟨0, 0x20, false, .fragment hf.unit 5, a, false⟩
    (find (walking 0x4000B false).walks 9 = some (w false) ∧ ∃ e, (walking 0x4000B false).walkNow (w false) = .leaf e) ∧
    (walking 0x80 false).walkNow (w false) = .ask ∧ (walking 0 false).walkNow (w false) = .cause 0x10 ∧
    find (walking 0x80 true).walks 9 = some (w true) ∧ ((walking 0x80 true).strand hf.unit).isSome = true ∧
    (find (strandOf (walking 0x80 true) hf).frags 5).map (fun fr => (fr.replay, fr.phase)) = some (true, .waiting) ∧
    (∃ e, (walking 0x4000B true).walkNow (w true) = .leaf e) ∧
    ((strandOf (walking 0 false) hf).fragLanes 5).getLsbD 3 = true :=
  ⟨⟨by decide +kernel, leaf_of (by decide +kernel)⟩, by decide +kernel, by decide +kernel, by decide +kernel, by decide +kernel,
    by decide +kernel, leaf_of (by decide +kernel), by decide +kernel⟩

theorem test_meets_MemoryEvents_rest :
    ((find base.relays 0).bind fun rl => rl.place).isSome = true ∧ (base.strand hf.unit).isSome = true ∧
    (let s := base.modStrand hf.unit fun x => { x with waiting := .page 1 }
     (find s.relays 0).map (fun rl => (rl.pageWanted 1, rl.freeFrames.isEmpty)) = some (true, false) ∧ 1 < scratchPages field0) := by
  decide +kernel

/-- A copy of one row of 32 bytes within the scratch at the head of queue 0, before its last unit and after it, and one
whose guard is false. -/
def copyCommand (done : Nat) (guard : Option Nat) : Command :=
  { oneUnit with
    dst := .scratch 0x1FE0, rowBytes := 32, sstride := 32, dstride := 32, cnt := some 15, guard := guard, done := done }
def paged (s : State) : State :=
  withRelay (fun rl => { rl with pages := [(0, { pageInit with resident := true }), (1, { pageInit with resident := true, frame := 1 })] }) s
def queued (c : Command) (s : State) : State :=
  withRelay (fun rl => { rl.setQueue 0 { rl.queue 0 with items := [.command c] } with guards := [(3, .no)] }) s

theorem test_meets_Engines_copy :
    (∀ c ∈ [copyCommand 0 none, copyCommand 1 none], c.done < c.units) ∧
    (∀ c ∈ [copyCommand 0 none, copyCommand 2 none, copyCommand 0 (some 3)],
      (find (queued c base).relays 0).map (fun rl => ((rl.queue 0).items, rl.active)) = some ([.command c], true)) ∧
    (find (queued (copyCommand 0 none) base).relays 0).map (fun rl => rl.guardOf (copyCommand 0 none)) = some .yes ∧
    (find (queued (copyCommand 0 (some 3)) base).relays 0).map (fun rl => rl.guardOf (copyCommand 0 (some 3))) = some .no ∧
    (copyCommand 2 none).units ≤ (copyCommand 2 none).done ∧
    (let s := paged (queued (copyCommand 1 none) base)
     let row := (s.takeHand 0 0).sourceRow 0 0 (copyCommand 1 none) 0 16
     let r := row.1.srcUnit 0 0 0 0x2000 (copyCommand 1 none) row.2 16
     r.2 = .at (.scr 16) ∧
      ((r.1.useSlice (.pacer 0) (.scr 16)).dstUnit 0 0 0 (copyCommand 1 none) 0 16).2 = .at (.scr 0x1FF0)) :=
  ⟨by decide, by decide +kernel, by decide +kernel, by decide +kernel, by decide, by decide +kernel⟩

/-- An MSTORE of 128 rows of 16 bytes in the array, to scratch and to device memory, every unit within reach. -/
theorem test_meets_Engines_store : ∀ loc ∈ [0, 1],
    let tt : Tensor := ⟨(tens 0 loc 128 16 16).bits, cap0⟩
    let e : MEntry := ⟨.mstore tt 31 true, some 1, 0, 0, true, [], []⟩
    let s := withRelay (fun rl => { rl with mq := [.entry e] }) (paged base)
    let place (x : Nat) : Nat := if loc = 0 then 0x40000 + x else x
    (find s.relays 0).map (fun rl => (rl.mq, rl.active, rl.mqerr.getLsbD 31)) = some ([.entry e], true, false) ∧
    (find s.fields 0).isSome = true ∧ tt.captureOk = true ∧ storeCapCause tt = none ∧
    (loc = 0 → (find s.ctxs field0.ctx).map (fun cx => cx.root % 4096) = some 0 ∧
      ∀ x ∈ tt.storeOffs, s.beingZeroed (place x) = false ∧
        s.translateCtx field0.ctx (capVa tt.cap x) true = .hit (place x) ⟨0, 0, 0x10000, 0x40000, true, false, 0#2⟩) ∧
    (loc ≠ 0 → ∀ x ∈ tt.storeOffs, place x = x ∧ x < fifoBase ∧
      (find s.relays 0).map (fun rl => ((rl.page (x / 4096)).resident, rl.inTransition x)) = some (true, false)) ∧
    (let row (i : Nat) := storeRow tt.format true fun j => (relay0.cell 31 i j).toNat
     let units := (List.range 128).flatMap fun i => (List.range (tt.rowBytes / 16)).map fun c =>
       (tt.base + phys tt.swzCode tt.stride i (16 * c), 16, ((row i).1.drop (16 * c)).take 16)
     let pairs := (List.range 128).flatMap fun i => (List.range ((row i).2.length / 2)).map fun b =>
       (tt.scale + 2 * (4 * i + b), 2, ((row i).2.drop (2 * b)).take 2)
     (units ++ pairs).Pairwise (fun a b => place a.1 + a.2.1 ≤ place b.1 ∨ place b.1 + b.2.1 ≤ place a.1)) := by
  decide +kernel

/-- Matrix entries at the head of queue 10: one that begins, and in the array one of each of the three with results. -/
theorem test_meets_Engines_matrix :
    let e (op : MOp) (begun : Bool) : MEntry := ⟨op, some 1, 0, 0, begun, [], []⟩
    (relay0.beginEntry (e (.mzero 31) false) 0x2000 4 0 = .begun (relay0.setEntry { e (.mzero 31) false with begun := true })) ∧
    relay0.active = true ∧ relay0.mqerr.getLsbD 31 = false ∧
    relay0.mmaInvalid (tens 0 1 128 32 32) (tens 0 3 32 128 0) [] 32 = false ∧ 0 < bits relay0.mretry.toNat 2 0 := by
  refine ⟨rfl, ?_⟩
  decide +kernel

theorem test_meets_Engines_rest :
    let o : LongOp := ⟨.plain, 0#32, 1#32, 3, [], [], 0#5, 0#4, [], overNone, [], 0, none⟩
    let s := heat.modStrand hf.unit fun x => { x with ops := [o] }
    (strandOf s hf).ops[0]? = some o ∧ o.kind = .plain ∧ (∀ p ∈ (strandOf s hf).ops, p.kind = .plain) ∧
    (let t := heat.modStrand hf.unit fun x =>
       { (x.mapLanes [3, 4] fun _ l => { l with ls := .parked, frag := some 5, own := 0x22#7 }) with
         frags := [(5, { frag5 with phase := .waiting })] }
     (t.strand hf.unit).isSome = true ∧ t.handlerOf hf.unit = some 32 ∧ (strandOf t hf).inHandler = none ∧
      (strandOf t hf).nextFrag = some (5, { frag5 with phase := .waiting }) ∧
      lowest ((strandOf t hf).fragLanes 5) = some 3) := by decide +kernel

/-- A collective of this relay alone, of one row of 16 bytes; one whose list does not name it; and one with a peer. -/
theorem test_meets_CollectivesAndErrors :
    let c (g : List Nat) : Command :=
      { copyCommand 0 none with rowBytes := 16, sstride := 16, dstride := 16, group := g, src := .scratch 0, dst := .scratch 0x1FF0 }
    let s (g : List Nat) : State :=
      withRelay (fun rl => rl.setQueue 9 { rl.queue 9 with items := [.command (c g)] }) (paged base)
    let here (g : List Nat) : Bool := g.any fun n =>
      entryDevice n = base.dev.domain && entryCtx n = field0.ctx && entryLin n = relay0.linear
    (∀ g ∈ [[0], [2 ^ 32]], (find (s g).relays 0).map (fun rl => ((rl.queue 9).items, rl.active, rl.guardOf (c g))) =
      some ([.command (c g)], true, .yes)) ∧ here [0] = true ∧ here [] = false ∧
    (let r := (s [0]).readParties [0]
     (s [0]).present 0 [0] = some [0] ∧ r.2 = true ∧ (r.1.parties 0 [0] []).isSome = true) ∧ (c [0]).result = none ∧
    entryDevice 1 ≠ base.dev.domain ∧ (c [0]).aborted = none ∧ ({ c [0] with aborted := some 4 } : Command).aborted = some 4 ∧
    (s [0]).anyLink = false ∧ here [0, 1] = true ∧ (host [] (s [0, 1])).anyLink = true ∧
    (let t := host [] (s [0, 1])
     let r := t.readParties [0]
     t.present 0 [0, 1] = some [0] ∧ r.2 = true ∧ (r.1.parties 0 [0, 1] [⟨0, true, false, 0, 0, 1, 16, []⟩]).isSome = true) := by
  decide +kernel

theorem test_meets_StorageErrors :
    (base.strand hf.unit).isSome = true ∧ (find (strandOf base hf).lanes 31).isSome = true ∧
    (strandOf base hf).stopped ≠ .lost ∧ (find base.queues 0).isSome = true ∧ (find base.ctxs 0).isSome = true ∧
    (find (queued (copyCommand 0 none) base).relays 0).map (fun rl => (rl.queue 0).items) = some [.command (copyCommand 0 none)] ∧
    base.relayCtx 0 = some 0 ∧ (Taint.unverified [1, 2]) ≠ .clean ∧
    (find (withRelay (fun rl => { rl with place := none }) base).relays 0).map (fun rl => rl.place) = some none := by
  decide +kernel


/-- A command to the B store whose source is device memory, and one whose source is scratch; a log entry owed to a frame. -/
theorem test_meets_StorageErrors_source :
    (queued { copyCommand 0 none with src := .device cap0 0, dst := .bstore 0 } base).sourceFrames 0 0 = [4] ∧
    (queued { copyCommand 0 none with dst := .bstore 0 } (paged base)).sourceFrames 0 0 = [] ∧
    (let s := (base.modPort .p0 fun ps => { ps with logOwed := [(0x50020, 7)] })
     (s.port .p0).logOwed = [(0x50020, 7)] ∧ (s.port .p1).logOwed = [] ∧ 0x50020 / 65536 = 5 ∧
      ∃ t, exec (.zeroingComplete 5) s = .next t ∧ t.readMem 0x50020 32 = 7) :=
  ⟨by decide +kernel, by decide +kernel, by decide +kernel, by decide +kernel, by decide, _, rfl, by decide +kernel⟩

end Sys2Proof.Tests
end

section
/-! SUPPORT. What operations on relays, fields and memory leave of the host's side of the state: the device registers, the
ports, the contexts and the queues. -/

namespace Sys2Proof.Machine

/-! ### Sparse maps -/

theorem find_modify {α : Type} (m : AMap α) (k j : Nat) (f : α → α) :
    find (modify m k f) j = if j = k then (find m k).map f else find m j := by
  unfold modify
  cases h : find m k with
  | none => by_cases hj : j = k <;> simp [hj, h]
  | some x => simp [find_put]

theorem modify_none {α : Type} {m : AMap α} {k : Nat} (f : α → α) (h : find m k = none) : modify m k f = m := by
  simp [modify, h]

theorem find_filter_key {α : Type} (m : AMap α) (p : Nat → Bool) (k : Nat) :
    find (m.filter fun e => p e.1) k = if p k then find m k else none := by
  induction m with
  | nil => simp [find]
  | cons e m ih =>
    obtain ⟨j, x⟩ := e
    by_cases hk : k = j
    · subst hk
      by_cases hp : p k <;> simp [find, hp, ih]
    · by_cases hp : p j <;> simp [find, hp, hk, ih]

theorem mem_of_find {α : Type} {m : AMap α} {k : Nat} {x : α} (h : find m k = some x) : (k, x) ∈ m := by
  induction m with
  | nil => cases h
  | cons e m ih =>
    obtain ⟨j, y⟩ := e
    by_cases hk : k = j
    · subst hk
      simp only [find, if_true, Option.some.injEq] at h
      simp [h]
    · exact List.mem_cons_of_mem _ (ih (by simpa [find, hk] using h))

/-! ### The host's side is kept -/

/-- From `s` to `t` the host's side stays: ports, contexts, queues, and the device registers except for the page-table
entries found lost, which zeroing of a frame mends. -/
structure KeepsHost (s t : State) : Prop where
  dev : t.dev = { s.dev with lostPte := t.dev.lostPte }
  port0 : t.port0 = s.port0
  port1 : t.port1 = s.port1
  ctxs : t.ctxs = s.ctxs
  queues : t.queues = s.queues

theorem KeepsHost.refl (s : State) : KeepsHost s s := ⟨rfl, rfl, rfl, rfl, rfl⟩

theorem KeepsHost.trans {s t u : State} (h : KeepsHost s t) (k : KeepsHost t u) : KeepsHost s u where
  dev := k.dev.trans (by rw [h.dev])
  port0 := k.port0.trans h.port0
  port1 := k.port1.trans h.port1
  ctxs := k.ctxs.trans h.ctxs
  queues := k.queues.trans h.queues

theorem KeepsHost.foldl {α : Type} {g : State → α → State} (h : ∀ s a, KeepsHost s (g s a)) (l : List α) (s : State) :
    KeepsHost s (l.foldl g s) := by
  induction l generalizing s with
  | nil => exact .refl s
  | cons a l ih => exact (h s a).trans (ih _)

theorem KeepsHost.thenFoldl {α : Type} {s t : State} {g : State → α → State} (k : KeepsHost s t)
    (h : ∀ s a, KeepsHost s (g s a)) (l : List α) : KeepsHost s (l.foldl g t) := k.trans (.foldl h l t)

theorem KeepsHost.port {s t : State} (h : KeepsHost s t) (p : Port) : t.port p = s.port p := by
  cases p
  · exact h.port0
  · exact h.port1

/-! ### Operations on relays, fields and memory -/

theorem keepsHost_modRelay (s : State) (r : Nat) (f : Relay → Relay) : KeepsHost s (s.modRelay r f) :=
  ⟨rfl, rfl, rfl, rfl, rfl⟩

theorem keepsHost_modField (s : State) (n : Nat) (f : Field → Field) : KeepsHost s (s.modField n f) :=
  ⟨rfl, rfl, rfl, rfl, rfl⟩

theorem keepsHost_setFrame (s : State) (n : Nat) (f : Frame) : KeepsHost s (s.setFrame n f) := ⟨rfl, rfl, rfl, rfl, rfl⟩

theorem keepsHost_zeroFrames (s : State) (first n : Nat) : KeepsHost s (s.zeroFrames first n) := ⟨rfl, rfl, rfl, rfl, rfl⟩

theorem State.writeMem_eq (n : Nat) : ∀ (s : State) (pa v : Nat),
    s.writeMem pa n v = { s with mem := (s.writeMem pa n v).mem } := by
  induction n with
  | zero => intro s pa v; rfl
  | succ n ih => intro s pa v; rw [State.writeMem, ih]; rfl

theorem State.store_eq (s : State) (pa n v : Nat) :
    s.store pa n v = { s with mem := (s.store pa n v).mem, tags := (s.store pa n v).tags } := by
  unfold State.store
  rw [State.writeMem_eq]
  rfl

theorem keepsHost_store (s : State) (pa n v : Nat) : KeepsHost s (s.store pa n v) := by
  rw [State.store_eq]
  exact ⟨rfl, rfl, rfl, rfl, rfl⟩

theorem keepsHost_writeLoc (s : State) (u : UnitRef) (l : Loc) (n v : Nat) : KeepsHost s (s.writeLoc u l n v) := by
  unfold State.writeLoc
  split
  · exact keepsHost_store _ _ _ _
  · split
    · exact keepsHost_modRelay _ _ _
    · exact .refl s

theorem keepsHost_setRecord (s : State) (u : UnitRef) (l : Loc) (r : RaceRec) : KeepsHost s (s.setRecord u l r) := by
  unfold State.setRecord
  split
  · exact ⟨rfl, rfl, rfl, rfl, rfl⟩
  · split
    · exact keepsHost_modRelay _ _ _
    · exact .refl s

theorem keepsHost_recordWrite (s : State) (u : UnitRef) (agent epoch : Nat) (nodet : Bool) (t : RaceTable) (l : Loc)
    (n : Nat) (o : Order) : KeepsHost s (s.recordWrite u agent epoch nodet t l n o) := by
  cases nodet <;> exact keepsHost_setRecord _ _ _ _

theorem keepsHost_drawSlice (s : State) (fid pa : Nat) : KeepsHost s (s.drawSlice fid pa) := by
  unfold State.drawSlice
  split
  · exact ⟨rfl, rfl, rfl, rfl, rfl⟩
  · exact .refl s

theorem keepsHost_useSlice (s : State) (u : UnitRef) (l : Loc) : KeepsHost s (s.useSlice u l) := by
  unfold State.useSlice
  split
  · exact keepsHost_drawSlice _ _ _
  · exact .refl s

theorem keepsHost_engineWrite (s : State) (r q epoch : Nat) (nodet : Bool) (l : Loc) (n v k : Nat) :
    KeepsHost s (s.engineWrite r q epoch nodet l n v k) := by
  unfold State.engineWrite
  split
  · exact .refl s
  · rename_i rl _
    have hw : ∀ t, KeepsHost s (((s.writeLoc (.pacer r) l n v).recordWrite (.pacer r) (agentQueue rl.linear q) epoch nodet
        t l n Order.data).useSlice (.pacer r) l) := fun t =>
      ((keepsHost_writeLoc _ _ _ _ _).trans (keepsHost_recordWrite _ _ _ _ _ _ _ _ _)).trans (keepsHost_useSlice _ _ _)
    cases l with
    | dev pa attr => exact hw _
    | scr off =>
      dsimp only
      split
      · exact (hw _).trans (keepsHost_modRelay _ _ _)
      · exact hw _

/-! ### The end of a collective command -/

theorem keepsHost_zeroHeld (s : State) (r q n : Nat) : KeepsHost s (s.zeroHeld r q n) := by
  unfold State.zeroHeld
  split
  · exact .refl s
  · split
    · split
      · refine .foldl (fun s j => .foldl (fun s i => ?_) _ s) _ s
        split
        · exact .refl s
        · exact keepsHost_engineWrite _ _ _ _ _ _ _ _ _
      · exact .refl s
    · exact .refl s

theorem keepsHost_endCommand (s : State) (r q : Nat) (cause cstat : Option Nat) :
    KeepsHost s (s.endCommand r q cause cstat) :=
  ((keepsHost_modRelay _ _ _).trans (keepsHost_zeroHeld _ _ _ _)).trans (keepsHost_modRelay _ _ _)

theorem keepsHost_endCollective (s : State) (r : Nat) (c : Command) (status : Nat) :
    KeepsHost s (s.endCollective r c status) := keepsHost_endCommand _ _ _ _ _

theorem keepsHost_abortCollectives (s : State) (gone : Nat → Bool) (status : Nat) :
    KeepsHost s (s.abortCollectives gone status) := by
  unfold State.abortCollectives
  refine .thenFoldl ?_ (fun s e => ?_) _
  · exact ⟨rfl, rfl, rfl, rfl, rfl⟩
  · split
    · split
      · exact keepsHost_endCollective _ _ _ _
      · exact .refl s
    · exact .refl s

/-! ### Relays leave -/

theorem keepsHost_noteUse (s : State) (rl : Relay) : KeepsHost s (s.noteUse rl) := by
  unfold State.noteUse
  split
  · exact .refl s
  · exact keepsHost_modField _ _ _

theorem keepsHost_freeRegion (s : State) (r : Region) : KeepsHost s (s.freeRegion r) :=
  .foldl (fun s n => (keepsHost_zeroFrames s n 1).trans (keepsHost_setFrame _ _ _)) _ s

theorem keepsHost_dropRelays (s : State) (p : Nat → Relay → Bool) : KeepsHost s (s.dropRelays p) := by
  unfold State.dropRelays
  refine KeepsHost.trans (.foldl (fun s e => ?_) _ _) ⟨rfl, rfl, rfl, rfl, rfl⟩
  exact ((keepsHost_noteUse s e.2).trans (keepsHost_freeRegion _ _)).trans (keepsHost_freeRegion _ _)

end Sys2Proof.Machine
end

section
/-! SUPPORT. A queue's reset and an interface's drop to ERROR: what they leave of the host's side of the state (R242,
R302). -/

namespace Sys2Proof.Machine

/-! ### A queue's reset -/

/-- What the start of a reset sets in the queue's own record (R242). -/
def Queue.resetStarted (q : Queue) : Queue := { q with resetting := true, resetDone := false, pending := [] }

theorem KeepsHost.modQueue {s t : State} (h : KeepsHost s t) (n : Nat) (f : Queue → Queue) :
    KeepsHost (s.modQueue n f) (t.modQueue n f) where
  dev := h.dev
  port0 := h.port0
  port1 := h.port1
  ctxs := h.ctxs
  queues := congrArg (modify · n f) h.queues

/-- Of the host's side, the start of a reset changes the queue's record alone. -/
theorem keepsHost_startReset (s : State) (n : Nat) : KeepsHost (s.modQueue n Queue.resetStarted) (s.startReset n) := by
  unfold State.startReset
  split
  · rename_i hnone
    exact ⟨rfl, rfl, rfl, rfl, (modify_none _ hnone).symm⟩
  · extract_lets mine s1 s2
    have h : KeepsHost s s1 := (keepsHost_abortCollectives s mine 6).trans (keepsHost_dropRelays _ _)
    exact (h.modQueue n Queue.resetStarted).trans ⟨rfl, rfl, rfl, rfl, rfl⟩

/-! ### The reset of several queues -/

/-- The reset of the queues that a list of entries names, as their records show it. -/
def resetsStarted (l m : AMap Queue) : AMap Queue := l.foldl (fun m e => modify m e.1 Queue.resetStarted) m

theorem keepsHost_startResets (l : AMap Queue) (s : State) :
    KeepsHost { s with queues := resetsStarted l s.queues } (l.foldl (fun s e => s.startReset e.1) s) := by
  suffices h : ∀ t, KeepsHost s t →
      KeepsHost { s with queues := resetsStarted l s.queues } (l.foldl (fun s e => s.startReset e.1) t) from h s (.refl s)
  induction l generalizing s with
  | nil => exact fun t h => h
  | cons e l ih => exact fun t h => ih _ _ ((h.modQueue e.1 _).trans (keepsHost_startReset t e.1))

theorem isSome_find_resetsStarted (l : AMap Queue) (m : AMap Queue) (k : Nat) :
    (find (resetsStarted l m) k).isSome = (find m k).isSome := by
  induction l generalizing m with
  | nil => rfl
  | cons e l ih =>
    refine (ih _).trans ?_
    rw [find_modify]
    split
    · next h => simp [h]
    · rfl

/-- A queue under reset stays so, and one that the list names comes under reset. -/
theorem resetting_of_find_resetsStarted {l : AMap Queue} {m : AMap Queue} {k : Nat} {q : Queue}
    (hk : (∃ e ∈ l, e.1 = k) ∨ ∀ x, find m k = some x → x.resetting = true)
    (hq : find (resetsStarted l m) k = some q) : q.resetting = true := by
  induction l generalizing m with
  | nil => simpa using hk.elim (by simp) fun h => h q hq
  | cons e l ih =>
    refine ih ?_ hq
    by_cases hek : e.1 = k
    · refine .inr fun x hx => ?_
      rw [find_modify, if_pos hek.symm, Option.map_eq_some_iff] at hx
      obtain ⟨y, -, rfl⟩ := hx
      rfl
    · rw [find_modify, if_neg (Ne.symm hek)]
      simpa [hek] using hk

/-! ### An interface drops to ERROR -/

/-- The entries of the queues of a port. -/
def State.queuesAt (s : State) (p : Port) : AMap Queue := s.queues.filter fun e => queuePort e.1 = p

theorem keepsHost_dropToError (s : State) (p : Port) :
    KeepsHost { (s.modPort p fun ps => { ps with iface := .error }) with queues := resetsStarted (s.queuesAt p) s.queues }
      (s.dropToError p) := by
  have h := keepsHost_startResets (s.queuesAt p) (s.modPort p fun ps => { ps with iface := .error })
  rwa [State.modPort_queues] at h

theorem State.dropToError_port (s : State) (p : Port) :
    (s.dropToError p).port p = { s.port p with iface := .error } := by
  rw [(keepsHost_dropToError s p).port p]
  cases p <;> rfl

theorem State.dropToError_dev (s : State) (p : Port) :
    (s.dropToError p).dev = { s.dev with lostPte := (s.dropToError p).dev.lostPte } := by
  have h := (keepsHost_dropToError s p).dev
  rwa [State.modPort_dev] at h

/-- Every queue of the port is under reset (R302). -/
theorem State.dropToError_resetting {s : State} {p : Port} {n : Nat} {q : Queue} (hp : queuePort n = p)
    (hq : find (s.dropToError p).queues n = some q) : q.resetting = true := by
  rw [(keepsHost_dropToError s p).queues] at hq
  have hsome : (find s.queues n).isSome := by
    rw [← isSome_find_resetsStarted (s.queuesAt p)]
    exact hq ▸ rfl
  obtain ⟨x, hx⟩ := Option.isSome_iff_exists.mp hsome
  exact resetting_of_find_resetsStarted
    (.inl ⟨(n, x), List.mem_filter.mpr ⟨mem_of_find hx, decide_eq_true hp⟩, rfl⟩) hq

end Sys2Proof.Machine
end

section
/-! SUPPORT. The writes of host registers (R8, R233, R250, R253, R278, R295, R301, R302, R306). -/

namespace Sys2Proof.Machine

/-! ### The command block and the bits a written 1 clears -/

theorem PortState.cmd_writeCmd {ps : PortState} (h : ps.done = true) (i j : Nat) (v : Word64) :
    (ps.writeCmd i v).cmd j = if j = i then v.toNat else ps.cmd j := by
  have hcmd : (ps.writeCmd i v).hcmd = put ps.hcmd i v := by
    by_cases h7 : i = 7 <;> simp [PortState.writeCmd, h, h7]
  unfold PortState.cmd getD
  rw [hcmd, find_put]
  split <;> rfl

theorem PortState.writeCmd_last {ps : PortState} (h : ps.done = true) (v : Word64) :
    (ps.writeCmd 7 v).done = false ∧ (ps.writeCmd 7 v).performed = false := by simp [PortState.writeCmd, h]

theorem PortState.writeCmd_done {ps : PortState} {i : Nat} (h : ps.done = true) (hi : i ≠ 7) (v : Word64) :
    (ps.writeCmd i v).done = true := by simp [PortState.writeCmd, h, hi]

/-- While a command performs, the block does not change (R295). -/
theorem PortState.writeCmd_busy {ps : PortState} (h : ps.done = false) (i : Nat) (v : Word64) : ps.writeCmd i v = ps := by
  simp [PortState.writeCmd, h]

theorem getLsbD_w1c (old v : Word64) : (w1c old v).getLsbD 63 = (old.getLsbD 63 && !v.getLsbD 63) := by
  unfold w1c
  split
  · next h =>
    rw [BitVec.getLsbD_and, h, show (0x7FFFFFFFFFFFFFFF#64).getLsbD 63 = false by decide, Bool.and_false, Bool.not_true,
      Bool.and_false]
  · next h => rw [Bool.eq_false_iff.mpr h, Bool.not_false, Bool.and_true]

/-! ### Registers of the device -/

theorem exec_vxLife (s : State) (p : Port) (v : Word64) :
    exec (.vxLife p v) s = .next (if bits v.toNat 63 49 = 0 ∧ bits v.toNat 31 20 = 0 then
      { s with dev := { s.dev with
        lifeh := bits v.toNat 19 0, capwu := bits v.toNat 48 32,
        bal := clampBal s.dev.bal (bits v.toNat 48 32) } } else s) := by
  change execVxLife p v s = _
  by_cases h1 : bits v.toNat 63 49 = 0 <;> by_cases h2 : bits v.toNat 31 20 = 0 <;> simp [execVxLife, h1, h2]

theorem State.deviceWrite_frozen {s : State} {p : Port} (t : State) (h : (s.port p).frozen = true) :
    s.deviceWrite p t = s.dropToError p := by simp [State.deviceWrite, h]

theorem State.deviceWrite_open {s : State} {p : Port} (t : State) (h : (s.port p).frozen = false) :
    s.deviceWrite p t = if (s.port (otherPort p)).frozen = false then t else s := by
  cases ho : (s.port (otherPort p)).frozen <;> simp [State.deviceWrite, h, ho]

/-- A write of a register that takes numbers up to `k`: it is performed for such a number, where no interface is frozen. -/
theorem State.deviceWrite_upTo {s : State} {p : Port} (t : State) (k n : Nat) (h : (s.port p).frozen = false) :
    s.deviceWrite p (if k < n then s else t) = if (s.port (otherPort p)).frozen = false ∧ n ≤ k then t else s := by
  rw [State.deviceWrite_open _ h]
  by_cases hn : n ≤ k
  · simp only [if_neg (Nat.not_lt.mpr hn), hn, and_true]
  · rw [if_pos (Nat.lt_of_not_le hn), ite_self, if_neg fun c => hn c.2]

theorem exec_vxSched_open {s : State} {p : Port} (v : Word32) (h : (s.port p).frozen = false) :
    exec (.vxSched p v) s = .next (if (s.port (otherPort p)).frozen = false ∧ bits v.toNat 4 0 ≤ 16 then
      { s with dev := { s.dev with rtres := bits v.toNat 4 0 } } else s) :=
  congrArg Host.Outcome.next (State.deviceWrite_upTo _ 16 (bits v.toNat 4 0) h)

theorem exec_vxDomain_open {s : State} {p : Port} (w : Word64) (h : (s.port p).frozen = false) :
    exec (.vxDomain p w) s = .next (if (s.port (otherPort p)).frozen = false ∧ w.toNat ≤ 143 then
      { s with dev := { s.dev with domain := w.toNat } } else s) :=
  congrArg Host.Outcome.next (State.deviceWrite_upTo _ 143 w.toNat h)

theorem exec_vxFlog_open {s : State} {p : Port} (w : Word64) (h : (s.port p).frozen = false) :
    exec (.vxFlog p w) s =
      .next (if s.flogOk p w.toNat then s.modPort p fun ps => { ps with flog := w } else s) := by
  change execVxFlog p w s = _
  cases hf : s.flogOk p w.toNat <;> simp [execVxFlog, h, hf]

/-- On a frozen interface a write of these three is not performed, and the interface drops to ERROR (R301, R302). -/
theorem exec_frozen_register {s : State} {p : Port} {v : Word32} {w : Word64} (h : (s.port p).frozen = true) {i : Instr}
    (hi : i ∈ [Instr.vxSched p v, .vxDomain p w, .vxFlog p w]) : exec i s = .next (s.dropToError p) := by
  simp only [List.mem_cons, List.not_mem_nil, or_false] at hi
  obtain rfl | rfl | rfl := hi
  · exact congrArg Host.Outcome.next (State.deviceWrite_frozen _ h)
  · exact congrArg Host.Outcome.next (State.deviceWrite_frozen _ h)
  · exact if_pos h

theorem exec_vxDbgctl_owned {s : State} {p : Port} {v : Word32} {x : Ctx} (hz : bits v.toNat 31 19 = 0)
    (hx : find s.ctxs (bits v.toNat 14 0) = some x) (hq : ∃ q ∈ s.queuesOf (bits v.toNat 14 0), queuePort q = p) :
    exec (.vxDbgctl p v) s = .next { s with
      ctxs := put s.ctxs (bits v.toNat 14 0)
        { x with dbgEn := bit v.toNat 16, stopHeat := bit v.toNat 17, step := bit v.toNat 18 } } := by
  change execVxDbgctl p v s = _
  have hany : (s.queuesOf (bits v.toNat 14 0)).any (fun q => queuePort q = p) = true := by simpa using hq
  simp [execVxDbgctl, hz, hany, modify_find _ hx]

/-! ### REGISTER_WRITE -/

theorem exec_registerWrite_frozen {s : State} {p : Port} {r : HostReg} (v : Word64) (hr : lockFreezes r = true)
    (h : (s.port p).frozen = true) : exec (.registerWrite p r v) s = .next (s.dropToError p) := by
  change execRegisterWrite p r v s = _
  simp [execRegisterWrite, hr, h]

/-- Every register in turn: what the write of one that is not frozen leaves in the port's state. -/
theorem exec_registerWrite_open {s : State} {p : Port} {r : HostReg} (v : Word64)
    (h : (lockFreezes r && (s.port p).frozen) = false) :
    ∃ ps : PortState, exec (.registerWrite p r v) s = .next (s.setPort p ps) ∧
    (∀ i, r = .config i → find ps.config i.val = some (v.truncate 32)) ∧
    (r = .bar true → ps.bar2 = v ∧ ps.bar0 = (s.port p).bar0) ∧ (r = .bar false → ps.bar0 = v ∧ ps.bar2 = (s.port p).bar2) ∧
    (∀ i, r = .hcmd i → ps = (s.port p).writeCmd i.val v) ∧
    (r = .flogw → ps.flogOvf = ((s.port p).flogOvf && !v.getLsbD 63)) ∧
    (r = .flogr → ps.flogR = v.truncate 32) ∧
    (r = .qstat → ps.qstat = w1c (s.port p).qstat v) ∧
    (r = .tdstat → ps.tdstat = w1c (s.port p).tdstat v) ∧
    (r = .hres ∨ r = .sstat → ps = s.port p) := by
  refine ⟨_, congrArg Host.Outcome.next (if_neg (Bool.eq_false_iff.mp h)), ?_, ?_, ?_, ?_, ?_, ?_, ?_, ?_, ?_⟩
  · rintro i rfl
    exact (find_put_self _ _ _).trans (congrArg some (BitVec.ofNat_toNat 32 v))
  · rintro rfl; exact ⟨rfl, rfl⟩
  · rintro rfl; exact ⟨rfl, rfl⟩
  · rintro i rfl; rfl
  · rintro rfl
    cases hv : v.getLsbD 63 <;> simp
  · rintro rfl; exact BitVec.ofNat_toNat 32 v
  · rintro rfl; rfl
  · rintro rfl; rfl
  · rintro (rfl | rfl) <;> rfl

/-- Settles O52: a write is performed while no interface that it minds is frozen; where the port's own is, it is the drop to
ERROR, whose resets leave the rest of the host's side as it was. -/
theorem hostRegisters : Obligations.HostRegisters := by
  refine ⟨exec_vxLife, ?unfrozen, ?frozen, ?dbg, ?regFrozen, ?regOpen⟩
  case unfrozen => exact fun s p v w h => ⟨exec_vxSched_open v h, exec_vxDomain_open w h, exec_vxFlog_open w h⟩
  case frozen =>
    intro s p v w h i hi
    have hport := State.dropToError_port s p
    exact ⟨_, exec_frozen_register h hi, by rw [hport], State.dropToError_dev s p, by rw [hport],
      fun _ _ => State.dropToError_resetting⟩
  case dbg => exact fun s p v x hz hx hq => exec_vxDbgctl_owned hz hx hq
  case regFrozen =>
    intro s p r v hr h
    have hport := State.dropToError_port s p
    exact ⟨_, exec_registerWrite_frozen v hr h, by rw [hport], by rw [hport], by rw [hport], by rw [hport],
      fun _ _ => State.dropToError_resetting⟩
  case regOpen =>
    intro s p r v h
    have hopen : (lockFreezes r && (s.port p).frozen) = false := by
      cases hr : lockFreezes r
      · rfl
      · exact h hr
    obtain ⟨ps, hexec, hconfig, hbar2, hbar0, hcmd, hflogw, hflogr, hqstat, htdstat, hread⟩ :=
      exec_registerWrite_open v hopen
    refine ⟨ps, hexec, hconfig, hbar2, hbar0, ?_, ?_, hflogw, hflogr, ?_, ?_, hread⟩
    · intro i hi hdone
      rw [hcmd i hi]
      refine ⟨?_, fun j hj => ?_, fun h7 => ?_, fun h7 => PortState.writeCmd_done hdone h7 v⟩
      · rw [PortState.cmd_writeCmd hdone, if_pos rfl]
      · rw [PortState.cmd_writeCmd hdone, if_neg hj]
      · rw [h7]
        exact PortState.writeCmd_last hdone v
    · intro i hi hdone
      rw [hcmd i hi, PortState.writeCmd_busy hdone]
    · intro hr; rw [hqstat hr, getLsbD_w1c]
    · intro hr; rw [htdstat hr, getLsbD_w1c]

end Sys2Proof.Machine
end

section
/-! SUPPORT. Bytes that BAR2 and a peer's write put in memory: each where it is served (R155, R292, R294, R306). -/

namespace Sys2Proof.Machine

/-! ### One byte from outside the device -/

theorem keepsHost_hostStore (s : State) (pa n v : Nat) : KeepsHost s (s.hostStore pa n v) :=
  (keepsHost_store s pa n v).trans ⟨rfl, rfl, rfl, rfl, rfl⟩

theorem State.frames_hostStore (s : State) (pa n v : Nat) : (s.hostStore pa n v).frames = s.frames := by
  unfold State.hostStore
  rw [State.store_eq]

theorem State.relays_hostStore (s : State) (pa n v : Nat) : (s.hostStore pa n v).relays = s.relays := by
  unfold State.hostStore
  rw [State.store_eq]

theorem State.byte_hostStore_byte (s : State) (pa a : Nat) (b : Byte) :
    (s.hostStore pa 1 b.toNat).byte a = if a = pa then b else s.byte a := by
  refine (State.byte_store s pa 1 b.toNat a).trans ?_
  by_cases h : a = pa
  · subst h; simp
  · rw [if_neg (by omega), if_neg h]

theorem State.tags_writeMem (s : State) (pa n v : Nat) : (s.writeMem pa n v).tags = s.tags := by rw [State.writeMem_eq]

theorem State.tag_hostStore_byte (s : State) (pa a v : Nat) :
    (s.hostStore pa 1 v).tag a = if a / 16 = pa / 16 then false else s.tag a := by
  have htags : (s.hostStore pa 1 v).tags = s.tags.filter fun e => !(pa / 16 ≤ e.1 && e.1 ≤ pa / 16) := by
    rw [← State.tags_writeMem s pa 1 v]
    rfl
  unfold State.tag getD
  rw [htags, find_filter_key _ fun k => !(pa / 16 ≤ k && k ≤ pa / 16)]
  by_cases h : a / 16 = pa / 16
  · simp [h]
  · have hout : (!(decide (pa / 16 ≤ a / 16) && decide (a / 16 ≤ pa / 16))) = true := by
      rw [← Bool.decide_and, decide_eq_false (by omega), Bool.not_false]
    rw [if_neg h, if_pos hout]

/-! ### A run of bytes -/

/-- From `s` to `t` the bytes `l` are written from address `a` up, each where `ok` lets it through, with the tags cleared;
relays and frames stay. -/
structure BytesWritten (ok : Nat → Bool) (a : Nat) (l : List Byte) (s t : State) : Prop where
  frames : t.frames = s.frames
  relays : t.relays = s.relays
  byte : ∀ b, t.byte b = if a ≤ b ∧ b < a + l.length ∧ ok b = true then l.getD (b - a) 0#8 else s.byte b
  tag : ∀ b, a ≤ b → b < a + l.length → ok b = true → t.tag b = false
  tagLess : ∀ b, s.tag b = false → t.tag b = false

theorem BytesWritten.nil (ok : Nat → Bool) (a : Nat) (s : State) : BytesWritten ok a [] s s where
  frames := rfl
  relays := rfl
  byte b := by rw [if_neg]; simp only [List.length_nil]; omega
  tag b h1 h2 := by simp only [List.length_nil] at h2; omega
  tagLess _ h := h

theorem BytesWritten.hostStore {ok : Nat → Bool} {a : Nat} (h : ok a = true) (s : State) (b : Byte) :
    BytesWritten ok a [b] s (s.hostStore a 1 b.toNat) where
  frames := State.frames_hostStore _ _ _ _
  relays := State.relays_hostStore _ _ _ _
  byte c := by
    rw [State.byte_hostStore_byte]
    by_cases hc : c = a
    · subst hc; simp [h]
    · rw [if_neg hc, if_neg]; simp only [List.length_singleton]; omega
  tag c h1 h2 _ := by
    simp only [List.length_singleton] at h2
    rw [State.tag_hostStore_byte, if_pos (by congr 1; omega)]
  tagLess c hc := by rw [State.tag_hostStore_byte, hc, ite_self]

theorem BytesWritten.blocked {ok : Nat → Bool} {a : Nat} (h : ok a = false) (s : State) (b : Byte) :
    BytesWritten ok a [b] s s where
  frames := rfl
  relays := rfl
  byte c := by
    rw [if_neg]
    rintro ⟨h1, h2, hok⟩
    simp only [List.length_singleton] at h2
    obtain rfl : c = a := by omega
    simp [h] at hok
  tag c h1 h2 hok := by
    simp only [List.length_singleton] at h2
    obtain rfl : c = a := by omega
    simp [h] at hok
  tagLess _ hc := hc

theorem BytesWritten.cons {ok : Nat → Bool} {a : Nat} {b : Byte} {l : List Byte} {s s1 t : State}
    (h1 : BytesWritten ok a [b] s s1) (h : BytesWritten ok (a + 1) l s1 t) : BytesWritten ok a (b :: l) s t where
  frames := h.frames.trans h1.frames
  relays := h.relays.trans h1.relays
  byte c := by
    rw [h.byte, h1.byte]
    simp only [List.length_cons, List.length_nil]
    by_cases hc : c = a
    · subst hc
      rw [if_neg (by omega), Nat.sub_self]
      simp
    · have hrest : (if a ≤ c ∧ c < a + (0 + 1) ∧ ok c = true then [b].getD (c - a) 0#8 else s.byte c) = s.byte c :=
        if_neg (by omega)
      rw [hrest]
      refine ite_congr (propext ?_) (fun hin => ?_) fun _ => rfl
      · exact ⟨fun ⟨h1, h2, h3⟩ => ⟨by omega, by omega, h3⟩, fun ⟨h1, h2, h3⟩ => ⟨by omega, by omega, h3⟩⟩
      · rw [show c - a = c - (a + 1) + 1 by omega, List.getD_cons_succ]
  tag c hlo hhi hok := by
    rw [List.length_cons] at hhi
    by_cases hc : c = a
    · exact h.tagLess c (h1.tag c hlo (by simp only [List.length_singleton]; omega) hok)
    · exact h.tag c (by omega) (by omega) hok
  tagLess c hc := h.tagLess c (h1.tagLess c hc)

/-! ### Where a byte gets through -/

theorem State.served_congr {s t : State} (h : KeepsHost s t) (hf : t.frames = s.frames) (p : Port) (tee : Bool) :
    t.served p tee = s.served p tee := by
  funext pa
  unfold State.served State.frame State.ctxPort
  rw [hf, h.ctxs, h.port]

theorem State.peerReaches_congr {s t : State} (h : KeepsHost s t) (hf : t.frames = s.frames) :
    t.peerReaches = s.peerReaches := by
  funext pa
  unfold State.peerReaches State.inCarve State.frame
  rw [hf, congrArg Device.integ1 h.dev, congrArg Device.integ2 h.dev]

theorem BytesWritten.withDev {ok : Nat → Bool} {a : Nat} {l : List Byte} {s t : State} (h : BytesWritten ok a l s t)
    (d : Device) : BytesWritten ok a l s { t with dev := d } := ⟨h.frames, h.relays, h.byte, h.tag, h.tagLess⟩

theorem bytesWritten_barWrite (p : Port) (tee : Bool) (l : List Byte) : ∀ (s : State) (a : Nat),
    BytesWritten (s.served p tee) a l s (s.barWrite p tee a l) := by
  induction l with
  | nil => exact fun s a => .nil _ _ _
  | cons b l ih =>
    intro s a
    have hrest : ∀ s1, KeepsHost s s1 → BytesWritten (s.served p tee) a [b] s s1 →
        BytesWritten (s.served p tee) a (b :: l) s (s1.barWrite p tee (a + 1) l) := fun s1 hk h1 =>
      h1.cons (State.served_congr hk h1.frames p tee ▸ ih s1 (a + 1))
    rw [State.barWrite]
    cases hs : s.served p tee a with
    | true =>
      exact hrest _ ((keepsHost_hostStore s a 1 b.toNat).trans ⟨rfl, rfl, rfl, rfl, rfl⟩)
        ((BytesWritten.hostStore hs s b).withDev _)
    | false => exact hrest _ (.refl s) (.blocked hs s b)

theorem bytesWritten_peerWrite (l : List Byte) : ∀ (s : State) (a : Nat),
    BytesWritten s.peerReaches a l s (s.peerWrite a l) := by
  induction l with
  | nil => exact fun s a => .nil _ _ _
  | cons b l ih =>
    intro s a
    have hrest : ∀ s1, KeepsHost s s1 → BytesWritten s.peerReaches a [b] s s1 →
        BytesWritten s.peerReaches a (b :: l) s (s1.peerWrite (a + 1) l) := fun s1 hk h1 =>
      h1.cons (State.peerReaches_congr hk h1.frames ▸ ih s1 (a + 1))
    rw [State.peerWrite]
    cases hs : s.peerReaches a with
    | true => exact hrest _ (keepsHost_hostStore s a 1 b.toNat) (.hostStore hs s b)
    | false => exact hrest _ (.refl s) (.blocked hs s b)

/-! ### BAR2 and peers' accesses -/

section
variable {s : State} {p : Port} {tee : Bool} {a : Nat}

theorem exec_bar2Access_read {n : Nat} (h : ∀ i, i < n → s.beingZeroed (a + i) = false) :
    exec (.bar2Access p tee a n none) s = .next (s.modPort p fun ps => { ps with
      readData := (List.range n).map fun i => if s.served p tee (a + i) then s.byte (a + i) else 0xFF#8 }) := by
  refine if_neg ?_
  simp +contextual [h]

theorem exec_bar2Access_write (n : Nat) {l : List Byte} (h : ∀ i, i < l.length → s.beingZeroed (a + i) = false) :
    exec (.bar2Access p tee a n (some l)) s = .next (s.barWrite p tee a l) := by
  refine if_neg ?_
  simp +contextual [h]

theorem exec_peerDeviceAccess_read (s : State) (k a n : Nat) : exec (.peerDeviceAccess ⟨k, .read a n⟩) s = .next s :=
  ite_self _

theorem exec_peerDeviceAccess_down {k : Nat} (op : PeerOp) (h : s.linkUp k = false) :
    exec (.peerDeviceAccess ⟨k, op⟩) s = .next s := by
  refine if_pos ?_
  simp [h]

theorem exec_peerDeviceAccess_write {k : Nat} {l : List Byte} (hk : s.linkUp k = true)
    (h : ∀ i, i < l.length → s.beingZeroed (a + i) = false) :
    exec (.peerDeviceAccess ⟨k, .write a l⟩) s = .next (s.peerWrite a l) := by
  refine (if_neg ?_).trans (if_neg ?_)
  · simp [hk]
  · simp +contextual [h]

end

end Sys2Proof.Machine
end

section
/-! SUPPORT. The trusted interface and SPDM (R290, R296, R300 to R303, R305). -/

namespace Sys2Proof.Machine

/-! ### Requests to the interface -/

theorem PortState.frozen_iff (ps : PortState) : ps.frozen = true ↔ ps.iface = .locked ∨ ps.iface = .run := by
  simp [PortState.frozen]

section
variable {s : State} {p : Port}

theorem State.tdisp_noSession (suits : Bool) (t : State) (h : (s.port p).sessions = 0) : s.tdisp p suits t = s := if_pos h

theorem State.tdisp_session (suits : Bool) (t : State) (h : (s.port p).sessions ≠ 0) :
    s.tdisp p suits t = if suits = true then t else s.answer p .error := if_neg h

theorem exec_interface_noSession (h : (s.port p).sessions = 0) {i : Instr}
    (hi : i ∈ [Instr.lockInterface p, .startInterface p, .stopInterface p]) : exec i s = .next s := by
  simp only [List.mem_cons, List.not_mem_nil, or_false] at hi
  obtain rfl | rfl | rfl := hi <;> exact congrArg Host.Outcome.next (State.tdisp_noSession _ _ h)

theorem exec_lockInterface_session (h : (s.port p).sessions ≠ 0) :
    exec (.lockInterface p) s = .next (if (s.port p).iface = .unlocked then
      s.modPort p fun ps => { ps with iface := .locked, report := s.interfaceReport p } else s.answer p .error) := by
  refine congrArg Host.Outcome.next ((State.tdisp_session _ _ h).trans ?_)
  simp only [decide_eq_true_eq]

theorem exec_startInterface_session (h : (s.port p).sessions ≠ 0) :
    exec (.startInterface p) s = .next (if (s.port p).iface = .locked then
      s.modPort p fun ps => { ps with iface := .run } else s.answer p .error) := by
  refine congrArg Host.Outcome.next ((State.tdisp_session _ _ h).trans ?_)
  simp only [decide_eq_true_eq]

end

/-! ### Contexts end -/

theorem State.ctxs_stopContext (s : State) (c : Nat) : (s.stopContext c).ctxs = s.ctxs := by
  unfold State.stopContext
  extract_lets mine
  exact ((keepsHost_abortCollectives s mine 4).trans (keepsHost_dropRelays _ fun _ rl => mine rl.field)).ctxs

theorem State.ctxs_endContext (s : State) (c : Nat) : (s.endContext c).ctxs = del s.ctxs c := by
  unfold State.endContext
  extract_lets mine s1 s2 drop
  have h1 : KeepsHost s s1 := .foldl (fun s n => keepsHost_zeroFrames s n 1) _ _
  have h2 : KeepsHost s s2 := h1.thenFoldl (fun s n => keepsHost_setFrame s n _) _
  exact congrArg (del · c) h2.ctxs

/-- The contexts of a list stop and end, one after another. -/
def State.endContexts (s : State) (l : List Nat) : State := l.foldl (fun s c => (s.stopContext c).endContext c) s

theorem State.find_ctxs_endContexts (l : List Nat) (s : State) (k : Nat) :
    find (s.endContexts l).ctxs k = if k ∈ l then none else find s.ctxs k := by
  induction l generalizing s with
  | nil => simp [State.endContexts]
  | cons c l ih =>
    refine (ih _).trans ?_
    rw [State.ctxs_endContext, State.ctxs_stopContext, find_del]
    by_cases hk : k = c <;> simp [hk]

theorem State.mem_ctxsOf {s : State} {c : Nat} {x : Ctx} (h : find s.ctxs c = some x) : c ∈ s.ctxsOf x.port :=
  List.mem_map.mpr ⟨(c, x), List.mem_filter.mpr ⟨mem_of_find h, decide_eq_true rfl⟩, rfl⟩

/-- Before it unlocks, a stop from ERROR or RUN ends every context of the port (R300). -/
theorem exec_stopInterface_session {s : State} {p : Port} (h : (s.port p).sessions ≠ 0) :
    exec (.stopInterface p) s =
      .next ((if (s.port p).iface = .error ∨ (s.port p).iface = .run then s.endContexts (s.ctxsOf p) else s).modPort p
        fun ps => { ps with iface := .unlocked, report := [] }) := by
  refine congrArg Host.Outcome.next ((State.tdisp_session _ _ h).trans ?_)
  simp only [if_true, Bool.or_eq_true, decide_eq_true_eq]
  rfl

theorem exec_linkSecurityError (s : State) (p : Port) :
    exec (.linkSecurityError p) s = .next (if (s.port p).frozen then s.dropToError p else s) := rfl

/-! ### SPDM -/

theorem State.port_answer (s : State) (p : Port) (a : SpdmAnswer) :
    (s.answer p a).port p = { s.port p with spdm := (s.port p).spdm ++ [a] } := State.port_modPort _ _ _

theorem State.dev_answer (s : State) (p : Port) (a : SpdmAnswer) : (s.answer p a).dev = s.dev := State.modPort_dev _ _ _

theorem State.port_takeLinkKey (s : State) (k : Option (BitVec 16)) (p : Port) : (s.takeLinkKey k).port p = s.port p := by
  unfold State.takeLinkKey
  split
  · rfl
  · split <;> cases p <;> rfl

theorem State.linkGen_takeLinkKey_first {s : State} (h : s.dev.linkGen = none) (g : BitVec 16) :
    (s.takeLinkKey (some g)).dev.linkGen = some g.toNat := by simp [State.takeLinkKey, newerKey, h]

/-- Of two link keys the newer is held, less than 2^15 generations apart (R305). -/
theorem State.linkGen_takeLinkKey {s : State} {m : Nat} (h : s.dev.linkGen = some m) (g : BitVec 16) :
    (s.takeLinkKey (some g)).dev.linkGen =
      if (g - BitVec.ofNat 16 m).toNat < 2 ^ 15 then some g.toNat else some m := by
  by_cases hn : (g - BitVec.ofNat 16 m).toNat < 2 ^ 15
  · simp only [State.takeLinkKey, newerKey, h, hn, decide_true, if_true]
  · simp only [State.takeLinkKey, newerKey, h, hn, decide_false, if_false, Bool.false_eq_true]

/-- The state after a KEY_EXCHANGE on a port, its link key apart: the signed answer, and a session more (R303). -/
def State.sessionOpened (s : State) (p : Port) (n : Nat) : State :=
  let text := Config.certificate ++ nonceBytes n
  let s1 := s.answer p (.signature text (Config.sign text n).toNat)
  (s1.modPort p fun ps => { ps with sessions := (s.port p).sessions + 1 }).answer p (.session ((s.port p).sessions + 1))

theorem exec_keyExchange (s : State) (p : Port) (n : Nat) (k : Option (BitVec 16)) :
    exec (.keyExchange p ⟨n, k⟩) s = .next ((s.sessionOpened p n).takeLinkKey k) := by
  cases p <;> rfl

theorem State.dev_sessionOpened (s : State) (p : Port) (n : Nat) : (s.sessionOpened p n).dev = s.dev := by
  unfold State.sessionOpened
  rw [State.dev_answer, State.modPort_dev, State.dev_answer]

theorem State.port_sessionOpened (s : State) (p : Port) (n : Nat) :
    (s.sessionOpened p n).port p = { s.port p with
      sessions := (s.port p).sessions + 1,
      spdm := (s.port p).spdm ++ [.signature (Config.certificate ++ nonceBytes n)
        (Config.sign (Config.certificate ++ nonceBytes n) n).toNat, .session ((s.port p).sessions + 1)] } := by
  unfold State.sessionOpened
  simp only [State.port_answer, State.port_modPort, List.append_assoc, List.cons_append, List.nil_append]

/-- Settles O53: requests by the state they meet, the end of the port's contexts, the drop to ERROR, the bytes that get
through from outside one by one, and the answers of SPDM. -/
theorem interfacesAndAttestation : Obligations.InterfacesAndAttestation := by
  refine ⟨fun s p h i hi => exec_interface_noSession h hi,
    fun s p h => ⟨exec_lockInterface_session h, exec_startInterface_session h⟩, ?stop, ?linkError,
    fun s p tee a n h => exec_bar2Access_read h, ?barWrite,
    fun s k a n op => ⟨exec_peerDeviceAccess_read s k a n, exec_peerDeviceAccess_down op⟩, ?peerWrite, ?spdm⟩
  case stop =>
    intro s p h
    refine ⟨_, exec_stopInterface_session h, by rw [State.port_modPort], by rw [State.port_modPort], ?_, ?_⟩
    · intro hi c x hx hp
      rw [State.modPort_ctxs, if_pos hi, State.find_ctxs_endContexts] at hx
      split at hx
      · cases hx
      · next hc => exact hc (hp ▸ State.mem_ctxsOf hx)
    · intro c hc
      rw [State.modPort_ctxs]
      split
      · rw [State.find_ctxs_endContexts, if_neg hc]
      · rfl
  case linkError =>
    intro s p
    refine ⟨_, exec_linkSecurityError s p, fun h => ?_, fun h => if_neg fun hf => ?_⟩
    · rw [if_pos ((s.port p).frozen_iff.mpr h)]
      exact ⟨by rw [State.dropToError_port], fun _ _ => State.dropToError_resetting⟩
    · have hl := (s.port p).frozen_iff.mp hf
      rcases h with h | h <;> simp [h] at hl
  case barWrite =>
    intro s p tee a n l h
    have hw := bytesWritten_barWrite p tee l s a
    exact ⟨_, exec_bar2Access_write n h, hw.frames, hw.relays, fun b => ⟨hw.byte b, hw.tag b⟩⟩
  case peerWrite =>
    intro s k a l hk h
    have hw := bytesWritten_peerWrite l s a
    exact ⟨_, exec_peerDeviceAccess_write hk h, hw.frames, hw.relays, fun b => ⟨hw.byte b, hw.tag b⟩⟩
  case spdm =>
    intro s p n i k
    have hdev := State.dev_sessionOpened s p n
    refine ⟨Config.certificate ++ nonceBytes n, _, rfl, rfl, exec_keyExchange s p n k, ?_, ?_, ?_, ?_, ?_⟩
    · rintro rfl; exact hdev
    · rintro g rfl
      rw [← hdev]
      cases hg : (s.sessionOpened p n).dev.linkGen with
      | none => exact State.linkGen_takeLinkKey_first hg g
      | some m => exact State.linkGen_takeLinkKey hg g
    · rw [State.port_takeLinkKey, State.port_sessionOpened]
    · rw [State.port_takeLinkKey, State.port_sessionOpened]
    · change execGetMeasurements p i n s = _
      unfold execGetMeasurements
      cases s.measurement p i.toNat n <;> rfl

end Sys2Proof.Machine
end

section
/-! SUPPORT. A failed scan where the map of fields holds one key twice (R257, R258, R264). -/

namespace Sys2Proof.Machine

/-- What ROTATION_SCAN_DONE does when the core in rotation fails: the fields that drew on it are suspect, and then its cluster
retires. -/
theorem exec_rotationScanDone_coreFailed {s : State} {g : Nat} {G : RotGroup} (hg : find s.rot g = some G)
    (hscan : G.scanning = true) (hmem : G.current ∈ G.members) (hcore : G.slices = false) :
    exec (.rotationScanDone g false) s =
      .next ((s.suspectUnit (.core G.current)).retireCluster (G.current / 4)) := by
  change execRotationScanDone g false s = _
  simp [execRotationScanDone, hg, hscan, hmem, hcore]

/-- A field that drew on core 0. -/
def drawnField : Field := { probeField with used := [(.core 0, 0)] }

/-- A field of another queue that drew on nothing. -/
def shadowedField : Field := { probeField with queue := 1 }

/-- The group of core 0 alone, which is being scanned. -/
def scannedGroup : RotGroup := ⟨false, 0, [0], 0, true⟩

/-- A state whose map of fields is not canonical: it lists key 0 twice, and `find` sees the field that drew on core 0. Its
relay stands on cluster 0 with a save area that has failed; no cluster is spare, and the context's map names clusters 0 and
1. -/
def doubledFields : State :=
  { State.reset with
    clusters := [24, 25, 50, 51, 76, 77, 102, 103].map fun c => (c, { clusterInit c with status := .retired })
    rot := [(0, scannedGroup)]
    ctxs := [(0, { probeCtx with lmap := [(0, 0), (1, 1)] })]
    queues := [(0, probeQueue)]
    fields := [(0, drawnField), (0, shadowedField)]
    relays := [(0, { relayStart 0 drawnField 0 0 0 [] [] with save := { regionNone with bad := true } })] }

/-- As cluster 0 retires, its relay moves to cluster 1, its failed save area tears the context down, the queue of the context
goes with its field (R244, R264), and the other entry of key 0 is the one that `find` sees. -/
theorem doubledFields_retireCluster_fields :
    ((doubledFields.suspectUnit (.core 0)).retireCluster 0).fields = [(0, shadowedField)] := by decide +kernel

/-- Refutes O57, in its third clause: the statement speaks of every state, so also of one whose map of fields holds a key
twice (`rising` fails). There the suspect field is torn down with its context as the cluster of the failed core retires, and
under its number `find` now meets another field, which is not suspect. -/
theorem not_wearAndClocks : ¬ Obligations.WearAndClocks := by
  unfold Obligations.WearAndClocks
  rintro ⟨-, -, hscan, -⟩
  obtain ⟨t, hexec, -, -, -, -, -, hsuspect⟩ :=
    hscan doubledFields 0 0 scannedGroup false rfl rfl rfl (List.mem_singleton_self 0)
  have ht : t = (doubledFields.suspectUnit (.core 0)).retireCluster 0 :=
    Host.Outcome.next.inj (hexec.symm.trans
      (exec_rotationScanDone_coreFailed (G := scannedGroup) rfl rfl (List.mem_singleton_self 0) rfl))
  have hfound : find t.fields 0 = some shadowedField := by
    rw [ht, doubledFields_retireCluster_fields]
    rfl
  have hdrew : ∃ e ∈ drawnField.used, e.1 = if scannedGroup.slices then .slice 0 else .core 0 :=
    ⟨(.core 0, 0), List.mem_singleton_self _, rfl⟩
  exact absurd (hsuspect rfl 0 drawnField shadowedField rfl hdrew hfound) (by decide)

end Sys2Proof.Machine
end

section
/-! SUPPORT. EXIT in a heat bound in groups wider than the heat (R78, R81). -/

namespace Sys2Proof.Machine

/-- A heat bound with G = 6, in groups of 64 lanes, which LBIND never gives (R79). -/
def wideHeat : Strand := { heatStart 0 [] [] with g := 6#3 }

/-- Lane 0 of that heat. -/
def wideFocus : Focus := ⟨.heat 0 0 0, 1#32, none⟩

/-- That heat alone, about to issue a word in its lane 0. -/
def wideState : State :=
  { State.reset with
    relays := [(0, { relayStart 0 probeField 0 0 0 [] [] with heats := [(0, wideHeat)] })], focus := some wideFocus }

/-- EXIT with code 0 in every lane. -/
def plainExit : ImmF := ⟨⟨12#4, false⟩, 0#4, 0#8, 0#8, 0#29⟩

theorem wideState_issues : Issues wideState wideFocus wideHeat := ⟨rfl, rfl, by decide, rfl⟩

theorem wideState_exit : exec (.exit plainExit) wideState = .next (wideState.exitLanes wideFocus wideHeat plainExit) := by
  change execExit plainExit wideState = _
  rw [execExit, withUnit_issues wideState_issues]
  rfl

/-- Lane 0 meets 0x40 and so does not exit, but no fragment takes it: it runs on. -/
theorem wideState_exitLanes_running :
    ((wideState.exitLanes wideFocus wideHeat plainExit).strand wideFocus.unit).map (fun y => (y.lane 0).ls) =
      some .running := by decide +kernel

/-- Refutes O21, in its clause of bound heats: the statement speaks of every state, so also of one whose heat has G = 6 or
7, where R78 has 5 at most. There EXIT meets its 0x40, yet a heat of 32 lanes has no group of 64 that could park. -/
theorem not_exitRetires : ¬ Obligations.ExitRetires := by
  unfold Obligations.ExitRetires
  intro h
  obtain ⟨hexit, -⟩ := h wideState wideFocus wideHeat plainExit wideState_issues rfl
  obtain ⟨-, hbound, -⟩ := hexit (by decide) ⟨rfl, fun _ _ => rfl⟩ rfl
  obtain ⟨t, y, ht, hy, hparked⟩ := hbound rfl rfl (by decide)
  obtain rfl := Host.Outcome.next.inj (ht.symm.trans wideState_exit)
  have hrunning := wideState_exitLanes_running
  rw [hy] at hrunning
  have hls : (y.lane 0).ls = .running := Option.some.inj hrunning
  exact absurd (hls.symm.trans (hparked 0 (by decide) (by decide)).1) (by decide)

end Sys2Proof.Machine
end

section
/-! SUPPORT. The distributor's choice of a cluster: `State.best` finds what `State.Chooses` says (R234, R235). -/

namespace Sys2Proof.Machine

/-! ### The first of the highest -/

/-- Of what stands best and the next offer, the one to keep: an offer wins with a higher score only. -/
def keepBetter {α : Type} (b o : Option (Int × α)) : Option (Int × α) :=
  match o, b with
  | none, b => b
  | some v, none => some v
  | some v, some w => if w.1 < v.1 then some v else some w

theorem foldl_keepBetter_below {α : Type} (x : Int) (l : List (Option (Int × α))) : ∀ b : Option (Int × α),
    (∀ v, b = some v → v.1 < x) → (∀ o ∈ l, ∀ v, o = some v → v.1 < x) →
    ∀ v, l.foldl keepBetter b = some v → v.1 < x := by
  induction l with
  | nil => exact fun b hb _ => hb
  | cons o l ih =>
    intro b hb hl
    refine ih (keepBetter b o) (fun v hv => ?_) fun p hp => hl p (List.mem_cons_of_mem _ hp)
    have ho := hl o (List.mem_cons_self ..)
    unfold keepBetter at hv
    split at hv
    · exact hb v hv
    · exact ho v hv
    · split at hv
      · exact ho v hv
      · exact hb v hv

theorem foldl_keepBetter_stays {α : Type} (x : Int × α) (l : List (Option (Int × α)))
    (h : ∀ o ∈ l, ∀ v, o = some v → v.1 ≤ x.1) : l.foldl keepBetter (some x) = some x := by
  induction l with
  | nil => rfl
  | cons o l ih =>
    have hkeep : keepBetter (some x) o = some x := by
      cases o with
      | none => rfl
      | some v => exact if_neg (Int.not_lt.mpr (h (some v) (List.mem_cons_self ..) v rfl))
    rw [List.foldl_cons, hkeep]
    exact ih fun p hp => h p (List.mem_cons_of_mem _ hp)

theorem foldl_keepBetter_first {α : Type} (x : Int × α) (l r : List (Option (Int × α)))
    (hl : ∀ o ∈ l, ∀ v, o = some v → v.1 < x.1) (hr : ∀ o ∈ r, ∀ v, o = some v → v.1 ≤ x.1) :
    (l ++ some x :: r).foldl keepBetter none = some x := by
  have hbelow := foldl_keepBetter_below x.1 l none (fun _ h => nomatch h) hl
  have hx : keepBetter (l.foldl keepBetter none) (some x) = some x := by
    cases hb : l.foldl keepBetter none with
    | none => rfl
    | some w => exact if_pos (hbelow w hb)
  rw [List.foldl_append, List.foldl_cons, hx]
  exact foldl_keepBetter_stays x r hr

/-! ### The clusters' offers -/

/-- What a cluster offers the work: its score, its number and the seats, where it may hold the work and has room. -/
def State.clusterOffer (s : State) (f : Field) (squads : List (Nat × List Nat)) (r : Option Nat) (ok : Nat → Bool) (c : Nat) :
    Option (Int × Nat × List (Nat × Nat × List Nat)) :=
  if !ok c || !s.eligible c f r then none else (s.fitOn c f squads r).map fun a => (s.score c f r, c, a)

theorem State.best_eq_offers (s : State) (f : Field) (squads : List (Nat × List Nat)) (r : Option Nat) (ok : Nat → Bool) :
    s.best f squads r ok = ((clusterIds.map (s.clusterOffer f squads r ok)).foldl keepBetter none).map fun b => b.2 := by
  unfold State.best
  rw [List.foldl_map]
  congr 2
  funext b c
  unfold State.clusterOffer keepBetter
  cases hc : (!ok c || !s.eligible c f r) with
  | true => simp
  | false =>
    cases s.fitOn c f squads r with
    | none => simp
    | some a => cases b <;> simp

theorem State.clusterOffer_eq_some {s : State} {f : Field} {squads : List (Nat × List Nat)} {r : Option Nat} {ok : Nat → Bool}
    {c : Nat} {v : Int × Nat × List (Nat × Nat × List Nat)} (h : s.clusterOffer f squads r ok c = some v) :
    ok c = true ∧ s.eligible c f r = true ∧ (s.fitOn c f squads r).isSome = true ∧ v.1 = s.score c f r := by
  unfold State.clusterOffer at h
  split at h
  · cases h
  · next hok =>
    obtain ⟨a, ha, rfl⟩ := Option.map_eq_some_iff.mp h
    simp only [Bool.or_eq_true, Bool.not_eq_true', not_or, Bool.not_eq_false] at hok
    exact ⟨hok.1, hok.2, by rw [ha]; rfl, rfl⟩

/-- A chosen cluster is the best one, with the seats chosen for the work. -/
theorem State.Chooses.best {s : State} {f : Field} {squads : List (Nat × List Nat)} {r : Option Nat} {c : Nat}
    {a : List (Nat × Nat × List Nat)} (h : s.Chooses f squads r c a) :
    s.best f squads r (fun d => (s.mapped f d).isSome) = some (c, a) := by
  obtain ⟨⟨hc, hmap, helig⟩, hfit, hmost⟩ := h
  have hoffer : s.clusterOffer f squads r (fun d => (s.mapped f d).isSome) c = some (s.score c f r, c, a) := by
    simp [State.clusterOffer, hmap, helig, hfit]
  obtain ⟨l, k, hsplit⟩ := List.append_of_mem (List.mem_range.mpr hc)
  have hrise : (l ++ c :: k).Pairwise (· < ·) := hsplit ▸ List.pairwise_lt_range
  have hless : ∀ d ∈ l, d < c := fun d hd =>
    (List.pairwise_append.mp hrise).2.2 d hd c (List.mem_cons_self ..)
  have hmore : ∀ d ∈ k, c < d := (List.pairwise_cons.mp (List.pairwise_append.mp hrise).2.1).1
  have hrange : ∀ d ∈ l ++ c :: k, d < 104 := fun d hd => List.mem_range.mp (hsplit ▸ hd)
  have hothers : ∀ d ∈ l ++ c :: k, d ≠ c → ∀ v, s.clusterOffer f squads r (fun d => (s.mapped f d).isSome) d = some v →
      v.1 < s.score c f r ∨ (v.1 = s.score c f r ∧ c < d) := by
    intro d hd hne v hv
    obtain ⟨hm, he, hf, hs⟩ := State.clusterOffer_eq_some hv
    rw [hs]
    exact hmost d ⟨hrange d hd, hm, he⟩ hf hne
  rw [State.best_eq_offers, show clusterIds = l ++ c :: k from hsplit, List.map_append, List.map_cons, hoffer,
    foldl_keepBetter_first]
  · rfl
  · intro o ho v hv
    obtain ⟨d, hd, rfl⟩ := List.mem_map.mp ho
    have hlt := hless d hd
    rcases hothers d (List.mem_append_left _ hd) (by omega) v hv with h | h
    · exact h
    · omega
  · intro o ho v hv
    obtain ⟨d, hd, rfl⟩ := List.mem_map.mp ho
    have hlt := hmore d hd
    rcases hothers d (List.mem_append_right _ (List.mem_cons_of_mem _ hd)) (by omega) v hv with h | h
    · exact Int.le_of_lt h
    · exact Int.le_of_eq h.1

end Sys2Proof.Machine
end

section
/-! SUPPORT. Relays leave residency, return and move: what each step leaves in the map of relays, and that memory stays
(R22, R54, R147, R236, R237, R240). -/

namespace Sys2Proof.Machine

/-! ### Steps beside the relays -/

/-- From `s` to `t` neither the relays nor memory change. -/
structure KeepsRelays (s t : State) : Prop where
  relays : t.relays = s.relays
  mem : t.mem = s.mem

theorem KeepsRelays.refl (s : State) : KeepsRelays s s := ⟨rfl, rfl⟩

theorem KeepsRelays.trans {s t u : State} (h : KeepsRelays s t) (k : KeepsRelays t u) : KeepsRelays s u :=
  ⟨k.relays.trans h.relays, k.mem.trans h.mem⟩

theorem KeepsRelays.foldl {α : Type} {g : State → α → State} (h : ∀ s a, KeepsRelays s (g s a)) (l : List α) (s : State) :
    KeepsRelays s (l.foldl g s) := by
  induction l generalizing s with
  | nil => exact .refl s
  | cons a l ih => exact (h s a).trans (ih _)

theorem keepsRelays_modField (s : State) (n : Nat) (g : Field → Field) : KeepsRelays s (s.modField n g) := ⟨rfl, rfl⟩

theorem keepsRelays_setCore (s : State) (p : Nat) (x : CoreState) : KeepsRelays s (s.setCore p x) := ⟨rfl, rfl⟩

theorem keepsRelays_noteUse (s : State) (rl : Relay) : KeepsRelays s (s.noteUse rl) := by
  unfold State.noteUse
  split
  · exact .refl s
  · exact keepsRelays_modField _ _ _

theorem keepsRelays_drawSlice (s : State) (fid pa : Nat) : KeepsRelays s (s.drawSlice fid pa) := by
  unfold State.drawSlice
  split
  · exact ⟨rfl, rfl⟩
  · exact .refl s

theorem keepsRelays_sweepGrants (s : State) : KeepsRelays s s.sweepGrants := ⟨rfl, rfl⟩

theorem keepsRelays_seatWalks (s : State) (r : Nat) (a : List (Nat × Nat × List Nat)) : KeepsRelays s (s.seatWalks r a) :=
  ⟨rfl, rfl⟩

theorem keepsRelays_seatGens (s : State) (rl : Relay) : KeepsRelays s (s.seatGens rl) :=
  .foldl (fun s _ => .foldl (fun s _ => .foldl (fun s _ => keepsRelays_setCore s _ _) _ s) _ s) _ s

/-! ### One relay changes -/

/-- From `s` to `t` relay r is replaced by `y`; the other relays and memory stay. -/
structure PutsRelay (s : State) (r : Nat) (y : Relay) (t : State) : Prop where
  relays : t.relays = put s.relays r y
  mem : t.mem = s.mem

theorem PutsRelay.findAt {s t : State} {r : Nat} {y : Relay} (h : PutsRelay s r y t) (n : Nat) :
    find t.relays n = if n = r then some y else find s.relays n := by rw [h.relays, find_put]

theorem PutsRelay.find_self {s t : State} {r : Nat} {y : Relay} (h : PutsRelay s r y t) : find t.relays r = some y := by
  rw [h.findAt, if_pos rfl]

theorem PutsRelay.then {s t u : State} {r : Nat} {y : Relay} (h : PutsRelay s r y t) (k : KeepsRelays t u) :
    PutsRelay s r y u := ⟨k.relays.trans h.relays, k.mem.trans h.mem⟩

theorem PutsRelay.again {s t u : State} {r : Nat} {y z : Relay} (h : PutsRelay s r y t) (k : PutsRelay t r z u) :
    PutsRelay s r z u := ⟨by rw [k.relays, h.relays, put_put], k.mem.trans h.mem⟩

theorem KeepsRelays.thenPuts {s t u : State} {r : Nat} {y : Relay} (h : KeepsRelays s t) (k : PutsRelay t r y u) :
    PutsRelay s r y u := ⟨by rw [k.relays, h.relays], k.mem.trans h.mem⟩

theorem putsRelay_modRelay {s : State} {r : Nat} {rl : Relay} (h : find s.relays r = some rl) (g : Relay → Relay) :
    PutsRelay s r (g rl) (s.modRelay r g) := ⟨modify_find g h, rfl⟩

theorem State.modRelay_none {s : State} {r : Nat} (h : find s.relays r = none) (g : Relay → Relay) : s.modRelay r g = s := by
  unfold State.modRelay
  rw [modify_none g h]

theorem State.find_modRelay (s : State) (r n : Nat) (g : Relay → Relay) :
    find (s.modRelay r g).relays n = if n = r then (find s.relays r).map g else find s.relays n := find_modify _ _ _ _

theorem putsRelay_paged {s : State} {r : Nat} {rl : Relay} (h : find s.relays r = some rl) (y : Relay) :
    PutsRelay s r y (s.paged r y) := by
  unfold State.paged
  rw [h]
  have hput : PutsRelay s r y { s with relays := put s.relays r y } := ⟨rfl, rfl⟩
  exact hput.then (.foldl (fun s _ => .foldl (fun s _ => keepsRelays_drawSlice s _ _) _ s) _ _)

/-! ### What a relay keeps as it leaves and as it is seated -/

theorem Relay.setEntry_eq (rl : Relay) (e : MEntry) : rl.setEntry e = { rl with mq := (rl.setEntry e).mq } := by
  unfold Relay.setEntry
  split <;> rfl

theorem Relay.unbegin_eq (rl : Relay) (e : MEntry) (fails : Bool) :
    rl.unbegin e fails = { rl with mq := (rl.unbegin e fails).mq, banks := (rl.unbegin e fails).banks } := by
  unfold Relay.unbegin
  rw [Relay.setEntry_eq]
  cases e.op.bank <;> rfl

theorem Relay.abandon_eq (rl : Relay) : rl.abandon = { rl with mq := rl.abandon.mq, banks := rl.abandon.banks } := by
  unfold Relay.abandon
  split
  · exact Relay.unbegin_eq _ _ _
  · rfl

theorem Relay.foldl_pages_eq {α : Type} {g : Relay → α → Relay} (h : ∀ rl a, g rl a = { rl with pages := (g rl a).pages })
    (l : List α) (rl : Relay) : l.foldl g rl = { rl with pages := (l.foldl g rl).pages } := by
  induction l generalizing rl with
  | nil => rfl
  | cons a l ih => rw [List.foldl_cons, ih, h]

theorem Relay.setPins_eq (rl : Relay) (range : List Nat) (v : Bool) :
    rl.setPins range v = { rl with pages := (rl.setPins range v).pages } := Relay.foldl_pages_eq (fun _ _ => rfl) range rl

theorem Relay.pinAgain_eq (rl : Relay) : rl.pinAgain = { rl with pages := rl.pinAgain.pages } := by
  unfold Relay.pinAgain
  extract_lets pins rl1
  have hpins : ∀ (rl : Relay) (x : Strand), pins x rl = { rl with pages := (pins x rl).pages } := by
    intro rl x
    unfold pins
    split
    · exact Relay.setPins_eq _ _ _
    · rfl
  have hpacer : rl1 = { rl with pages := rl1.pages } := by
    unfold rl1
    split
    · exact hpins _ _
    · rfl
  rw [Relay.foldl_pages_eq fun rl e => hpins rl e.2, hpacer]

/-- What moving leaves of a relay: which one it is, what its scratch holds, and whether its save area has failed. -/
structure Relay.SameWork (x y : Relay) : Prop where
  field : y.field = x.field
  linear : y.linear = x.linear
  scratch : y.scratch = x.scratch
  bad : y.save.bad = x.save.bad

theorem Relay.SameWork.trans {x y z : Relay} (h : x.SameWork y) (k : y.SameWork z) : x.SameWork z :=
  ⟨k.field.trans h.field, k.linear.trans h.linear, k.scratch.trans h.scratch, k.bad.trans h.bad⟩

theorem Relay.sameWork_pinAgain (rl : Relay) : rl.SameWork rl.pinAgain := by
  rw [Relay.pinAgain_eq]
  exact ⟨rfl, rfl, rfl, rfl⟩

theorem Relay.place_pinAgain (rl : Relay) : rl.pinAgain.place = rl.place := by rw [Relay.pinAgain_eq]

theorem Relay.sameWork_seat (rl : Relay) (c : Nat) (a : List (Nat × Nat × List Nat)) : rl.SameWork (rl.seat c a) :=
  ⟨rfl, rfl, rfl, rfl⟩

theorem Relay.sameWork_renewed (rl : Relay) : rl.SameWork rl.renewed := ⟨rfl, rfl, rfl, rfl⟩

theorem Relay.sameWork_leave (rl : Relay) : rl.SameWork rl.leave := by
  have habandon : rl.SameWork rl.abandon := by
    rw [Relay.abandon_eq]
    exact ⟨rfl, rfl, rfl, rfl⟩
  exact ⟨habandon.field, habandon.linear, habandon.scratch, habandon.bad⟩

theorem Relay.place_leave (rl : Relay) : rl.leave.place = none := rfl

/-! ### Leaving and settling -/

theorem putsRelay_saveRelay {s : State} {r : Nat} {rl : Relay} (h : find s.relays r = some rl) :
    ∃ y, PutsRelay s r y (s.saveRelay r) ∧ rl.SameWork y ∧ y.place = none := by
  have harea : ∃ area : Region, area.bad = rl.save.bad ∧
      s.saveRelay r = (s.noteUse rl).paged r ({ rl with save := area } : Relay).leave := by
    cases hf : find s.fields rl.field with
    | none => exact ⟨rl.save, rfl, by simp only [State.saveRelay, h, hf]⟩
    | some f => exact ⟨rl.saveArea f, rfl, by simp only [State.saveRelay, h, hf]⟩
  obtain ⟨area, hbad, heq⟩ := harea
  have hkeep := keepsRelays_noteUse s rl
  have hwork : rl.SameWork { rl with save := area } := ⟨rfl, rfl, rfl, hbad⟩
  exact ⟨_, heq ▸ hkeep.thenPuts (putsRelay_paged (hkeep.relays ▸ h) _), hwork.trans (Relay.sameWork_leave _),
    Relay.place_leave _⟩

theorem State.saveRelay_none {s : State} {r : Nat} (h : find s.relays r = none) : s.saveRelay r = s := by
  unfold State.saveRelay
  rw [h]

theorem putsRelay_seated {s : State} {r : Nat} {rl : Relay} (h : find s.relays r = some rl) (c : Nat)
    (a : List (Nat × Nat × List Nat)) : PutsRelay s r (rl.seat c a) (s.seated r c a) := by
  have hseat : PutsRelay s r (rl.seat c a) ((s.seatWalks r a).modRelay r fun rl => rl.seat c a) :=
    (keepsRelays_seatWalks s r a).thenPuts (putsRelay_modRelay (s := s.seatWalks r a) h fun rl => rl.seat c a)
  unfold State.seated
  dsimp only
  rw [hseat.find_self]
  exact hseat.then ((keepsRelays_seatGens _ _).trans (keepsRelays_noteUse _ _))

theorem keepsRelays_seated_none {s : State} {r : Nat} (h : find s.relays r = none) (c : Nat)
    (a : List (Nat × Nat × List Nat)) : KeepsRelays s (s.seated r c a) := by
  unfold State.seated
  rw [State.modRelay_none (s := s.seatWalks r a) h]
  dsimp only
  rw [show find (s.seatWalks r a).relays r = none from h]
  exact keepsRelays_seatWalks s r a

/-- A relay whose save area is whole is restored where it is seated (R147, R244). -/
theorem putsRelay_settle {s : State} {r : Nat} {rl : Relay} (h : find s.relays r = some rl) (hsave : rl.save.bad = false)
    (c : Nat) (a : List (Nat × Nat × List Nat)) : PutsRelay s r (rl.seat c a).pinAgain (s.settle r c a) := by
  have hseat := putsRelay_seated h c a
  unfold State.settle
  rw [h]
  dsimp only
  rw [if_neg (by simp [hsave])]
  exact hseat.again (putsRelay_modRelay hseat.find_self _)

theorem State.settle_bad {s : State} {r : Nat} {rl : Relay} {f : Field} (h : find s.relays r = some rl)
    (hsave : rl.save.bad = true) (hf : find s.fields rl.field = some f) (c : Nat) (a : List (Nat × Nat × List Nat)) :
    s.settle r c a = s.teardown f.ctx 0x5C rl.save.frames := by
  unfold State.settle
  rw [h]
  dsimp only
  rw [if_pos hsave, hf]

/-- A relay moved to cluster c stands there with all its work; the other relays and memory stay (R22, R237). -/
theorem putsRelay_moveRelay {s : State} {r : Nat} {rl : Relay} (h : find s.relays r = some rl) (hsave : rl.save.bad = false)
    (c : Nat) (a : List (Nat × Nat × List Nat)) :
    ∃ y, PutsRelay s r y (s.moveRelay r c a) ∧ rl.SameWork y ∧ y.place = some c := by
  obtain ⟨x, hx, hwork, -⟩ := putsRelay_saveRelay h
  have hput := hx.again (putsRelay_settle hx.find_self (hwork.bad.trans hsave) c a)
  have hseat := (hwork.trans (x.sameWork_seat c a)).trans (Relay.sameWork_pinAgain _)
  have hplace : (x.seat c a).pinAgain.place = some c := Relay.place_pinAgain _
  unfold State.moveRelay
  dsimp only
  split
  · exact ⟨_, (hput.again (putsRelay_modRelay hput.find_self _)).then (keepsRelays_sweepGrants _),
      hseat.trans (Relay.sameWork_renewed _), hplace⟩
  · exact ⟨_, hput.then (keepsRelays_sweepGrants _), hseat, hplace⟩

/-- An eviction takes its relay out of residency and leaves the others. -/
theorem State.find_relays_evict {s : State} {r k : Nat} {y : Relay} (h : find (s.evict r).relays k = some y) :
    y.place = none ∨ find s.relays k = some y := by
  have hsweep : find (s.saveRelay r).relays k = some y := h
  cases hr : find s.relays r with
  | none => exact .inr (State.saveRelay_none hr ▸ hsweep)
  | some rl =>
    obtain ⟨x, hx, -, hplace⟩ := putsRelay_saveRelay hr
    rw [hx.findAt] at hsweep
    split at hsweep
    · exact .inl (Option.some.inj hsweep ▸ hplace)
    · exact .inr hsweep

theorem State.find_relays_foldl {g : State → Nat → State} {k : Nat} {y : Relay}
    (hg : ∀ s n, find (g s n).relays k = some y → y.place = none ∨ find s.relays k = some y) (l : List Nat) :
    ∀ s, find (l.foldl g s).relays k = some y → y.place = none ∨ find s.relays k = some y := by
  induction l with
  | nil => exact fun s h => .inr h
  | cons n l ih =>
    intro s h
    exact (ih _ h).elim .inl (hg s n)

theorem State.find_relays_tryLeave {s : State} {r k : Nat} {y : Relay} (h : find (s.tryLeave r).relays k = some y) :
    y.place = none ∨ find s.relays k = some y := by
  unfold State.tryLeave at h
  dsimp only at h
  split at h
  · exact State.find_relays_foldl (fun _ _ => State.find_relays_evict) _ s h
  · exact .inr h

end Sys2Proof.Machine
end

section
/-! SUPPORT. Returns, migration, slices and yields: what these events leave (R45, R49, R50, R225, R236 to R240, R244). -/

namespace Sys2Proof.Machine

/-! ### Evicted relays return (R49, R50) -/

/-- A relay as it stands after it has returned to cluster c. -/
theorem putsRelay_return {s : State} {r : Nat} {rl : Relay} (h : find s.relays r = some rl) (hsave : rl.save.bad = false)
    (c : Nat) (a : List (Nat × Nat × List Nat)) :
    ∃ y, PutsRelay s r y ((s.settle r c a).modRelay r Relay.renewed) ∧ y.place = some c ∧ y.save.bad = false := by
  have hput := putsRelay_settle h hsave c a
  have hwork := ((rl.sameWork_seat c a).trans (Relay.sameWork_pinAgain _)).trans (Relay.sameWork_renewed _)
  exact ⟨_, hput.again (putsRelay_modRelay hput.find_self _), Relay.place_pinAgain _, hwork.bad.trans hsave⟩

/-- Where each relay of a list has a whole save area, all of them are resident once they have returned, and no relay has
left. -/
theorem State.returnAll_resident {f : Field} {t : State} (l : List (Nat × Relay)) : ∀ s : State,
    (∀ e ∈ l, ∃ x, find s.relays e.1 = some x ∧ x.save.bad = false) → s.returnAll f l = some t →
    (∀ n x, find s.relays n = some x → x.place.isSome = true → ∃ y, find t.relays n = some y ∧ y.place.isSome = true) ∧
      ∀ e ∈ l, ∃ y, find t.relays e.1 = some y ∧ y.place.isSome = true := by
  induction l with
  | nil =>
    intro s _ ht
    obtain rfl : s = t := Option.some.inj ht
    exact ⟨fun n x hx hp => ⟨x, hx, hp⟩, fun e he => nomatch he⟩
  | cons e l ih =>
    intro s hl ht
    obtain ⟨r, rl⟩ := e
    rw [State.returnAll] at ht
    split at ht
    · next c a _ =>
      obtain ⟨x, hx, hsave⟩ := hl (r, rl) (List.mem_cons_self ..)
      obtain ⟨y, hy, hplace, hgood⟩ := putsRelay_return hx hsave c a
      have hrest : ∀ e ∈ l, ∃ x, find ((s.settle r c a).modRelay r Relay.renewed).relays e.1 = some x ∧
          x.save.bad = false := by
        intro e he
        rw [hy.findAt]
        split
        · exact ⟨y, rfl, hgood⟩
        · exact hl e (List.mem_cons_of_mem _ he)
      obtain ⟨hstay, hall⟩ := ih _ hrest ht
      refine ⟨fun n z hz hp => ?_, fun e he => ?_⟩
      · by_cases hn : n = r
        · exact hn ▸ hstay r y hy.find_self (by rw [hplace]; rfl)
        · exact hstay n z (by rw [hy.findAt, if_neg hn]; exact hz) hp
      · rcases List.mem_cons.mp he with rfl | he
        · exact hstay r y hy.find_self (by rw [hplace]; rfl)
        · exact hall e he
    · cases ht

section
variable {s : State} {fid lin r : Nat} {f : Field} {rl : Relay}

theorem exec_relayPlacement_return (hf : find s.fields fid = some f)
    (hback : (s.evicted fid).find? (fun e => decide (e.2.linear = lin)) = some (r, rl))
    (hmay : s.mayReturn fid f rl = true) :
    exec (.relayPlacement fid lin) s = .next ((s.returnAll f (s.returning fid f r rl)).getD s) := by
  change execRelayPlacement fid lin s = _
  simp only [execRelayPlacement, hf, hback, hmay, if_true]

theorem exec_relayPlacement_alone (hf : find s.fields fid = some f)
    (hback : (s.evicted fid).find? (fun e => decide (e.2.linear = lin)) = some (r, rl))
    (hmay : s.mayReturn fid f rl = true) (hmode : f.mode ≠ 2) {c : Nat} {a : List (Nat × Nat × List Nat)}
    (hc : s.Chooses f rl.toSeat (some r) c a) :
    exec (.relayPlacement fid lin) s = .next ((s.settle r c a).modRelay r Relay.renewed) := by
  rw [exec_relayPlacement_return hf hback hmay, State.returning, if_neg hmode, State.returnAll, hc.best]
  rfl

theorem exec_relayPlacement_together (hf : find s.fields fid = some f)
    (hback : (s.evicted fid).find? (fun e => decide (e.2.linear = lin)) = some (r, rl))
    (hmay : s.mayReturn fid f rl = true) (hmode : f.mode = 2) :
    exec (.relayPlacement fid lin) s = .next ((s.returnAll f (s.evicted fid)).getD s) := by
  rw [exec_relayPlacement_return hf hback hmay, State.returning, if_pos hmode]

end

/-! ### Migration (R51, R54, R236, R237) -/

section
variable {s : State} {r c : Nat} {rl : Relay} {f : Field}

theorem exec_migration_away {d : Nat} {a : List (Nat × Nat × List Nat)} (hr : find s.relays r = some rl)
    (hf : find s.fields rl.field = some f) (hplace : rl.place = some d) (hd : d ≠ c) (hstop : rl.stopped = false)
    (hmust : s.mustMove rl f d = true) (helig : s.eligible c f (some r) = true) (hmap : (s.mapped f c).isSome = true)
    (hfit : s.fitOn c f rl.toSeat (some r) = some a) : exec (.migration r c) s = .next (s.moveRelay r c a) := by
  change execMigration r c s = _
  obtain ⟨l, hl⟩ := Option.isSome_iff_exists.mp hmap
  simp [execMigration, hr, hf, hplace, hd, hstop, hmust, helig, hl, hfit]

theorem exec_migration_noReason {d : Nat} (hr : find s.relays r = some rl) (hf : find s.fields rl.field = some f)
    (hplace : rl.place = some d) (hd : d ≠ c) (hmust : s.mustMove rl f d = false) :
    exec (.migration r c) s = .next s := by
  change execMigration r c s = _
  simp [execMigration, hr, hf, hplace, hd, hmust]

theorem exec_migration_within (hr : find s.relays r = some rl) (hf : find s.fields rl.field = some f)
    (hplace : rl.place = some c) (hstop : rl.stopped = false) :
    exec (.migration r c) s = .next ((s.clearCore r c rl f).getD (s.gatherOn c)) := by
  change execMigration r c s = _
  simp [execMigration, hr, hf, hplace, hstop]

end

/-- From `s` to `t` every relay keeps its place and its scratch, and memory stays. -/
structure KeepsPlaces (s t : State) : Prop where
  mem : t.mem = s.mem
  stays : ∀ n x, find s.relays n = some x → ∃ y, find t.relays n = some y ∧ y.place = x.place ∧ y.scratch = x.scratch

theorem KeepsPlaces.refl (s : State) : KeepsPlaces s s := ⟨rfl, fun _ x hx => ⟨x, hx, rfl, rfl⟩⟩

theorem KeepsPlaces.trans {s t u : State} (h : KeepsPlaces s t) (k : KeepsPlaces t u) : KeepsPlaces s u where
  mem := k.mem.trans h.mem
  stays n x hx := by
    obtain ⟨y, hy, hplace, hscratch⟩ := h.stays n x hx
    obtain ⟨z, hz, hplace', hscratch'⟩ := k.stays n y hy
    exact ⟨z, hz, hplace'.trans hplace, hscratch'.trans hscratch⟩

theorem KeepsRelays.keepsPlaces {s t : State} (h : KeepsRelays s t) : KeepsPlaces s t :=
  ⟨h.mem, fun _ x hx => ⟨x, h.relays ▸ hx, rfl, rfl⟩⟩

/-- Relay r stands on cluster c, where it is there at all. -/
def State.StandsOn (s : State) (r c : Nat) : Prop := ∀ x, find s.relays r = some x → x.place = some c

theorem keepsPlaces_seated_modRelay {s : State} {r c : Nat} (h : s.StandsOn r c) {g : Relay → Relay}
    (hg : ∀ rl, (g rl).scratch = rl.scratch) (a : List (Nat × Nat × List Nat)) :
    KeepsPlaces s ((s.modRelay r g).seated r c a) := by
  cases hr : find s.relays r with
  | none =>
    rw [State.modRelay_none hr]
    exact (keepsRelays_seated_none hr c a).keepsPlaces
  | some rl =>
    have hmod := putsRelay_modRelay hr g
    have hput := hmod.again (putsRelay_seated hmod.find_self c a)
    refine ⟨hput.mem, fun n x hx => ?_⟩
    rw [hput.findAt]
    split
    · next hn =>
      obtain rfl : rl = x := Option.some.inj (hr.symm.trans (hn ▸ hx))
      exact ⟨_, rfl, (h rl hr).symm, hg rl⟩
    · exact ⟨x, hx, rfl, rfl⟩

theorem keepsPlaces_moveSquads {s : State} {r c : Nat} (h : s.StandsOn r c) (a : List (Nat × Nat × List Nat)) :
    KeepsPlaces s (s.moveSquads r c a) := by
  unfold State.moveSquads
  extract_lets moves s1
  refine keepsPlaces_seated_modRelay h ?_ a
  exact fun _ => rfl

theorem keepsPlaces_foldl_moveSquads {c : Nat} (g : Nat × Relay → List (Nat × Nat × List Nat)) (l : List (Nat × Relay)) :
    ∀ s : State, (∀ e ∈ l, ∃ x, find s.relays e.1 = some x ∧ x.place = some c) →
      KeepsPlaces s (l.foldl (fun s e => s.moveSquads e.1 c (g e)) s) := by
  induction l with
  | nil => exact fun s _ => .refl s
  | cons e l ih =>
    intro s h
    obtain ⟨x, hx, hplace⟩ := h e (List.mem_cons_self ..)
    have hstands : s.StandsOn e.1 c := fun y hy => Option.some.inj (hx.symm.trans hy) ▸ hplace
    have hmove := keepsPlaces_moveSquads hstands (g e)
    refine hmove.trans (ih _ fun d hd => ?_)
    obtain ⟨y, hy, hyplace⟩ := h d (List.mem_cons_of_mem _ hd)
    obtain ⟨z, hz, hzplace, -⟩ := hmove.stays d.1 y hy
    exact ⟨z, hz, hzplace.trans hyplace⟩

/-- Squads that change cores within a cluster take no relay anywhere else (R54, R236). -/
theorem keepsPlaces_gatherOn {s : State} (h : ∀ e ∈ s.relays, find s.relays e.1 = some e.2) (c : Nat) :
    KeepsPlaces s (s.gatherOn c) := by
  unfold State.gatherOn
  split
  · refine keepsPlaces_foldl_moveSquads _ _ s fun e he => ?_
    obtain ⟨hmem, hplace⟩ := List.mem_filter.mp (List.mem_filter.mp he).1
    exact ⟨e.2, h e hmem, of_decide_eq_true (Bool.and_eq_true_iff.mp hplace).1⟩
  · exact .refl s

theorem keepsPlaces_clearCore {s t : State} {r c : Nat} {rl : Relay} {f : Field} (h : s.StandsOn r c)
    (ht : s.clearCore r c rl f = some t) : KeepsPlaces s t := by
  unfold State.clearCore at ht
  dsimp only at ht
  split at ht
  · cases ht
  · obtain ⟨a, -, rfl⟩ := Option.map_eq_some_iff.mp ht
    exact keepsPlaces_moveSquads h a

/-! ### Slices and yields (R225, R238 to R240) -/

theorem State.modSquad_eq {s : State} {r q : Nat} {rl : Relay} {k : Squad} (hr : find s.relays r = some rl)
    (hk : find rl.squads q = some k) (g : Squad → Squad) :
    s.modSquad r q g = s.modRelay r fun rl => { rl with squads := put rl.squads q (g k) } := by
  unfold State.modSquad State.modRelay
  rw [modify_find _ hr, modify_find _ hr, modify_find g hk]

theorem exec_sliceExpiry {s : State} {r q : Nat} {rl : Relay} {k : Squad} (hr : find s.relays r = some rl)
    (hplace : rl.place.isSome = true) (hlive : rl.squadRetired q = false) (hk : find rl.squads q = some k)
    (hfirst : k.expired = none) :
    exec (.sliceExpiry r q) s =
      .next (if s.relayQuar rl = true ∧ s.quarTurn = some (s.relayQueue rl) then
        (s.modRelay r fun rl => { rl with squads := put rl.squads q { k with expired := some s.tick } }).passTurn
      else s.modRelay r fun rl => { rl with squads := put rl.squads q { k with expired := some s.tick } }) := by
  change execSliceExpiry r q s = _
  have hnone : rl.place.isNone = false := by simpa using hplace
  simp only [execSliceExpiry, hr, hnone, hlive, Bool.or_self, Bool.false_eq_true, if_false, State.modSquad_eq hr hk,
    hfirst, Option.isNone_none, if_true, Bool.and_eq_true, decide_eq_true_eq]

theorem exec_yieldDeadline {s : State} {r q : Nat} {rl : Relay} {k : Squad} (hr : find s.relays r = some rl)
    (hk : find rl.squads q = some k) (hask : k.evicting = true) :
    exec (.yieldDeadline r q) s =
      .next ((s.modRelay r fun rl => { rl with squads := put rl.squads q { k with deadline := true } }).tryLeave r) := by
  change execYieldDeadline r q s = _
  simp only [execYieldDeadline, State.modSquad_eq hr hk, hask, if_true]

/-! ### Pre-emption (R239, R240) -/

/-- Every squad of the relay that has not retired is asked to leave. -/
def Relay.Asked (y : Relay) : Prop := ∀ e ∈ y.squads, y.squadRetired e.1 = false → e.2.yreq = true ∧ e.2.evicting = true

theorem Relay.asked_askYield (rl : Relay) : rl.askYield.Asked := by
  intro e he hlive
  obtain ⟨d, -, rfl⟩ := List.mem_map.mp he
  have hd : rl.squadRetired d.1 = false := hlive
  exact ⟨by simp [hd], rfl⟩

theorem State.asked_foldl_askYield {k : Nat} {y : Relay} (l : List Nat) : ∀ s : State,
    (k ∈ l ∨ ∀ x, find s.relays k = some x → x.Asked) →
    find (l.foldl (fun s k => s.modRelay k Relay.askYield) s).relays k = some y → y.Asked := by
  induction l with
  | nil => exact fun s hs hy => hs.elim (by simp) fun h => h y hy
  | cons n l ih =>
    intro s hs hy
    refine ih _ ?_ hy
    by_cases hn : n = k
    · refine .inr fun x hx => ?_
      rw [State.find_modRelay, if_pos hn.symm, Option.map_eq_some_iff] at hx
      obtain ⟨z, -, rfl⟩ := hx
      exact z.asked_askYield
    · rw [State.find_modRelay, if_neg (Ne.symm hn)]
      simpa [Ne.symm hn] using hs

/-- The relays of a list are asked to leave, and those that are ready leave. -/
def State.askLeave (s : State) (l : List Nat) : State :=
  l.foldl (fun s k => s.tryLeave k) (l.foldl (fun s k => s.modRelay k Relay.askYield) s)

theorem State.find_relays_askLeave {s : State} {l : List Nat} {k : Nat} {y : Relay} (hk : k ∈ l)
    (hy : find (s.askLeave l).relays k = some y) : y.place = none ∨ y.Asked :=
  (State.find_relays_foldl (fun _ _ => State.find_relays_tryLeave) l _ hy).imp id
    (State.asked_foldl_askYield l s (.inl hk))

/-- PREEMPTION asks for room where the work wants a place, no cluster holds it and migration does not help. -/
def State.preempted (s : State) (f : Field) (squads : List (Nat × List Nat)) (r : Option Nat) (wants : Bool) : State :=
  if !wants || (s.best f squads r fun c => (s.mapped f c).isSome).isSome || s.migrationHelps (f, squads, r) then s
  else s.askLeave (s.makeRoom f squads r)

section
variable {s : State} {fid lin : Nat} {f : Field}

theorem exec_preemption_return {e : Nat × Relay} (hf : find s.fields fid = some f)
    (hback : (s.evicted fid).find? (fun e => decide (e.2.linear = lin)) = some e) :
    exec (.preemption fid lin) s = .next (s.preempted f e.2.toSeat (some e.1) (s.mayReturn fid f e.2)) := by
  change execPreemption fid lin s = _
  simp only [execPreemption, hf, hback, State.preempted]
  split <;> rfl

theorem exec_preemption_first (hf : find s.fields fid = some f)
    (hback : (s.evicted fid).find? (fun e => decide (e.2.linear = lin)) = none) :
    exec (.preemption fid lin) s =
      .next (s.preempted f ((List.range (hdrRelay f)).map fun q => (q, [])) none (s.mayPlace fid f lin)) := by
  change execPreemption fid lin s = _
  simp only [execPreemption, hf, hback, State.preempted]
  split <;> rfl

theorem exec_preemption_outcome {squads : List (Nat × List Nat)} {r : Option Nat} {wants : Bool}
    (hexec : exec (.preemption fid lin) s = .next (s.preempted f squads r wants)) :
    ((wants = false ∨ (s.best f squads r fun c => (s.mapped f c).isSome).isSome = true ∨
        s.migrationHelps (f, squads, r) = true) → exec (.preemption fid lin) s = .next s) ∧
      (wants = true → (s.best f squads r fun c => (s.mapped f c).isSome).isSome = false →
        s.migrationHelps (f, squads, r) = false → ∃ t : State, exec (.preemption fid lin) s = .next t ∧
          ∀ k ∈ s.makeRoom f squads r, ∀ y, find t.relays k = some y → y.place = none ∨ y.Asked) := by
  constructor
  · intro h
    rw [hexec, State.preempted, if_pos]
    simpa [or_assoc] using h
  · intro hwants hfits hhelps
    refine ⟨_, hexec, fun k hk y hy => ?_⟩
    rw [State.preempted, if_neg (by simp [hwants, hfits, hhelps])] at hy
    exact State.find_relays_askLeave hk hy

end

end Sys2Proof.Machine
end

section
/-! SUPPORT. The end of relays and fields: what they leave of the relays and fields that stay (R45, R50, R53, R220, R257). -/

namespace Sys2Proof.Machine

/-! ### The front end's records leave relays and fields alone -/

/-- From `s` to `t` neither the relays nor the fields change. -/
structure KeepsWork (s t : State) : Prop where
  relays : t.relays = s.relays
  fields : t.fields = s.fields

theorem KeepsWork.refl (s : State) : KeepsWork s s := ⟨rfl, rfl⟩

theorem KeepsWork.trans {s t u : State} (h : KeepsWork s t) (k : KeepsWork t u) : KeepsWork s u :=
  ⟨k.relays.trans h.relays, k.fields.trans h.fields⟩

theorem keepsWork_ask (s : State) (who : Asker) (ctx va : Nat) (store : Bool) : KeepsWork s (s.ask who ctx va store) := by
  unfold State.ask
  split
  · exact .refl s
  · exact ⟨rfl, rfl⟩

theorem keepsWork_seek (s : State) (who : Asker) (ctx va : Nat) (store : Bool) :
    KeepsWork s (s.seek who ctx va store).1 := by
  unfold State.seek
  dsimp only
  split
  · split
    · exact ⟨rfl, rfl⟩
    · exact keepsWork_ask s who ctx va store
  · split
    · exact .refl s
    · exact ⟨rfl, rfl⟩
  · exact .refl s
  · exact ⟨rfl, rfl⟩

theorem keepsWork_reach (s : State) (who : Asker) (ctx va n : Nat) (store : Bool) :
    KeepsWork s (s.reach who ctx va n store).1 := by
  have hseek := keepsWork_seek s who ctx va store
  unfold State.reach
  dsimp only
  split <;> rename_i h1 <;> rw [h1] at hseek
  · split
    · exact hseek
    · have hnext := hseek.trans (keepsWork_seek _ who ctx (va + min n (65536 - va % 65536)) store)
      split <;> rename_i h2 <;> rw [h2] at hnext <;> exact hnext
  all_goals exact hseek

theorem keepsWork_hostStore (s : State) (pa n v : Nat) : KeepsWork s (s.hostStore pa n v) := by
  unfold State.hostStore
  rw [State.store_eq]
  exact ⟨rfl, rfl⟩

theorem keepsWork_writeParts (l : List (Nat × Nat)) : ∀ (s : State) (v : Nat), KeepsWork s (s.writeParts l v) := by
  induction l with
  | nil => exact fun s _ => .refl s
  | cons e l ih => exact fun s v => (keepsWork_hostStore s e.1 e.2 _).trans (ih _ _)

theorem keepsWork_frontWrite (s : State) (qid off n v : Nat) : KeepsWork s (s.frontWrite qid off n v).1 := by
  unfold State.frontWrite
  split
  · exact .refl s
  · next q _ =>
    have hreach := keepsWork_reach s (.front qid) q.context ((q.cap.base + off) % 2 ^ 57) n true
    split <;> rename_i h <;> rw [h] at hreach
    · exact hreach.trans (keepsWork_writeParts _ _ _)
    all_goals exact hreach

theorem keepsWork_writeOwed (qid : Nat) (l : List Owed) : ∀ s : State, KeepsWork s (s.writeOwed qid l).1 := by
  induction l with
  | nil => exact .refl
  | cons o l ih =>
    intro s
    have hwrite := keepsWork_frontWrite s qid o.off 16 o.val
    rw [State.writeOwed]
    split <;> rename_i h <;> rw [h] at hwrite
    · exact hwrite
    · exact hwrite.trans (ih _)

theorem keepsWork_modQueue (s : State) (qid : Nat) (g : Queue → Queue) : KeepsWork s (s.modQueue qid g) := ⟨rfl, rfl⟩

theorem keepsWork_flushOwed (s : State) (qid : Nat) : KeepsWork s (s.flushOwed qid) := by
  unfold State.flushOwed
  split
  · exact .refl s
  · next q _ => exact (keepsWork_writeOwed qid q.owed s).trans (keepsWork_modQueue _ _ _)

theorem keepsWork_owe (s : State) (qid mid i off v : Nat) : KeepsWork s (s.owe qid mid i off v) := by
  unfold State.owe
  split
  · exact .refl s
  · exact (keepsWork_modQueue s qid _).trans (keepsWork_flushOwed _ _)

theorem keepsWork_modMeet (s : State) (mid : Nat) (g : Meet → Meet) : KeepsWork s (s.modMeet mid g) := ⟨rfl, rfl⟩

theorem keepsWork_ownRecord (s : State) (mid i status reason cause nf : Nat) :
    KeepsWork s (s.ownRecord mid i status reason cause nf) := by
  unfold State.ownRecord
  split
  · exact .refl s
  · split
    · exact .refl s
    · split
      · exact keepsWork_modMeet _ _ _
      · dsimp only
        have hmod := keepsWork_modMeet s mid
        split
        · exact (hmod _).trans (keepsWork_owe _ _ _ _ _ _)
        · split
          · exact hmod _
          · exact (hmod _).trans (keepsWork_owe _ _ _ _ _ _)

theorem keepsWork_settleLaunch (s : State) (mid i : Nat) : KeepsWork s (s.settleLaunch mid i) := by
  unfold State.settleLaunch
  split
  · split
    · exact keepsWork_ownRecord _ _ _ _ _ _ _
    · exact .refl s
  · exact .refl s

theorem keepsWork_settleMeet (s : State) (mid : Nat) : KeepsWork s (s.settleMeet mid) := by
  unfold State.settleMeet
  split
  · exact .refl s
  · next m _ =>
    split
    · exact .refl s
    · extract_lets s1
      have h1 : KeepsWork s s1 := by
        unfold s1
        split
        · exact (keepsWork_modMeet _ _ _).trans (keepsWork_owe _ _ _ _ _ _)
        · exact .refl s
      split
      · exact h1.trans ⟨rfl, rfl⟩
      · exact h1

/-! ### A field ends -/

theorem State.relays_tidyField (s : State) (fid : Nat) : (s.tidyField fid).relays = s.relays := by
  unfold State.tidyField
  split
  · split <;> rfl
  · rfl

theorem State.find_fields_tidyField {s : State} {fid : Nat} {g : Field}
    (h : find (s.tidyField fid).fields fid = some g) : find s.fields fid = some g := by
  unfold State.tidyField at h
  split at h
  · split at h
    · rw [find_del, if_pos rfl] at h
      cases h
    · exact h
  · exact h

theorem State.fieldOver_ended {s : State} {fid : Nat} {f : Field} (hf : find s.fields fid = some f) (h : f.ended ≠ .live)
    (why : FieldEnd) : s.fieldOver fid why = s := by
  unfold State.fieldOver
  rw [hf]
  exact if_pos h

/-- The end of a live field: its relays are not touched, and where it is remembered it stands as it was, but ended. -/
theorem State.fieldOver_live {s : State} {fid : Nat} {f : Field} (hf : find s.fields fid = some f) (h : f.ended = .live)
    (why : FieldEnd) : (s.fieldOver fid why).relays = s.relays ∧
      ∀ g, find (s.fieldOver fid why).fields fid = some g → g = { f with ended := why } := by
  have hover : ∃ t, s.fieldOver fid why = t.tidyField fid ∧ KeepsWork (s.modField fid fun f => { f with ended := why }) t := by
    unfold State.fieldOver
    rw [hf]
    dsimp only
    rw [if_neg (by simp [h])]
    refine ⟨_, rfl, KeepsWork.trans ?_ ((keepsWork_settleLaunch _ _ _).trans (keepsWork_settleMeet _ _))⟩
    split
    · exact (keepsWork_modMeet _ _ _).trans (keepsWork_ownRecord _ _ _ _ _ _ _)
    · exact keepsWork_modMeet _ _ _
  obtain ⟨t, ht, hkeep⟩ := hover
  rw [ht]
  refine ⟨(State.relays_tidyField t fid).trans hkeep.relays, fun g hg => ?_⟩
  have hfound := State.find_fields_tidyField hg
  rw [hkeep.fields, show (s.modField fid fun f => { f with ended := why }).fields = _ from modify_find _ hf,
    find_put_self] at hfound
  exact (Option.some.inj hfound).symm

/-! ### Units drawn on -/

/-- Field `g` is field `f`, but for the units it has drawn on. -/
def Field.Drew (f g : Field) : Prop := ∃ l, g = { f with used := l }

theorem Field.Drew.refl (f : Field) : f.Drew f := ⟨f.used, rfl⟩

theorem Field.Drew.trans {f g h : Field} : f.Drew g → g.Drew h → f.Drew h := by
  rintro ⟨l, rfl⟩ ⟨k, rfl⟩
  exact ⟨k, rfl⟩

theorem Field.drew_use (f : Field) (u : UsedUnit) (n : Nat) : f.Drew (f.use u n) := ⟨_, rfl⟩

theorem Field.drew_foldl {α : Type} {g : Field → α → Field} (h : ∀ (f : Field) a, f.Drew (g f a)) (l : List α) (f : Field) :
    f.Drew (l.foldl g f) := by
  induction l generalizing f with
  | nil => exact .refl f
  | cons a l ih => exact (h f a).trans (ih _)

/-- From `s` to `t` every field stays, but for the units it has drawn on. -/
def OnlyDraws (s t : State) : Prop := ∀ n f, find s.fields n = some f → ∃ g, find t.fields n = some g ∧ f.Drew g

theorem OnlyDraws.of_fields {s t : State} (h : t.fields = s.fields) : OnlyDraws s t := fun _ f hf => ⟨f, h ▸ hf, .refl f⟩

theorem OnlyDraws.refl (s : State) : OnlyDraws s s := .of_fields rfl

theorem OnlyDraws.trans {s t u : State} (h : OnlyDraws s t) (k : OnlyDraws t u) : OnlyDraws s u := by
  intro n f hf
  obtain ⟨g, hg, hfg⟩ := h n f hf
  obtain ⟨e, he, hge⟩ := k n g hg
  exact ⟨e, he, hfg.trans hge⟩

theorem OnlyDraws.foldl {α : Type} {g : State → α → State} (h : ∀ s a, OnlyDraws s (g s a)) (l : List α) (s : State) :
    OnlyDraws s (l.foldl g s) := by
  induction l generalizing s with
  | nil => exact .refl s
  | cons a l ih => exact (h s a).trans (ih _)

theorem State.find_modField {s : State} {n : Nat} {f : Field} (h : find s.fields n = some f) (g : Field → Field) :
    find (s.modField n g).fields n = some (g f) :=
  (find_modify _ _ _ _).trans ((if_pos rfl).trans (congrArg (Option.map g) h))

theorem onlyDraws_modField (s : State) (n : Nat) {g : Field → Field} (hg : ∀ f : Field, f.Drew (g f)) :
    OnlyDraws s (s.modField n g) := by
  intro m f hf
  by_cases h : m = n
  · exact ⟨g f, h ▸ State.find_modField (h ▸ hf) g, hg f⟩
  · exact ⟨f, ((find_modify _ _ _ _).trans (if_neg h)).trans hf, .refl f⟩

theorem onlyDraws_noteUse (s : State) (rl : Relay) : OnlyDraws s (s.noteUse rl) := by
  unfold State.noteUse
  split
  · exact .refl s
  · refine onlyDraws_modField s rl.field fun f => ?_
    have hcores : ∀ l : List (Nat × Squad),
        f.Drew (l.foldl (fun (f : Field) e => f.use (.core e.2.core) (s.core e.2.core).passes) f) :=
      fun l => Field.drew_foldl (fun f e => f.drew_use _ _) l f
    dsimp only
    split
    · exact (hcores _).trans (Field.drew_use _ _ _)
    · exact hcores _

theorem onlyDraws_drawSlice (s : State) (fid pa : Nat) : OnlyDraws s (s.drawSlice fid pa) := by
  unfold State.drawSlice
  split
  · exact onlyDraws_modField s fid fun _ => ⟨_, rfl⟩
  · exact .refl s

/-! ### Relays leave for good -/

theorem State.fields_freeRegion (s : State) (g : Region) : (s.freeRegion g).fields = s.fields := by
  unfold State.freeRegion
  generalize g.frames = l
  induction l generalizing s with
  | nil => rfl
  | cons n l ih => rw [List.foldl_cons, ih]; rfl

theorem State.relays_freeRegion (s : State) (g : Region) : (s.freeRegion g).relays = s.relays := by
  unfold State.freeRegion
  generalize g.frames = l
  induction l generalizing s with
  | nil => rfl
  | cons n l ih => rw [List.foldl_cons, ih]; rfl

/-- What a relay gives up as it goes: the units it drew on are noted, its regions are nobody's. -/
def State.giveUp (s : State) (rl : Relay) : State := ((s.noteUse rl).freeRegion rl.backing).freeRegion rl.save

theorem State.relays_giveUp (s : State) (rl : Relay) : (s.giveUp rl).relays = s.relays := by
  unfold State.giveUp
  rw [State.relays_freeRegion, State.relays_freeRegion, (keepsRelays_noteUse s rl).relays]

theorem onlyDraws_giveUp (s : State) (rl : Relay) : OnlyDraws s (s.giveUp rl) :=
  (onlyDraws_noteUse s rl).trans (.of_fields ((State.fields_freeRegion _ _).trans (State.fields_freeRegion _ _)))

theorem State.relays_foldl_giveUp (l : List (Nat × Relay)) (s : State) :
    (l.foldl (fun s e => s.giveUp e.2) s).relays = s.relays := by
  induction l generalizing s with
  | nil => rfl
  | cons e l ih => rw [List.foldl_cons, ih, State.relays_giveUp]

theorem State.relays_dropRelays (s : State) (p : Nat → Relay → Bool) :
    (s.dropRelays p).relays = s.relays.filter fun e => !p e.1 e.2 :=
  congrArg (List.filter fun e : Nat × Relay => !p e.1 e.2) (State.relays_foldl_giveUp (s.relays.filter fun e => p e.1 e.2) s)

theorem onlyDraws_dropRelays (s : State) (p : Nat → Relay → Bool) : OnlyDraws s (s.dropRelays p) :=
  OnlyDraws.trans (.foldl (fun s e => onlyDraws_giveUp s e.2) (s.relays.filter fun e => p e.1 e.2) s) (.of_fields rfl)

/-! ### RELAY_RETIREMENT and CONCURRENCY_LOST -/

/-- A quiet relay is gone, its field counts it, and ends with its last relay (R45). -/
theorem exec_relayRetirement_quiet {s : State} {r : Nat} {rl : Relay} {f : Field} (hr : find s.relays r = some rl)
    (hquiet : rl.quiet = true) (hstop : rl.stopped = false) (hplace : rl.place.isSome = true)
    (hf : find s.fields rl.field = some f) :
    ∃ t : State, exec (.relayRetirement r) s = .next t ∧ find t.relays r = none ∧
      ∀ g, find t.fields rl.field = some g → g.retired = f.retired + 1 ∧
        ((g.retired = f.total → g.ended ≠ .live) ∧ (g.retired ≠ f.total → g.ended = f.ended)) := by
  obtain ⟨f0, hf0, l, rfl⟩ := onlyDraws_dropRelays s (fun n _ => n = r) rl.field f hf
  obtain ⟨s1, hs1⟩ : ∃ s1, s1 = (s.dropRelays fun n _ => n = r).modField rl.field fun f =>
      { f with retired := f.retired + 1 } := ⟨_, rfl⟩
  have hgone : find s1.relays r = none := by
    rw [hs1, State.modField_relays, State.relays_dropRelays, find_filter_key _ fun n => !decide (n = r)]
    simp
  have hf1 : find s1.fields rl.field = some { f with used := l, retired := f.retired + 1 } := hs1 ▸ State.find_modField hf0 _
  have hexec : exec (.relayRetirement r) s =
      .next (if f.retired + 1 = f.total then s1.fieldOver rl.field .retired else s1) := by
    change execRelayRetirement r s = _
    have hnone : rl.place.isNone = false := by simpa using hplace
    simp only [execRelayRetirement, hr, hquiet, hstop, hnone, Bool.not_true, Bool.or_self, Bool.false_eq_true, if_false]
    rw [← hs1, hf1]
    rfl
  by_cases hlast : f.retired + 1 = f.total
  · rw [if_pos hlast] at hexec
    by_cases hlive : f.ended = .live
    · obtain ⟨hrelays, hfields⟩ := State.fieldOver_live hf1 hlive .retired
      refine ⟨_, hexec, hrelays ▸ hgone, fun g hg => ?_⟩
      obtain rfl := hfields g hg
      exact ⟨rfl, fun _ => FieldEnd.noConfusion, fun h => absurd hlast h⟩
    · rw [State.fieldOver_ended hf1 hlive] at hexec
      refine ⟨_, hexec, hgone, fun g hg => ?_⟩
      obtain rfl := Option.some.inj (hf1.symm.trans hg)
      exact ⟨rfl, fun _ => hlive, fun _ => rfl⟩
  · rw [if_neg hlast] at hexec
    refine ⟨_, hexec, hgone, fun g hg => ?_⟩
    obtain rfl := Option.some.inj (hf1.symm.trans hg)
    exact ⟨rfl, fun h => absurd h hlast, fun _ => rfl⟩

section
variable {s : State} {fid : Nat} {f : Field}

/-- The clusters of the field's partition that its context's map names. -/
def State.roomFor (s : State) (f : Field) : Nat := ((s.partition f).filter fun c => (s.mapped f c).isSome).length

theorem exec_concurrencyLost_fits (hf : find s.fields fid = some f)
    (h : f.total ≤ capOf f 3 * s.roomFor f ∨ f.stopped = true) : exec (.concurrencyLost fid) s = .next s := by
  change execConcurrencyLost fid s = _
  simp only [execConcurrencyLost, hf]
  refine if_neg ?_
  rcases h with h | h
  · have hroom : ¬ capOf f 3 * s.roomFor f < f.total := Nat.not_lt.mpr h
    rw [State.roomFor] at hroom
    rw [decide_eq_false hroom, Bool.and_false]
    exact Bool.false_ne_true
  · simp [h]

/-- A concurrent field that no longer fits loses its relays and ends (R50). -/
theorem exec_concurrencyLost_short (hf : find s.fields fid = some f) (hmode : f.mode = 2) (hlive : f.ended = .live)
    (hshort : capOf f 3 * s.roomFor f < f.total) (hstop : f.stopped = false) :
    ∃ t : State, exec (.concurrencyLost fid) s = .next t ∧
      (∀ e ∈ t.relays, e.2.field ≠ fid) ∧ ∀ g, find t.fields fid = some g → g.ended = .lost := by
  have hexec : exec (.concurrencyLost fid) s =
      .next ((s.dropRelays fun _ rl => rl.field = fid).fieldOver fid .lost) := by
    change execConcurrencyLost fid s = _
    simp only [execConcurrencyLost, hf]
    refine if_pos ?_
    simpa [State.roomFor, hmode, hlive, hstop] using hshort
  obtain ⟨f0, hf0, l, rfl⟩ := onlyDraws_dropRelays s (fun _ rl => rl.field = fid) fid f hf
  obtain ⟨hrelays, hfields⟩ := State.fieldOver_live hf0 hlive .lost
  refine ⟨_, hexec, fun e he => ?_, fun g hg => by rw [hfields g hg]⟩
  rw [hrelays, State.relays_dropRelays] at he
  simpa using (List.mem_filter.mp he).2

end

end Sys2Proof.Machine
end

section
/-! SUPPORT. A relay's first placement: the frames of its backing and save area, its capabilities and its field (R42, R142,
R229, R235, R243). -/

namespace Sys2Proof.Machine

/-! ### Frames given to a relay -/

theorem State.byte_wipe (s : State) (n b : Nat) :
    (s.wipe n 1).byte b = if b / 65536 = n then 0#8 else s.byte b := by
  have hmem : (s.wipe n 1).mem =
      s.mem.filter fun e => !(decide (n * 65536 ≤ e.1) && decide (e.1 < (n + 1) * 65536)) := rfl
  unfold State.byte getD
  rw [hmem, find_filter_key _ fun k => !(decide (n * 65536 ≤ k) && decide (k < (n + 1) * 65536))]
  by_cases h : b / 65536 = n
  · rw [if_pos h, if_neg]
    · rfl
    · simp; omega
  · rw [if_neg h, if_pos]
    simp; omega

theorem State.tag_wipe (s : State) (n b : Nat) :
    (s.wipe n 1).tag b = if b / 65536 = n then false else s.tag b := by
  have htags : (s.wipe n 1).tags =
      s.tags.filter fun e => !(decide (n * 65536 / 16 ≤ e.1) && decide (e.1 < (n + 1) * 65536 / 16)) := rfl
  unfold State.tag getD
  rw [htags, find_filter_key _ fun k => !(decide (n * 65536 / 16 ≤ k) && decide (k < (n + 1) * 65536 / 16))]
  by_cases h : b / 65536 = n
  · rw [if_pos h, if_neg]
    · rfl
    · simp; omega
  · rw [if_neg h, if_pos]
    simp; omega

/-- From `s` to `t` the frames of `l` go to the front end for context c, zeroed; the other frames and the rest of memory
stay. -/
structure GivesFrames (c : Nat) (l : List Nat) (s t : State) : Prop where
  owner : ∀ k ∈ l, (t.frame k).owner = .area c
  frame : ∀ k, k ∉ l → t.frame k = s.frame k
  byte : ∀ b, t.byte b = if b / 65536 ∈ l then 0#8 else s.byte b
  tag : ∀ b, t.tag b = if b / 65536 ∈ l then false else s.tag b

theorem GivesFrames.refl (c : Nat) (s : State) : GivesFrames c [] s s := by constructor <;> simp

theorem GivesFrames.congr {c : Nat} {l : List Nat} {s t u : State} (h : GivesFrames c l s t) (hframes : u.frames = t.frames)
    (hmem : u.mem = t.mem) (htags : u.tags = t.tags) : GivesFrames c l s u := by
  have hframe : u.frame = t.frame := by funext k; unfold State.frame; rw [hframes]
  have hbyte : u.byte = t.byte := by funext b; unfold State.byte; rw [hmem]
  have htag : u.tag = t.tag := by funext b; unfold State.tag; rw [htags]
  exact ⟨hframe ▸ h.owner, hframe ▸ h.frame, hbyte ▸ h.byte, htag ▸ h.tag⟩

theorem GivesFrames.append {c : Nat} {l k : List Nat} {s t u : State} (h : GivesFrames c l s t) (g : GivesFrames c k t u) :
    GivesFrames c (l ++ k) s u where
  owner n hn := by
    by_cases hk : n ∈ k
    · exact g.owner n hk
    · rw [g.frame n hk]
      exact h.owner n ((List.mem_append.mp hn).resolve_right hk)
  frame n hn := by
    rw [List.mem_append, not_or] at hn
    rw [g.frame n hn.2, h.frame n hn.1]
  byte b := by
    rw [g.byte, h.byte]
    by_cases hk : b / 65536 ∈ k <;> simp [hk]
  tag b := by
    rw [g.tag, h.tag]
    by_cases hk : b / 65536 ∈ k <;> simp [hk]

theorem givesFrames_one (s : State) (c n : Nat) (attr : BitVec 2) :
    GivesFrames c [n] s ((s.wipe n 1).setFrame n ⟨.area c, attr, false, false⟩) where
  owner k hk := by
    rw [State.frame_setFrame, if_pos (List.mem_singleton.mp hk)]
  frame k hk := by
    rw [State.frame_setFrame, if_neg fun h => hk (List.mem_singleton.mpr h)]
    rfl
  byte b := (s.byte_wipe n b).trans (by simp)
  tag b := (s.tag_wipe n b).trans (by simp)

theorem givesFrames_foldl (c : Nat) (attr : BitVec 2) (l : List Nat) (s : State) : GivesFrames c l s
    (l.foldl (fun s n => (s.wipe n 1).setFrame n ⟨.area c, attr, false, false⟩) s) := by
  induction l generalizing s with
  | nil => exact .refl c s
  | cons n l ih => exact (givesFrames_one s c n attr).append (ih _)

theorem fields_foldl_give (x : Frame) (l : List Nat) (s : State) :
    (l.foldl (fun s n => (s.wipe n 1).setFrame n x) s).fields = s.fields := by
  induction l generalizing s with
  | nil => rfl
  | cons n l ih => rw [List.foldl_cons, ih]; rfl

theorem givesFrames_takeRegion (s : State) (c : Nat) (sizes : List Nat) :
    GivesFrames c (s.takeRegion c sizes).2.frames s (s.takeRegion c sizes).1 := givesFrames_foldl _ _ _ _

theorem State.fields_takeRegion (s : State) (c : Nat) (sizes : List Nat) :
    (s.takeRegion c sizes).1.fields = s.fields := fields_foldl_give _ _ _

/-- A region is taken of frames that nobody has. -/
theorem State.frame_of_mem_takeRegion {s : State} {c k : Nat} {sizes : List Nat}
    (h : k ∈ (s.takeRegion c sizes).2.frames) : s.frame k = frameInit := by
  have hmem := List.mem_of_mem_take h
  have hidle : s.idleFrame k = true := (List.mem_filter.mp hmem).2
  simpa using (Bool.and_eq_true_iff.mp hidle).1

/-- The frames of the regions that a relay is given. -/
def Relay.areaFrames (rl : Relay) : List Nat := rl.backing.frames ++ rl.save.frames

theorem givesFrames_withRegions (s : State) (f : Field) (rl : Relay) :
    GivesFrames f.ctx (s.withRegions f rl).2.areaFrames s (s.withRegions f rl).1 :=
  (givesFrames_takeRegion s f.ctx [scratchRounded f]).append (givesFrames_takeRegion _ f.ctx (rl.saveMost f))

theorem State.fields_withRegions (s : State) (f : Field) (rl : Relay) : (s.withRegions f rl).1.fields = s.fields :=
  (State.fields_takeRegion _ _ _).trans (State.fields_takeRegion _ _ _)

/-- Both regions come of frames that nobody had before the first was taken. -/
theorem State.frame_of_mem_withRegions {s : State} {f : Field} {rl : Relay} {k : Nat}
    (h : k ∈ (s.withRegions f rl).2.areaFrames) : s.frame k = frameInit := by
  have hfirst := givesFrames_takeRegion s f.ctx [scratchRounded f]
  by_cases hk : k ∈ (s.takeRegion f.ctx [scratchRounded f]).2.frames
  · exact State.frame_of_mem_takeRegion hk
  · rw [← hfirst.frame k hk]
    exact State.frame_of_mem_takeRegion (c := f.ctx) ((List.mem_append.mp h).resolve_left hk)

/-! ### Launch capabilities -/

theorem onlyDraws_drawFor (s : State) (who : Asker) (pa : Nat) : OnlyDraws s (s.drawFor who pa) := by
  unfold State.drawFor
  split
  · exact onlyDraws_drawSlice _ _ _
  · exact .refl s

theorem onlyDraws_tableCap (s : State) (who : Asker) (c n : Nat) : OnlyDraws s (s.tableCap who c n).1 := by
  unfold State.tableCap
  split
  · exact .refl s
  · next cx _ =>
    have hseek : OnlyDraws s (s.seek who c ((cx.capRoot + 16 * n) % 2 ^ 57) false).1 := .of_fields (keepsWork_seek _ _ _ _ _).fields
    split <;> rename_i h <;> rw [h] at hseek
    · exact hseek.trans (onlyDraws_drawFor _ _ _)
    all_goals exact hseek

theorem onlyDraws_launchCaps (s : State) (who : Asker) (c base n : Nat) : OnlyDraws s (s.launchCaps who c base n).1 := by
  induction n with
  | zero => exact .refl s
  | succ n ih =>
    rw [State.launchCaps]
    split <;> rename_i h1 <;> rw [h1] at ih
    · exact ih
    · have hnext := ih.trans (onlyDraws_tableCap _ who c (base + n))
      split <;> rename_i h2 <;> rw [h2] at hnext <;> exact hnext

/-! ### The relay enters -/

theorem find_listed (a : List (Nat × Nat × List Nat)) (lc q : Nat) :
    find (listed a lc) q =
      (a.find? fun e => decide (e.1 = q)).map fun e => squadStart e.2.1 (4 * lc + e.2.1 % 4) e.2.2 := by
  induction a with
  | nil => rfl
  | cons e a ih =>
    rw [List.find?_cons]
    by_cases h : e.1 = q
    · simp [listed, find, h]
    · simp only [h, decide_false]
      rw [← ih]
      simp [listed, find, Ne.symm h]

theorem squad_of_find_listed {a : List (Nat × Nat × List Nat)} {lc q : Nat} {k : Squad} {e : Nat × Nat × List Nat}
    (hk : find (listed a lc) q = some k) (he : (a.find? fun e => decide (e.1 = q)) = some e) :
    k.core = e.2.1 ∧ k.slots = e.2.2 := by
  rw [find_listed, he] at hk
  obtain rfl := Option.some.inj hk
  exact ⟨rfl, rfl⟩

/-- The context's map names a chosen cluster. -/
theorem State.Chooses.mapped {s : State} {f : Field} {squads : List (Nat × List Nat)} {r : Option Nat} {c : Nat}
    {a : List (Nat × Nat × List Nat)} (h : s.Chooses f squads r c a) :
    s.mapped f c = some ((s.mapped f c).getD 0) := by
  obtain ⟨⟨-, hmap, -⟩, -⟩ := h
  obtain ⟨x, hx⟩ := Option.isSome_iff_exists.mp hmap
  rw [hx, Option.getD_some]

theorem State.noteUse_eq (s : State) (rl : Relay) : s.noteUse rl = { s with fields := (s.noteUse rl).fields } := by
  unfold State.noteUse
  split <;> rfl

/-- A relay enters residency under a number, with its regions as taken, and its field counts it as placed. -/
def State.takeIn (id fid lin : Nat) (p : State × Relay) : State :=
  (({ p.1 with relays := put p.1.relays id p.2, nextId := id + 1 } : State).modField fid fun f =>
    { f with placed := f.placed ++ [lin] }).noteUse p.2

section
variable (id fid lin : Nat) (p : State × Relay)

theorem State.find_relays_takeIn : find (State.takeIn id fid lin p).relays id = some p.2 := by
  unfold State.takeIn
  rw [(keepsRelays_noteUse _ _).relays]
  exact find_put_self _ _ _

theorem State.memory_takeIn : (State.takeIn id fid lin p).frames = p.1.frames ∧ (State.takeIn id fid lin p).mem = p.1.mem ∧
    (State.takeIn id fid lin p).tags = p.1.tags := by
  unfold State.takeIn
  rw [State.noteUse_eq]
  exact ⟨rfl, rfl, rfl⟩

theorem State.find_fields_takeIn {g : Field} (hg : find p.1.fields fid = some g) :
    ∃ x, find (State.takeIn id fid lin p).fields fid = some x ∧
      ({ g with placed := g.placed ++ [lin] } : Field).Drew x := by
  unfold State.takeIn
  exact onlyDraws_noteUse _ p.2 fid _ (State.find_modField (f := g) hg _)

end

theorem exec_relayPlacement_first {s s1 : State} {fid lin c : Nat} {f : Field} {a : List (Nat × Nat × List Nat)}
    {caps : List Cap} (hf : find s.fields fid = some f)
    (hback : (s.evicted fid).find? (fun e => decide (e.2.linear = lin)) = none) (hmay : s.mayPlace fid f lin = true)
    (hc : s.Chooses f ((List.range (hdrRelay f)).map fun q => (q, [])) none c a)
    (hcaps : s.launchCaps (.place fid) f.ctx f.capBase f.ncap = (s1, some caps)) {rl : Relay}
    (hrl : rl = relayStart fid f lin ((s.mapped f c).getD 0) c (listed a ((s.mapped f c).getD 0)) caps)
    (hroom : s1.holdsRegions f rl = true) :
    exec (.relayPlacement fid lin) s = .next (State.takeIn s1.nextId fid lin (s1.withRegions f rl)) := by
  change execRelayPlacement fid lin s = _
  simp only [execRelayPlacement, hf, hback, hmay, if_true, State.placeRelay, hc.best, hcaps, ← hrl, hroom, Bool.not_true,
    Bool.false_eq_true, if_false]
  rfl

/-! ### The statement -/

/-- Settles O56: each event by the step it takes, the choice of a cluster by `State.Chooses.best`. -/
theorem placement : Obligations.Placement := by
  refine ⟨?first, ?restored, ?together, ?retirement, ?lost, ?migration, ?within, ?slice, ?preemption, ?deadline⟩
  case first =>
    intro s s1 fid lin c f a caps hf hback hmay hc hcaps lc hroom
    obtain ⟨rl, hrl⟩ : ∃ rl, rl = relayStart fid f lin lc c (listed a lc) caps := ⟨_, rfl⟩
    rw [← hrl] at hroom
    have hdraws := onlyDraws_launchCaps s (.place fid) f.ctx f.capBase f.ncap
    rw [hcaps] at hdraws
    obtain ⟨f1, hf1, l, rfl⟩ := hdraws fid f hf
    obtain ⟨g, hg, k, rfl⟩ := State.find_fields_takeIn s1.nextId fid lin (s1.withRegions f rl)
      (s1.fields_withRegions f rl ▸ hf1)
    obtain ⟨hframes, hmem, htags⟩ := State.memory_takeIn s1.nextId fid lin (s1.withRegions f rl)
    have hgives := (givesFrames_withRegions s1 f rl).congr hframes hmem htags
    refine ⟨_, _, _, exec_relayPlacement_first hf hback hmay hc hcaps hrl hroom, State.find_relays_takeIn _ _ _ _,
      by rw [hrl]; rfl, by rw [hrl]; rfl, by rw [hrl]; rfl, by rw [hrl]; exact hc.mapped, fun q k e hk he => ?_, hg, rfl, rfl,
      fun n hn => ⟨State.frame_of_mem_withRegions hn, hgives.owner n hn⟩, fun b => ⟨fun hb => ?_, fun hb => ?_⟩⟩
    · rw [hrl] at hk
      exact squad_of_find_listed hk he
    · exact ⟨(hgives.byte b).trans (if_pos hb), (hgives.tag b).trans (if_pos hb)⟩
    · exact ⟨(hgives.byte b).trans (if_neg hb), (hgives.tag b).trans (if_neg hb)⟩
  case restored =>
    intro s fid lin r c f rl a hf hback hmay hmode hc hr
    have hexec := exec_relayPlacement_alone hf hback hmay hmode hc
    refine ⟨fun hsave => ?_, fun hsave hfield => ?_⟩
    · obtain ⟨y, hy, hplace, -⟩ := putsRelay_return hr hsave c a
      exact ⟨_, y, hexec, hy.find_self, hplace⟩
    · rw [hexec, State.settle_bad hr hsave hfield]
  case together =>
    intro s fid lin r f rl hf hback hmay hmode
    have hexec := exec_relayPlacement_together hf hback hmay hmode
    refine ⟨fun hnone => by rw [hexec, hnone]; rfl, fun t ht => ⟨by rw [hexec, ht]; rfl, fun hwhole => ?_⟩⟩
    exact (State.returnAll_resident _ s (fun e he => ⟨e.2, hwhole e he⟩) ht).2
  case retirement => exact fun s r rl f hr hquiet hstop hplace hf => exec_relayRetirement_quiet hr hquiet hstop hplace hf
  case lost =>
    exact fun s fid f hf hmode hlive =>
      ⟨exec_concurrencyLost_fits hf, exec_concurrencyLost_short hf hmode hlive⟩
  case migration =>
    intro s r c rl f a hr hf hplace hne hstop hmust helig hmap hfit hsave
    obtain ⟨d, hd⟩ := Option.isSome_iff_exists.mp hplace
    have hdc : d ≠ c := fun h => hne (h ▸ hd)
    obtain ⟨y, hy, hwork, hthere⟩ := putsRelay_moveRelay hr hsave c a
    exact ⟨_, y, exec_migration_away hr hf hd hdc hstop (hmust d hd) helig hmap hfit, hy.find_self, hthere, hwork.linear,
      hwork.field, hwork.scratch, hy.mem, fun n hn => (hy.findAt n).trans (if_neg hn)⟩
  case within =>
    intro s r c rl f hr hf
    refine ⟨fun d hd hne hmust => exec_migration_noReason hr hf hd hne hmust, fun hplace hstop hsane => ?_⟩
    have hexec := exec_migration_within hr hf hplace hstop
    have hkeep : KeepsPlaces s ((s.clearCore r c rl f).getD (s.gatherOn c)) := by
      cases hclear : s.clearCore r c rl f with
      | none => exact keepsPlaces_gatherOn hsane c
      | some t => exact keepsPlaces_clearCore (fun x hx => Option.some.inj (hr.symm.trans hx) ▸ hplace) hclear
    exact ⟨_, hexec, hkeep.mem, hkeep.stays⟩
  case slice => exact fun s r q rl k hr hplace hlive hk hfirst => exec_sliceExpiry hr hplace hlive hk hfirst
  case preemption =>
    intro s fid lin f hf
    cases hback : (s.evicted fid).find? fun e => decide (e.2.linear = lin) with
    | none => exact exec_preemption_outcome (exec_preemption_first hf hback)
    | some e => exact exec_preemption_outcome (exec_preemption_return hf hback)
  case deadline =>
    intro s r q rl k hr hk hask
    refine ⟨_, exec_yieldDeadline hr hk hask, fun y hy => (State.find_relays_tryLeave hy).imp id fun hsame => ?_⟩
    rw [State.find_modRelay, if_pos rfl, hr] at hsame
    obtain rfl := Option.some.inj hsame
    exact ⟨_, find_put_self _ _ _, rfl⟩

end Sys2Proof.Machine
end

section
/-! SUPPORT. Integer arithmetic: each word is a computing word whose value is the exact result, narrowed and placed (R93, R94,
R336, R396, R401). -/

namespace Sys2Proof.Machine

/-! ### Values of words as bit vectors -/

theorem signed_eq_toInt (w n : Nat) : signed w n = (BitVec.ofNat w n).toInt := by
  rw [BitVec.toInt_eq_toNat_cond, BitVec.toNat_ofNat]
  cases w with
  | zero => simp [signed, Nat.mod_one]
  | succ w =>
    have hhalf : 2 ^ w ≤ n % 2 ^ (w + 1) ↔ ¬2 * (n % 2 ^ (w + 1)) < 2 ^ (w + 1) := by rw [Nat.pow_succ]; omega
    simp only [signed, Nat.add_sub_cancel, hhalf, ite_not]

theorem wrap_eq_toNat (w : Nat) (z : Int) : wrap w z = (BitVec.ofInt w z).toNat := (BitVec.toNat_ofInt z).symm

/-- The residue of a number's signed reading of itself is the number's residue. -/
theorem wrap_signed_wrap (w : Nat) (z : Int) : wrap w (signed w (wrap w z)) = wrap w z := by
  rw [wrap_eq_toNat w z, signed_eq_toInt, BitVec.ofNat_toNat, BitVec.setWidth_eq, wrap_eq_toNat, BitVec.ofInt_toInt]

/-! ### Integer words -/

theorem intVal_zero (ty : BitVec 3) : intVal ty 0 = 0 := by simp [intVal, signed_eq_toInt]

/-- An operand read as a value of TYPE; one that is not there counts as 0 either way. -/
theorem iarg_map_intVal (ty : BitVec 3) (l : List Nat) (n : Nat) : iarg (l.map (intVal ty)) n = intVal ty (arg l n) := by
  rw [iarg, arg, List.getD_eq_getElem?_getD, List.getD_eq_getElem?_getD, List.getElem?_map]
  cases l[n]? with
  | none => exact (intVal_zero ty).symm
  | some a => rfl

/-- The immediate keeps its signed value in 32 bits (R336). -/
theorem intVal_imm29 (i : BitVec 29) : intVal 2#3 (imm29 i) = i.toInt := by
  change signed 32 (i.signExtend 32).toNat = i.toInt
  rw [signed_eq_toInt, BitVec.ofNat_toNat, BitVec.setWidth_eq, BitVec.toInt_signExtend_of_le (by decide)]

/-- A 32-bit result that wraps is the exact result modulo 2^32 (R94). -/
theorem intRes_word (z : Int) : intRes 2#3 false z = { d := wrap 32 z } :=
  congrArg (fun d => { d := d : Res }) (wrap_signed_wrap 32 z)

/-- A register form runs as the exact operation on the operands' values, narrowed and placed. -/
theorem runsAlu_intReg {i : Instr} {sh : Shape} {f : RegF} {op : List Int → Int} {val : List Nat → Int}
    (hexec : ∀ s, exec i s = intReg sh f s op) (hval : ∀ l, op (l.map (intVal f.ty)) = val l) :
    RunsAlu i (regAlu sh anyUnit f) fun l _ => { d := place f.ty (narrow f.ty f.sat (val l)) } := by
  obtain rfl : (fun l => op (l.map (intVal f.ty))) = val := funext hval
  exact runsAlu_of hexec

/-- An immediate form runs as the operation on 32 bits that wrap. -/
theorem runsAlu_intImm {i : Instr} {u : Bool} {f : ImmF} {op : Int → Int → Int} (hexec : ∀ s, exec i s = intImm u f s op) :
    RunsAlu i (immAlu u true f) fun l _ => { d := wrap 32 (op (signed 32 (arg l 0)) f.imm.toInt) } := by
  refine runsAlu_of fun s => (hexec s).trans ?_
  simp only [intImm, intRes_word, intVal_imm29]
  rfl

/-- Settles O7: the forms with registers by `runsAlu_intReg`, those with an immediate by `runsAlu_intImm`. -/
theorem integerArithmetic : Obligations.IntegerArithmetic := by
  refine ⟨fun f => ⟨?add, ?sub, ?mul, ?mad, ?mulhi, ?abs, ?min, ?max⟩, fun f row hrow => ?imm⟩
  case add => exact runsAlu_intReg (fun _ => rfl) fun l => by simp only [iAdd, iarg_map_intVal]
  case sub => exact runsAlu_intReg (fun _ => rfl) fun l => by simp only [iSub, iarg_map_intVal]
  case mul => exact runsAlu_intReg (fun _ => rfl) fun l => by simp only [iMul, iarg_map_intVal]
  case mad => exact runsAlu_intReg (fun _ => rfl) fun l => by simp only [iMad, iarg_map_intVal]
  case mulhi =>
    exact runsAlu_intReg (op := fun l => iarg l 0 * iarg l 1 / ((2 ^ tyW f.ty : Nat) : Int)) (fun _ => rfl) fun l => by
      simp only [iarg_map_intVal]
  case abs => exact runsAlu_intReg (fun _ => rfl) fun l => by simp only [iAbs, iarg_map_intVal]
  case min => exact runsAlu_intReg (fun _ => rfl) fun l => by simp only [iMin, iarg_map_intVal]
  case max => exact runsAlu_intReg (fun _ => rfl) fun l => by simp only [iMax, iarg_map_intVal]
  case imm =>
    simp only [List.mem_cons, List.not_mem_nil, or_false] at hrow
    rcases hrow with rfl | rfl | rfl | rfl | rfl | rfl | rfl | rfl <;> exact runsAlu_intImm fun _ => rfl

end Sys2Proof.Machine
end

section
/-! SUPPORT. Floating-point and level-index words: each is a computing word with the value the spec gives it (R98, R109 to
R121, R337, R375, R382 to R386, R446, R459). -/

namespace Sys2Proof.Machine

/-! ### Floating-point words (R98, R337, R375, R382 to R386, R459) -/

/-- A floating word runs as its operation on the operands decoded in the format of TYPE. -/
theorem runsAlu_floatReg {i : Instr} {sh : Shape} {f : RegF} {op : Fmt → List FVal → FRes}
    (hexec : ∀ s, exec i s = floatReg sh f s op) :
    RunsAlu i (regAlu sh {} f) fun l _ => floatRes (op (fmtOf f.ty.toNat) (l.map (fmtOf f.ty.toNat).val)) :=
  runsAlu_of hexec

/-- Settles O11: the words on one format by `runsAlu_floatReg`; FMIN, FMAX, VFMA2 and FCMP are computing words of values of
their own. -/
theorem floatArithmetic : Obligations.FloatArithmetic := by
  refine ⟨fun f => ⟨fun row hrow => ?format, ?min, ?max, ?halves⟩, fun f => ?compare⟩
  case format =>
    simp only [List.mem_cons, List.not_mem_nil, or_false] at hrow
    rcases hrow with rfl | rfl | rfl | rfl | rfl | rfl | rfl | rfl | rfl | rfl | rfl | rfl | rfl <;>
      exact runsAlu_floatReg fun _ => rfl
  case min => exact runsAlu_of fun _ => rfl
  case max => exact runsAlu_of fun _ => rfl
  case halves => exact runsAlu_of fun _ => rfl
  case compare => exact runsAlu_of fun _ => rfl

/-! ### Level-index words (R109 to R121, R446) -/

/-- Settles O13: every symmetric-level instruction is a computing word, SLCVT of either direction one that depends on OPX. -/
theorem levelResults : Obligations.LevelResults := by
  refine ⟨fun f => ⟨?add, ?mul, ?rcp, ?convert⟩, fun f => ?compare⟩
  case add => exact runsAlu_of fun _ => rfl
  case mul => exact runsAlu_of fun _ => rfl
  case rcp => exact runsAlu_of fun _ => rfl
  case convert => exact runsAlu_of fun _ => rfl
  case compare => exact runsAlu_of fun _ => rfl

end Sys2Proof.Machine
end

section
/-! SUPPORT. CVT: between scalar types a lane alone, into an E2M1X block and out of one the 32 lanes of a heat together (R104
to R108, R369 to R371). -/

namespace Sys2Proof.Machine

/-! ### The three kinds of CVT -/

theorem exec_cvt_toBlock {f : RegF} (hclass : cvtDcl f = true) (hblock : f.ty = 6#3) (s : State) :
    exec (.cvt f) s = cvtToBlock f s := by
  change execCvt f s = _
  simp [execCvt, hclass, hblock]

theorem exec_cvt_ofBlock {f : RegF} (hscalar : ¬(cvtDcl f = true ∧ f.ty = 6#3)) (hclass : cvtScl f = true)
    (hblock : f.opx = 6#3) (s : State) : exec (.cvt f) s = cvtOfBlock f s := by
  change execCvt f s = _
  simp [execCvt, hscalar, hclass, hblock]

theorem exec_cvt_scalar {f : RegF} (hdst : ¬(cvtDcl f = true ∧ f.ty = 6#3)) (hsrc : ¬(cvtScl f = true ∧ f.opx = 6#3))
    (s : State) : exec (.cvt f) s =
      aluWord s (cvtAlu f) fun l _ => cvtRes (cvtDcl f) (cvtScl f) f.ty f.opx f.rnd f.sat (arg l 0) := by
  change execCvt f s = _
  simp [execCvt, hdst, hsrc]

/-! ### Words of all 32 lanes -/

theorem lanesOf_allLanes : lanesOf allLanes = laneIds := by decide

theorem foldl_or_const {w : Nat} {α : Type} {l : List α} (hl : l ≠ []) (b : BitVec w) :
    l.foldl (fun a _ => a ||| b) 0#w = b := by
  have hkeep : ∀ m : List α, m.foldl (fun a _ => a ||| b) b = b := by
    intro m
    induction m with
    | nil => rfl
    | cons _ m ih => rwa [List.foldl_cons, BitVec.or_self]
  obtain ⟨c, m, rfl⟩ := List.exists_cons_of_ne_nil hl
  rw [List.foldl_cons, BitVec.zero_or]
  exact hkeep m

/-- Exceptions that every lane raises alike are the word's. -/
theorem flagsOf_allLanes (o : Nat → LaneOut) {fp : BitVec 5} {sl : BitVec 4} (hfp : ∀ i, (o i).fpf = fp)
    (hsl : ∀ i, (o i).slf = sl) : flagsOf allLanes o = (fp, sl) := by
  simp only [flagsOf_eq, hfp, hsl]
  rw [lanesOf_allLanes, foldl_or_const (by decide), foldl_or_const (by decide)]

theorem regAfter_written_val (old r : Reg) (dest : Bool) (t : Taint) : (regAfter old (some r) dest t).val = r.val := by
  unfold regAfter
  split <;> rfl

theorem regOf_self (d v : Nat) (t : Taint) : regOf d 1 v t d = some ⟨BitVec.ofNat 32 v, t⟩ := by simp [regOf]

/-- A word that every lane of the heat executes, that meets no cause, and that writes `val i` in register `n` of lane i. -/
theorem exec_allLanes {i : Instr} {s : State} {F : Focus} {x : Strand} {info : WordInfo} {d : Dests} {o : Nat → LaneOut}
    {n : Nat} {val : Nat → Word32} {fl : BitVec 5 × BitVec 4} (h : Issues s F x) (hla : info.la = 0)
    (hlanes : F.lanes = allLanes) (hexec : exec i s = .next (s.finish F x info d allLanes o []))
    (hplain : ∀ i, allLanes.getLsbD i = true → PlainOut (o i))
    (hflags : flagsOf allLanes o = fl) (hwrite : ∀ i, ∃ t, lastFor (o i).v n = some ⟨val i, t⟩) :
    ∃ t y, exec i s = .next t ∧ t = s.withStrand F.unit y ∧
      y.fpf = ((x.spend info.places).addFlags allLanes fl.1 fl.2).fpf ∧
      ∀ i, i < 32 → ((y.lane i).reg n).val = val i := by
  obtain ⟨y, hy, hran⟩ := finish_ran (d := d) (sw := []) h hla hplain
  refine ⟨_, y, hexec, hy, hflags ▸ hran.fpf, fun i hi => ?_⟩
  have hall : allLanes.getLsbD i = true := (mem_lanesOf.mp (lanesOf_allLanes ▸ List.mem_range.mpr hi)).2
  obtain ⟨t, hval⟩ := hwrite i
  rw [hran.reg i n hi (hlanes ▸ hall), if_pos hall]
  simp only [hval, regAfter_written_val]

/-! ### Blocks (R104 to R106, R371) -/

/-- Settles O12: between scalar types by the class of either type; into a block and out of one by `exec_allLanes`, since what
the statement asks for leaves none of the causes of R371. -/
theorem conversions : Obligations.Conversions := by
  refine ⟨fun f hdst hsrc => ?scalar, ?into, ?out⟩
  case scalar =>
    refine runsAlu_of fun s => (exec_cvt_scalar hdst hsrc s).trans (congrArg (aluWord s (cvtAlu f)) ?_)
    funext l _
    cases cvtDcl f <;> cases cvtScl f <;> rfl
  case into =>
    intro s F x f h hla hclass hblock hheat hlanes hall hextra hnamed extra b htraps
    obtain ⟨hunit, hregs⟩ := hnamed
    rw [hlanes] at hall
    have hnext := exec_cvt_toBlock hclass hblock s
    rw [cvtToBlock, withUnit_issues h] at hnext
    simp only [hall, hheat, hlanes, hextra, hunit] at hnext
    exact exec_allLanes (fl := (b.fl, 0#4)) h (congrArg BitVec.toNat hla) hlanes hnext
      (fun i hi => ⟨by simpa [hregs i hi] using htraps, rfl, rfl, rfl⟩) (flagsOf_allLanes _ (fun _ => rfl) fun _ => rfl)
      fun i => ⟨_, (lastFor_single _ _ _).trans (if_pos rfl)⟩
  case out =>
    intro s F x f h hla hclass hblock hscalar hheat hlanes hall hnamed src scale extra r hvalid htraps
    obtain ⟨hunit, hregs⟩ := hnamed
    rw [hlanes] at hall
    have hnext := exec_cvt_ofBlock hscalar hclass hblock s
    rw [cvtOfBlock, withUnit_issues h] at hnext
    simp only [scale, extra, src] at hvalid
    simp only [hall, hheat, hlanes, hunit, hvalid] at hnext
    obtain ⟨t, y, ht, hy, -, hval⟩ := exec_allLanes (val := fun i => BitVec.ofNat 32 (r i).bits) h
      (congrArg BitVec.toNat hla) hlanes hnext
      (fun i hi => ⟨by simpa [hregs i hi] using htraps i (BitVec.lt_of_getLsbD hi), rfl, rfl, rfl⟩) rfl
      fun i => ⟨_, (lastFor_splitRegs _ _ _ _ _).trans (regOf_self _ _ _)⟩
    exact ⟨t, y, ht, hy, hval⟩

end Sys2Proof.Machine
end

section
/-! SUPPORT. BOOST, THERM and WRD: the rules of words that execute once for all their lanes, the decision of R282, and the
unit a selector of WRD names (R260, R281 to R289, R347, R361, R457, R462). -/

namespace Sys2Proof.Machine

/-! ### Words that execute once (R347) -/

/-- An operand in one S register is that register. -/
theorem readOpd_sreg_one (x : Strand) (i n : Nat) : readOpd x i true n 1 = ⟨(x.sreg n).val.toNat, (x.sreg n).taint⟩ := by
  simp [readOpd, joinRegs, Taint.join_clean]

/-- Where no executing lane meets a cause of its own for the S registers named, the word meets none. -/
theorem scalarCauses_eq_nil {s : State} {F : Focus} {x : Strand} {runs : Runs} {e : LaneSet} {p : Pred} {l : List Nat}
    (he : e ≠ 0#32) (h : NamedOk s F x runs ⟨[], l, predNamed p⟩ e) : scalarCauses s F.unit x e p l = [] := by
  obtain ⟨-, hlanes⟩ := h
  have hlane : ∀ i, e.getLsbD i = true →
      beyondHeader (s.nv F.unit) (s.ns F.unit) ⟨[], l, []⟩ = false ∧ pendingIn x i ⟨[], l, predNamed p⟩ = false := by
    intro i hi
    obtain ⟨hheader, hpending⟩ := List.append_eq_nil_iff.mp (hlanes i hi)
    exact ⟨by simpa [headerCauses, beyondHeader] using hheader, by simpa [pendingCauses] using hpending⟩
  obtain ⟨i, -, -, hi⟩ := lowest_some he
  have hany : ((lanesOf e).any fun j => pendingIn x j ⟨[], l, predNamed p⟩) = false :=
    List.any_eq_false.mpr fun j hj => by simp [(hlane j (mem_lanesOf.mp hj).2).2]
  simp [scalarCauses, (hlane i hi).1, hany]

/-- A word that raises no exception in any lane adds none. -/
theorem flagsOf_laneNone (e : LaneSet) : flagsOf e (fun _ => laneNone) = (0#5, 0#4) := by
  unfold flagsOf
  generalize lanesOf e = l
  induction l with
  | nil => rfl
  | cons _ _ ih => simpa only [List.foldl_cons, laneNone, BitVec.or_zero] using ih

/-- A word that executes once, meets no cause and holds no lane writes its S registers and nothing else. -/
theorem finishOnce_ran {s : State} {F : Focus} {x : Strand} {info : WordInfo} {d : List Nat} {e : LaneSet}
    {sw : List (Nat × Reg)} (h : Issues s F x) (hla : info.la = 0) :
    Ran s (s.finishOnce F x info d e { sw := sw }) F x info e ⟨[], [], d⟩ { s := lastFor sw } := by
  have hout : ∀ i, (if e.getLsbD i = true then laneNone else laneNone) = laneNone := fun _ => ite_self _
  have hfinish : s.finishOnce F x info d e { sw := sw } = s.finish F x info ⟨[], [], d⟩ e (fun _ => laneNone) sw :=
    congrArg (fun o => s.finish F x info ⟨[], [], d⟩ e o sw) (funext hout)
  rw [hfinish]
  exact (finish_ran h hla fun _ _ => ⟨rfl, rfl, rfl, rfl⟩).congr (fun _ _ _ => rfl) (fun _ _ _ => rfl) (fun _ => rfl)
    (congrArg Prod.fst (flagsOf_laneNone e)) (congrArg Prod.snd (flagsOf_laneNone e))

/-- Such a word that writes one S register. -/
theorem finishOnce_ran_single {s : State} {F : Focus} {x : Strand} {info : WordInfo} {e : LaneSet} (d : Nat) (r : Reg)
    (h : Issues s F x) (hla : info.la = 0) :
    Ran s (s.finishOnce F x info [d] e { sw := [(d, r)] }) F x info e ⟨[], [], [d]⟩
      { s := fun m => if m = d then some r else none } :=
  (finishOnce_ran h hla).congr (fun _ _ _ => rfl) (fun _ _ _ => rfl)
    (fun m => (lastFor_single d r m).trans (ite_congr (propext eq_comm) (fun _ => rfl) fun _ => rfl)) rfl rfl

theorem regInfo_la {f : RegF} (h : f.la = 0#4) : (regInfo f).la = 0 := congrArg BitVec.toNat h

/-! ### A unit still issues after a change of clusters or of the device registers -/

theorem Issues.setCluster {s : State} {F : Focus} {x : Strand} (h : Issues s F x) (c : Nat) (cl : Cluster) :
    Issues (s.setCluster c cl) F x :=
  ⟨h.focus, h.strand, h.lanes, h.noStep⟩

theorem Issues.withDev {s : State} {F : Focus} {x : Strand} (h : Issues s F x) (dev : Device) :
    Issues { s with dev := dev } F x :=
  ⟨h.focus, h.strand, h.lanes, h.noStep⟩

/-! ### BOOST (R281 to R285, R291) -/

/-- The status of a BOOST, in the order of R282. -/
def State.boostStatus (s : State) (u : UnitRef) (spare : Bool) (level cycles : Nat) : Nat :=
  let c := (s.clusterOf u).getD 0
  if s.quarClass u then 2
  else if spare = true ∧ s.crossing u = true then 4
  else if level = 0 then 0
  else if s.boosted .pacer c then 4
  else if s.dev.lifeh = 0 then 7
  else if bits (s.srTallow (c / 26)) 7 0 < 5 * level then 3
  else if (s.boostCost c ((cycles + 2 ^ 20 - 1) / 2 ^ 20) level : Int) ≤ s.dev.bal then 0
  else if spare = false ∨ s.dev.bal < 0 then 1
  else if s.clustersWith .spare = 0 then 6
  else 5

/-- The machine after a BOOST of a status: status 0 cancels the grant at level 0 and else pays for one (R282, R283). -/
def State.afterBoost (s : State) (u : UnitRef) (level cycles status : Nat) : State :=
  let c := (s.clusterOf u).getD 0
  let n := (cycles + 2 ^ 20 - 1) / 2 ^ 20
  let paid : State := { s with dev := { s.dev with bal := s.dev.bal - s.boostCost c n level } }
  if status ≠ 0 then s
  else if level = 0 then s.setCluster c (s.cluster c).endGrant
  else paid.setCluster c { s.cluster c with grant := some ⟨level, n, none, s.fieldD u 0 fun f => f.ctx⟩ }

theorem afterBoost_refused (s : State) (u : UnitRef) (level cycles : Nat) {status : Nat} (h : status ≠ 0) :
    s.afterBoost u level cycles status = s := if_pos h

theorem afterBoost_cancelled (s : State) (u : UnitRef) {level : Nat} (cycles : Nat) (h : level = 0) :
    s.afterBoost u level cycles 0 =
      s.setCluster ((s.clusterOf u).getD 0) (s.cluster ((s.clusterOf u).getD 0)).endGrant := if_pos h

theorem afterBoost_granted (s : State) (u : UnitRef) {level : Nat} (cycles : Nat) (h : level ≠ 0) :
    s.afterBoost u level cycles 0 =
      (let c := (s.clusterOf u).getD 0
       let n := (cycles + 2 ^ 20 - 1) / 2 ^ 20
       { s with dev := { s.dev with bal := s.dev.bal - s.boostCost c n level } }.setCluster c
        { s.cluster c with grant := some ⟨level, n, none, s.fieldD u 0 fun f => f.ctx⟩ }) := if_neg h

/-- The decision is that status and that machine: each branch but the cancelling and the granting one refuses. -/
theorem decideBoost_eq (s : State) (u : UnitRef) (spare : Bool) (level cycles : Nat) :
    s.decideBoost u spare level cycles =
      (s.boostStatus u spare level cycles, s.afterBoost u level cycles (s.boostStatus u spare level cycles)) := by
  unfold State.decideBoost State.boostStatus
  simp only [Bool.and_eq_true, Bool.or_eq_true, Bool.not_eq_true', decide_eq_true_eq]
  have refused : ∀ {status : Nat}, status ≠ 0 → (status, s) = (status, s.afterBoost u level cycles status) :=
    fun h => congrArg (Prod.mk _) (afterBoost_refused s u level cycles h).symm
  split
  · exact refused (by decide)
  split
  · exact refused (by decide)
  split
  next hlevel => exact congrArg (Prod.mk 0) (afterBoost_cancelled s u cycles hlevel).symm
  next hlevel =>
    split
    · exact refused (by decide)
    split
    · exact refused (by decide)
    split
    · exact refused (by decide)
    split
    · exact congrArg (Prod.mk 0) (afterBoost_granted s u cycles hlevel).symm
    split
    · exact refused (by decide)
    split
    · exact refused (by decide)
    exact refused (by decide)

theorem Issues.afterBoost {s : State} {F : Focus} {x : Strand} (h : Issues s F x) (u : UnitRef)
    (level cycles status : Nat) : Issues (s.afterBoost u level cycles status) F x := by
  unfold State.afterBoost
  dsimp only
  split
  · exact h
  split
  · exact h.setCluster _ _
  · exact (h.withDev _).setCluster _ _

/-- A BOOST without a cause: the decision, its status in S[D], and the exchange that status 5 brings. -/
theorem boostWord_ran {s : State} {F : Focus} {x : Strand} {f : RegF} {spare : Bool} (h : Issues s F x)
    (hla : f.la = 0#4) (he : execLanes x F.lanes f.pred ≠ 0#32) (hclean : PredsClean F x f.pred)
    (ha : (x.sreg f.a.toNat).taint = .clean) (hb : (x.sreg f.b.toNat).taint = .clean)
    (hlevel : (x.sreg f.a.toNat).val.toNat ≤ 4)
    (hcycles : (x.sreg f.a.toNat).val.toNat ≠ 0 → (x.sreg f.b.toNat).val.toNat ≠ 0)
    (hspare : spare = true → (x.sreg f.a.toNat).val.toNat ≠ 0)
    (hnamed : NamedOk s F x {} ⟨[], [f.d.toNat, f.a.toNat, f.b.toNat], predNamed f.pred⟩ (execLanes x F.lanes f.pred)) :
    let c := (s.clusterOf F.unit).getD 0
    let level := (x.sreg f.a.toNat).val.toNat
    let cycles := (x.sreg f.b.toNat).val.toNat
    let status := s.boostStatus F.unit spare level cycles
    let s0 := s.afterBoost F.unit level cycles status
    ∃ t t1 : State, boostWord spare f s = .next t ∧
      Ran (s0.noteDecided c) t1 F x (regInfo f) (execLanes x F.lanes f.pred) ⟨[], [], [f.d.toNat]⟩
        { s := fun m => if m = f.d.toNat then some ⟨BitVec.ofNat 32 status, .clean⟩ else none } ∧
      t = if status = 5 then t1.exchange c else t1 := by
  have hfield : (decide (4 < (x.sreg f.a.toNat).val.toNat) ||
      (decide ((x.sreg f.a.toNat).val.toNat ≠ 0) && decide ((x.sreg f.b.toNat).val.toNat = 0)) ||
      (spare && decide ((x.sreg f.a.toNat).val.toNat = 0))) = false := by
    simp only [Bool.or_eq_false_iff, Bool.and_eq_false_imp, decide_eq_true_eq, decide_eq_false_iff_not]
    exact ⟨⟨by omega, hcycles⟩, hspare⟩
  refine ⟨_, _, withUnit_issues h _, finishOnce_ran_single _ _ ((h.afterBoost _ _ _ _).setCluster _ _) (regInfo_la hla), ?_⟩
  simp only [readOpd_sreg_one, effectLanes_clean hclean, guardTaint_clean hclean, ha, hb, he, hnamed.1,
    scalarCauses_eq_nil he hnamed, hfield, decideBoost_eq]
  rfl

/-! ### THERM (R288, R457) -/

/-- A THERM without a cause gives the reading, with its selector's poison. -/
theorem execTherm_ran {s : State} {F : Focus} {x : Strand} {f : RegF} (h : Issues s F x) (hla : f.la = 0#4)
    (he : execLanes x F.lanes f.pred ≠ 0#32) (hsel : (x.sreg f.a.toNat).val.toNat ≤ 3)
    (hnamed : NamedOk s F x {} ⟨[], [f.d.toNat, f.a.toNat], predNamed f.pred⟩ (execLanes x F.lanes f.pred)) :
    ∃ t : State, execTherm f s = .next t ∧ Ran s t F x (regInfo f) (execLanes x F.lanes f.pred) ⟨[], [], [f.d.toNat]⟩
      { s := fun m => if m = f.d.toNat then
          some ⟨BitVec.ofInt 32 (s.thermValue F.unit (x.sreg f.a.toNat).val.toNat), (x.sreg f.a.toNat).taint⟩ else none } := by
  refine ⟨_, (withUnit_issues h _).trans ?_, finishOnce_ran_single _ _ h (regInfo_la hla)⟩
  simp only [readOpd_sreg_one, he, if_false, hnamed.1, scalarCauses_eq_nil he hnamed, Nat.not_lt.mpr hsel]
  rfl

/-! ### WRD (R289, R462) -/

theorem kindOf_kindNum (k : WearKind) : kindOf (kindNum k) = some k := by cases k <;> rfl

theorem kindNum_le (k : WearKind) : kindNum k ≤ 4 := by cases k <;> decide

theorem kindCount_le (k : WearKind) : kindCount k ≤ 416 := by cases k <;> decide

/-- A selector below 4 names that core of the unit's cluster. -/
theorem wrdUnit_core (s : State) (u : UnitRef) {sel : Nat} (h : sel < 4) :
    s.wrdUnit u sel = ([], .core, 4 * (s.clusterOf u).getD 0 + sel) := by
  obtain rfl | rfl | rfl | rfl : sel = 0 ∨ sel = 1 ∨ sel = 2 ∨ sel = 3 := by omega
  all_goals rfl

theorem wrdUnit_pacer (s : State) (u : UnitRef) : s.wrdUnit u 4 = ([], .pacer, (s.clusterOf u).getD 0) := rfl

theorem wrdUnit_array (s : State) (u : UnitRef) : s.wrdUnit u 5 = ([], .array, (s.clusterOf u).getD 0) := rfl

/-- With bit 31 set, in a privileged launch, the selector names any unit by its kind and number. -/
theorem wrdUnit_any {s : State} {u : UnitRef} {k : WearKind} {i sel : Nat} (hsel : sel = 2 ^ 31 + 2 ^ 24 * kindNum k + i)
    (hi : i < kindCount k) (hpriv : (s.fieldD u false fun f => f.priv) = true) : s.wrdUnit u sel = ([], k, i) := by
  have hk := kindNum_le k
  have hcount := kindCount_le k
  have hany : bit sel 31 = true := by rw [bit, Nat.testBit_eq_decide_div_mod_eq, decide_eq_true_eq]; omega
  obtain ⟨hnumber, hkind, hhigh, hmiddle⟩ :
      bits sel 15 0 = i ∧ bits sel 26 24 = kindNum k ∧ bits sel 30 27 = 0 ∧ bits sel 23 16 = 0 := by
    simp only [bits, Nat.reduceSub, Nat.reduceAdd]
    omega
  simp [State.wrdUnit, hany, hnumber, hkind, hhigh, hmiddle, kindOf_kindNum, hi, hpriv]

/-- A WRD without a cause gives the quadword of the record of the unit its selector names. -/
theorem execWrd_ran {s : State} {F : Focus} {x : Strand} {f : RegF} {k : WearKind} {i : Nat} (h : Issues s F x)
    (hla : f.la = 0#4) (he : execLanes x F.lanes f.pred ≠ 0#32) (hclean : PredsClean F x f.pred)
    (ha : (x.sreg f.a.toNat).taint = .clean) (hb : (x.sreg f.b.toNat).taint = .clean)
    (hquad : (x.sreg f.b.toNat).val.toNat ≤ 7)
    (hunit : s.wrdUnit F.unit (x.sreg f.a.toNat).val.toNat = ([], k, i))
    (hnamed : NamedOk s F x {} ⟨[], span f.d.toNat 2 ++ [f.a.toNat, f.b.toNat], predNamed f.pred⟩
      (execLanes x F.lanes f.pred)) :
    ∃ t : State, execWrd f s = .next t ∧
      Ran s t F x (regInfo f) (execLanes x F.lanes f.pred) ⟨[], [], span f.d.toNat 2⟩
        { s := regOf f.d.toNat 2 ((s.wearShown k i).quad k i (x.sreg f.b.toNat).val.toNat) .clean } := by
  refine ⟨_, (withUnit_issues h _).trans ?_, (finishOnce_ran h (regInfo_la hla)).congr (fun _ _ _ => rfl)
    (fun _ _ _ => rfl) (fun n => lastFor_splitRegs _ _ _ _ n) rfl rfl⟩
  simp only [readOpd_sreg_one, effectLanes_clean hclean, guardTaint_clean hclean, ha, hb, he, if_false, hnamed.1,
    scalarCauses_eq_nil he hnamed, hunit, Nat.not_lt.mpr hquad]
  rfl

/-- Settles O47: BOOST by `boostWord_ran` in either form, THERM by `execTherm_ran`, WRD by `execWrd_ran` once the selector's
form gives the unit it names. -/
theorem powerWords : Obligations.PowerWords := by
  refine ⟨fun f row hrow => ?boost, ?therm, ?wrd⟩
  case boost =>
    have hexec : ∀ s, exec row.1 s = boostWord row.2 f s := by
      simp only [List.mem_cons, List.not_mem_nil, or_false] at hrow
      rcases hrow with rfl | rfl <;> exact fun _ => rfl
    intro s F x h hla u e d level cycles c cl n cost status g paid granted s0 s1 he hclean ha hb hlevel hcycles hspare hnamed
    rw [hexec]
    exact boostWord_ran h hla he hclean ha hb hlevel hcycles hspare hnamed
  case therm =>
    intro s F x f h hla e d a he hsel hnamed
    exact execTherm_ran h hla he hsel hnamed
  case wrd =>
    intro s F x f k i h hla e d sel n c he hclean ha hb hquad hsel hnamed
    have hunit : s.wrdUnit F.unit sel = ([], k, i) := by
      rcases hsel with ⟨hlt, rfl, rfl⟩ | ⟨heq, rfl, rfl⟩ | ⟨heq, rfl, rfl⟩ | ⟨heq, hi, hpriv⟩
      · exact wrdUnit_core s F.unit hlt
      · rw [heq]; exact wrdUnit_pacer s F.unit
      · rw [heq]; exact wrdUnit_array s F.unit
      · exact wrdUnit_any heq hi hpriv
    exact execWrd_ran h hla he hclean ha hb hquad hunit hnamed

end Sys2Proof.Machine
end

section
/-! SUPPORT. Physical memory at reset: no byte is listed, so the canonical form holds. This is the base of every argument
that a reachable state's memory is in canonical form. -/

namespace Sys2Proof.Machine

@[simp] theorem State.reset_mem : State.reset.mem = [] := rfl

/-- With no entry there is no address out of order and no zero byte listed. -/
theorem Memory.wf_nil : Memory.wf [] = true :=
  (Memory.wf_iff []).mpr ⟨rfl, List.forall_mem_nil _⟩

/-- Settles O5: reset lists no byte of memory (`State.reset_mem`), and the empty map is in canonical form
(`Memory.wf_nil`). -/
theorem resetMemoryCanonical : Obligations.ResetMemoryCanonical := by
  unfold Obligations.ResetMemoryCanonical State.Inv
  rw [State.reset_mem]
  exact Memory.wf_nil

end Sys2Proof.Machine
end
